-- ==== Sys2Proof/Word.lean ====
section
/-! DEFINITION. The word types of the Veltan V4 and the sparse table keyed by a unit's number.
Registers are bit vectors of the width the manual gives them; counts, indexes and memory keys are
natural numbers. -/

namespace Sys2Proof

/-- A byte, the smallest addressable unit of memory. -/
abbrev Byte := BitVec 8

/-- A 64-bit register, the width of x0-x63 and of most system registers (spec/02 R24, spec/09 R213). -/
abbrev Word := BitVec 64

/-- A 32-bit value: an instruction word (spec/08 R153), a count register, an FP32 pattern. -/
abbrev W32 := BitVec 32

/-- A table keyed by a unit's number, kept in rising key order; an absent key stands for the unit's
reset value, which the reader of the table names. -/
abbrev FMap (α : Type) := List (Nat × α)

/-- The value at key `k`, or `d` where the table has no such key. -/
def FMap.find {α : Type} : FMap α → Nat → α → α
  | [], _, d => d
  | (k', v) :: r, k, d => if k' = k then v else FMap.find r k d

/-- The table with `v` at key `k`. -/
def FMap.insert {α : Type} : FMap α → Nat → α → FMap α
  | [], k, v => [(k, v)]
  | (k', v') :: r, k, v =>
    if k < k' then (k, v) :: (k', v') :: r
    else if k = k' then (k, v) :: r
    else (k', v') :: FMap.insert r k v

/-- The table without key `k`. -/
def FMap.erase {α : Type} (m : FMap α) (k : Nat) : FMap α := m.filter (fun e => e.1 ≠ k)

/-- The keys the table lists. -/
def FMap.keys {α : Type} (m : FMap α) : List Nat := m.map (·.1)

end Sys2Proof
end

