-- ==== Sys2Proof/Machine/Bits.lean ====
section
/-! DEFINITION. Bit fields, byte order and the few list helpers that the machine uses. Everything is
little-endian (spec/00 R4). -/

namespace Sys2Proof.Machine

/-- Bits [lo + n - 1 : lo] of a word, as a number. -/
def bits (w lo n : Nat) : Nat := (w >>> lo) % 2 ^ n

/-- Bit `k` of a bit vector as a Bool. -/
def bitAt {w : Nat} (v : BitVec w) (k : Nat) : Bool := v.getLsbD k

/-- `v` with the field of `n` bits at `lo` replaced by the low `n` bits of `f`. -/
def putField {w : Nat} (v : BitVec w) (lo n f : Nat) : BitVec w :=
  let m : BitVec w := BitVec.ofNat w ((2 ^ n - 1) * 2 ^ lo)
  (v &&& ~~~m) ||| BitVec.ofNat w (f % 2 ^ n * 2 ^ lo)

/-- A 64-bit word of a number. -/
def wd (n : Nat) : Word := BitVec.ofNat 64 n

/-- The number that a list of bytes holds, the first byte least significant. -/
def leNat : List Byte → Nat
  | [] => 0
  | b :: r => b.toNat + 256 * leNat r

/-- The `n` low bytes of a number, least significant first. -/
def leBytes : Nat → Nat → List Byte
  | 0, _ => []
  | n + 1, v => BitVec.ofNat 8 v :: leBytes n (v / 256)

/-- Sign extension of the low `n` bits of a number to an integer. -/
def sext (n v : Nat) : Int :=
  let u := v % 2 ^ n
  if u < 2 ^ (n - 1) then (u : Int) else (u : Int) - (2 ^ n : Nat)

/-- A 64-bit word of an integer, modulo 2^64. -/
def wdInt (i : Int) : Word := BitVec.ofInt 64 i

/-- Sign extension of the low `n` bits of a number to a 64-bit word. -/
def sextW (n v : Nat) : Word := wdInt (sext n v)

/-- The first element satisfying `p`, with the list without it. -/
def pickFirst {α : Type} (p : α → Bool) : List α → Option (α × List α)
  | [] => none
  | a :: r => if p a then some (a, r) else (pickFirst p r).map fun (b, q) => (b, a :: q)

/-- Replace the elements satisfying `p`. -/
def replaceWhere {α : Type} (p : α → Bool) (f : α → α) (l : List α) : List α :=
  l.map fun a => if p a then f a else a

/-- The element at `k`, or `d` past the end. -/
def nth {α : Type} (l : List α) (k : Nat) (d : α) : α := (l[k]?).getD d

/-- The vector with `a` at `k` where `k` is an index of it. -/
def vput {α : Type} {n : Nat} (v : Vector α n) (k : Nat) (a : α) : Vector α n :=
  if h : k < n then v.set k a else v

/-- The element of a vector at `k`, or `d` past the end. -/
def vget {α : Type} {n : Nat} (v : Vector α n) (k : Nat) (d : α) : α := (v[k]?).getD d

/-- The number whose fields of `w` bits are `f 0`, `f 1`, ... up to `n` of them, the first least significant. -/
def assemble (w n : Nat) (f : Nat → Nat) : Nat :=
  (List.range n).foldr (fun k acc => f k % 2 ^ w + (acc <<< w)) 0

/-- Field `k` of `w` bits. -/
def elem (w v k : Nat) : Nat := bits v (w * k) w

end Sys2Proof.Machine
end

