-- ==== Sys2Proof/Syntax.lean ====
section
/-! DEFINITION. The instructions of the Veltan V4: one constructor per row of spec/opcode_table.json.
A row is an instruction of a lane (spec/08 R153-R168), a word of a kiln program (spec/13 R293-R301), or an
event, a step that a part of the device other than a lane takes (spec/95). The argument of an event says
where it happens: `c` a context, `cl` a cluster, `d` a die, `id` an engine command or a stack entry. -/

namespace Sys2Proof

/-- The four lanes of a parcel (spec/03 R38). -/
inductive Lane where
  /-- The control lane. -/
  | k
  /-- The load lane. -/
  | l
  /-- The compute lane. -/
  | c
  /-- The store lane. -/
  | s
  deriving DecidableEq, Repr

/-- The number a lane has in the fault record and in a SEND (spec/20 R355, spec/08 R162). -/
def Lane.num : Lane → Nat
  | .k => 0
  | .l => 1
  | .c => 2
  | .s => 3

/-- The twelve element formats (spec/08 R160). -/
inductive Fmt where
  | fp32 | bf16 | fp16 | e4m3 | e5m2 | e2m1 | mxint8 | mxint6 | mxint4 | int8 | int32 | int64
  deriving DecidableEq, Repr

/-- The 4-bit code of a format (spec/08 R160). -/
def Fmt.code : Fmt → Nat
  | .fp32 => 0
  | .bf16 => 1
  | .fp16 => 2
  | .e4m3 => 3
  | .e5m2 => 4
  | .e2m1 => 5
  | .mxint8 => 6
  | .mxint6 => 7
  | .mxint4 => 8
  | .int8 => 9
  | .int32 => 10
  | .int64 => 11

/-- The format of a 4-bit code; the codes 0xC to 0xF are reserved (spec/08 R160). -/
def Fmt.ofCode : Nat → Option Fmt
  | 0 => some .fp32
  | 1 => some .bf16
  | 2 => some .fp16
  | 3 => some .e4m3
  | 4 => some .e5m2
  | 5 => some .e2m1
  | 6 => some .mxint8
  | 7 => some .mxint6
  | 8 => some .mxint4
  | 9 => some .int8
  | 10 => some .int32
  | 11 => some .int64
  | _ => none

/-- A scalar register x0-x63 (spec/02 R24). -/
abbrev XReg := Fin 64

/-- A predicate p0-p7 (spec/02 R24). -/
abbrev PReg := Fin 8

/-- A kiln register g0-g15 (spec/13 R292). -/
abbrev GReg := Fin 16

/-- The guard of a control-lane instruction: execute when predicate `p` is true, or, with `neg`, when it is
false (spec/08 R156). -/
structure Guard where
  neg : Bool
  p   : PReg
  deriving DecidableEq, Repr

/-- The unguarded form, G = 0b0000 (spec/02 R27). -/
def Guard.always : Guard := ⟨false, 0⟩

/-- A compute-lane operand field: a stack depth or a stream, popped or taken, or with `keep` peeked
(spec/02 R26). -/
structure Opnd where
  strm : Bool
  idx  : Fin 16
  keep : Bool
  deriving DecidableEq, Repr

/-- The operand field of a form that does not use it: zero (spec/08 R159). -/
def Opnd.zero : Opnd := ⟨false, 0, false⟩

/-- The token qualifiers of formats C-T and L-S: `wait=` and `sig=`, 0 for none (spec/08 R159, R161). -/
structure Toks where
  tw : Fin 8
  ts : Fin 8
  deriving DecidableEq, Repr

/-- What an access from outside the module does. -/
inductive HostOp where
  | read
  | write (v : Word)
  /-- An atomic: 0 add, 1 and, 2 or, 3 xor, 4 min, 5 max, 6 unsigned min, 7 unsigned max, 8 swap. -/
  | atomic (f : Fin 9) (v : Word)
  | cas (compare new : Word)
  deriving DecidableEq, Repr

/-- An access from outside the module: of the host through BAR0 (spec/15 R330) or the service mailbox (R331), or of a
peer (spec/15 R328). -/
structure HostAcc where
  op : HostOp
  /-- It names the service mailbox, at an offset in it. -/
  mailbox : Bool
  /-- An offset in its BAR, or for a peer a device physical address. -/
  addr : Nat
  /-- Bytes, 1 to 8. -/
  size : Fin 9
  /-- The key slot under which a peer's access runs. -/
  key : Fin 64
  /-- It arrives in the IDE stream (spec/15 R329). -/
  ide : Bool
  deriving DecidableEq, Repr

/-- Where a memory error was found (spec/21 R393, R394); `unc` says that it cannot be corrected. -/
inductive MemErr where
  /-- A 64-byte block of HBM, by block number. -/
  | hbm (unc : Bool) (block : Nat)
  /-- A till image: context, entry, byte offset in the till. -/
  | till (unc : Bool) (c e off : Nat)
  /-- A subsoil or bedrock image of an entry of a context. -/
  | image (unc : Bool) (c e : Nat)
  /-- A word of a core's scratchpad. -/
  | scratch (unc : Bool) (core off : Nat)
  /-- A word of a cluster's memory. -/
  | cmem (unc : Bool) (cl off : Nat)
  /-- A word of a kiln's instruction memory. -/
  | kiln (unc : Bool) (cl off : Nat)
  /-- A register file, latch or queue of a context. -/
  | reg (unc : Bool) (c off : Nat)
  /-- The storage of the key slots. -/
  | keys (unc : Bool)
  deriving DecidableEq, Repr

/-- The instructions and events of the part, one constructor per row of the opcode table. -/
inductive Instr where
  /-- NOP. Does nothing in any lane. (R155) -/
  | nop (g : Guard)
  /-- DO_IMM. Opens a counted loop whose count is an immediate; a count of zero skips to the matching ENDDO. (R199) -/
  | doImm (c : BitVec 12)
  /-- DO_REG. Opens a counted loop whose count comes from an x register in K or a count register in L, C and S. (R199) -/
  | doReg (r : BitVec 6)
  /-- BR. Branches by a signed word offset; it can be guarded only in K. (R196) -/
  | br (g : Guard) (o : BitVec 20)
  /-- WAIT. Waits for CNT tokens on a token queue and takes them. (R203) -/
  | wait (g : Guard) (q : Fin 16) (n : BitVec 6)
  /-- SIG. Once earlier instructions of the lane complete and room exists, pushes CNT tokens on a queue. (R203) -/
  | sig (g : Guard) (q : Fin 16) (n : BitVec 6)
  /-- RECV. Waits for a count register's ARRIVED mark and clears it, ordering later instructions after K's SENDs. (R202) -/
  | recv (n : Fin 8)
  /-- SEND. K writes xA[31:0] to a count register of L, C or S and sets its ARRIVED mark. (R201) -/
  | send (g : Guard) (ln : BitVec 2) (n : Fin 8) (a : XReg)
  /-- TRAP. Raises a software trap with a 12-bit code, precise at the TRAP. (R208) -/
  | trap (g : Guard) (c : BitVec 12)
  /-- PARK. Stops the lane's issue; the parcel retires when all four lanes are parked. (R210) -/
  | park (g : Guard)
  /-- END. K retires the parcel; dispatched instructions complete and nothing further issues. (R50) -/
  | endParcel (g : Guard)
  /-- BKPT. Stops the context's scope for dmdb when armed, otherwise acts as NOP. (R209) -/
  | bkpt (g : Guard) (c : BitVec 8)
  /-- ADD. Adds two registers modulo 2^64, or as 32 bits sign-extended with .W. (R183) -/
  | add (g : Guard) (d a b : XReg) (v : BitVec 2)
  /-- SUB. Subtracts two registers modulo 2^64, optionally as 32 bits. (R183) -/
  | sub (g : Guard) (d a b : XReg) (v : BitVec 2)
  /-- MUL. Writes the low 64 bits of a product, optionally as 32 bits. (R183) -/
  | mul (g : Guard) (d a b : XReg) (v : BitVec 2)
  /-- MULH. Writes bits 127:64 of the signed product. (R183) -/
  | mulh (g : Guard) (d a b : XReg)
  /-- MULHU. Writes bits 127:64 of the unsigned product. (R183) -/
  | mulhu (g : Guard) (d a b : XReg)
  /-- DIV. Signed division truncating toward zero, with defined results for zero and overflow. (R184) -/
  | div (g : Guard) (d a b : XReg)
  /-- DIVU. Unsigned division with a defined result for a zero divisor. (R184) -/
  | divu (g : Guard) (d a b : XReg)
  /-- REM. Signed remainder with the sign of the dividend. (R184) -/
  | rem (g : Guard) (d a b : XReg)
  /-- REMU. Unsigned remainder. (R184) -/
  | remu (g : Guard) (d a b : XReg)
  /-- AND. Bitwise and of two registers. (R183) -/
  | and (g : Guard) (d a b : XReg)
  /-- OR. Bitwise or of two registers. (R183) -/
  | or (g : Guard) (d a b : XReg)
  /-- XOR. Bitwise exclusive or of two registers. (R183) -/
  | xor (g : Guard) (d a b : XReg)
  /-- SHL. Shifts left by the low bits of xB. (R183) -/
  | shl (g : Guard) (d a b : XReg) (v : BitVec 2)
  /-- SHR. Shifts right with zero fill. (R183) -/
  | shr (g : Guard) (d a b : XReg) (v : BitVec 2)
  /-- SRA. Shifts right with sign fill. (R183) -/
  | sra (g : Guard) (d a b : XReg) (v : BitVec 2)
  /-- MIN. Signed minimum. (R183) -/
  | min (g : Guard) (d a b : XReg)
  /-- MAX. Signed maximum. (R183) -/
  | max (g : Guard) (d a b : XReg)
  /-- MINU. Unsigned minimum. (R183) -/
  | minu (g : Guard) (d a b : XReg)
  /-- MAXU. Unsigned maximum. (R183) -/
  | maxu (g : Guard) (d a b : XReg)
  /-- ADDI. Adds a sign-extended 8-bit immediate. (R185) -/
  | addi (g : Guard) (d a : XReg) (i : BitVec 8)
  /-- ANDI. Bitwise and with a sign-extended immediate. (R185) -/
  | andi (g : Guard) (d a : XReg) (i : BitVec 8)
  /-- ORI. Bitwise or with a sign-extended immediate. (R185) -/
  | ori (g : Guard) (d a : XReg) (i : BitVec 8)
  /-- XORI. Bitwise exclusive or with a sign-extended immediate. (R185) -/
  | xori (g : Guard) (d a : XReg) (i : BitVec 8)
  /-- SHLI. Shifts left by a 6-bit immediate. (R185) -/
  | shli (g : Guard) (d a : XReg) (i : BitVec 6)
  /-- SHRI. Shifts right with zero fill by a 6-bit immediate. (R185) -/
  | shri (g : Guard) (d a : XReg) (i : BitVec 6)
  /-- SRAI. Shifts right with sign fill by a 6-bit immediate. (R185) -/
  | srai (g : Guard) (d a : XReg) (i : BitVec 6)
  /-- LI. Loads a sign-extended 32-bit literal into xD. (R186) -/
  | li (g : Guard) (d : XReg) (lit : W32)
  /-- LIH. Writes a 32-bit literal into xD[63:32], keeping xD[31:0]. (R186) -/
  | lih (g : Guard) (d : XReg) (lit : W32)
  /-- LEA. Writes the LEA word's address plus the sign-extended literal offset. (R186) -/
  | lea (g : Guard) (d : XReg) (lit : W32)
  /-- CMP_EQ. Sets a predicate when two registers are equal. (R187) -/
  | cmpEq (g : Guard) (d : PReg) (a b : XReg)
  /-- CMP_NE. Sets a predicate when two registers differ. (R187) -/
  | cmpNe (g : Guard) (d : PReg) (a b : XReg)
  /-- CMP_LT. Sets a predicate on signed less-than. (R187) -/
  | cmpLt (g : Guard) (d : PReg) (a b : XReg)
  /-- CMP_LTU. Sets a predicate on unsigned less-than. (R187) -/
  | cmpLtu (g : Guard) (d : PReg) (a b : XReg)
  /-- CMP_GE. Sets a predicate on signed greater-or-equal. (R187) -/
  | cmpGe (g : Guard) (d : PReg) (a b : XReg)
  /-- CMP_GEU. Sets a predicate on unsigned greater-or-equal. (R187) -/
  | cmpGeu (g : Guard) (d : PReg) (a b : XReg)
  /-- PAND. Predicate and. (R187) -/
  | pand (g : Guard) (d a b : PReg)
  /-- POR. Predicate or. (R187) -/
  | por (g : Guard) (d a b : PReg)
  /-- PXOR. Predicate exclusive or. (R187) -/
  | pxor (g : Guard) (d a b : PReg)
  /-- PANDN. Predicate and-not. (R187) -/
  | pandn (g : Guard) (d a b : PReg)
  /-- CLZ. Counts leading zero bits. (R188) -/
  | clz (g : Guard) (d a : XReg)
  /-- CTZ. Counts trailing zero bits. (R188) -/
  | ctz (g : Guard) (d a : XReg)
  /-- POPC. Counts one bits. (R188) -/
  | popc (g : Guard) (d a : XReg)
  /-- BREV. Reverses the bit order of a register. (R188) -/
  | brev (g : Guard) (d a : XReg)
  /-- BPERM. Chooses bytes of xA by the nibbles of xB. (R188) -/
  | bperm (g : Guard) (d a b : XReg)
  /-- CLMULL. Writes the low 64 bits of a carry-less product. (R188) -/
  | clmull (g : Guard) (d a b : XReg)
  /-- CLMULH. Writes the high 64 bits of a carry-less product. (R188) -/
  | clmulh (g : Guard) (d a b : XReg)
  /-- SEEDADV. Leaps a Yelura seed forward by 2^20 times xB steps. (R269) -/
  | seedadv (g : Guard) (d a b : XReg)
  /-- FADD. FP32 addition under a rounding mode. (R190) -/
  | fadd (g : Guard) (d a b : XReg) (m : BitVec 2)
  /-- FSUB. FP32 subtraction under a rounding mode. (R190) -/
  | fsub (g : Guard) (d a b : XReg) (m : BitVec 2)
  /-- FMUL. FP32 multiplication under a rounding mode. (R190) -/
  | fmul (g : Guard) (d a b : XReg) (m : BitVec 2)
  /-- FFMA. FP32 fused multiply-add into xD with one rounding. (R190) -/
  | ffma (g : Guard) (d a b : XReg) (m : BitVec 2)
  /-- FMIN. FP32 minimum with defined handling of zeros and NaNs. (R190) -/
  | fmin (g : Guard) (d a b : XReg)
  /-- FMAX. FP32 maximum with defined handling of zeros and NaNs. (R190) -/
  | fmax (g : Guard) (d a b : XReg)
  /-- FEQ. Sets a predicate on FP32 equality. (R190) -/
  | feq (g : Guard) (d : PReg) (a b : XReg)
  /-- FLT. Sets a predicate on FP32 less-than. (R190) -/
  | flt (g : Guard) (d : PReg) (a b : XReg)
  /-- FLE. Sets a predicate on FP32 less-or-equal. (R190) -/
  | fle (g : Guard) (d : PReg) (a b : XReg)
  /-- ICVTF. Converts INT64 to FP32. (R190) -/
  | icvtf (g : Guard) (d a : XReg) (m : BitVec 2)
  /-- UCVTF. Converts unsigned 64-bit to FP32. (R190) -/
  | ucvtf (g : Guard) (d a : XReg) (m : BitVec 2)
  /-- FCVTI. Converts FP32 to a saturated INT64. (R190) -/
  | fcvti (g : Guard) (d a : XReg) (m : BitVec 2)
  /-- FCVTU. Converts FP32 to a saturated unsigned 64-bit value. (R190) -/
  | fcvtu (g : Guard) (d a : XReg) (m : BitVec 2)
  /-- FCVTB. Rounds FP32 to BF16. (R190) -/
  | fcvtb (g : Guard) (d a : XReg) (m : BitVec 2)
  /-- BCVTF. Widens BF16 exactly to FP32. (R190) -/
  | bcvtf (g : Guard) (d a : XReg)
  /-- RCP. Starts a reciprocal on the SFU into a latch. (R191) -/
  | rcp (g : Guard) (l : Fin 4) (a : XReg)
  /-- RSQ. Starts a reciprocal square root on the SFU into a latch. (R191) -/
  | rsq (g : Guard) (l : Fin 4) (a : XReg)
  /-- EXP2. Starts 2^a on the SFU into a latch. (R191) -/
  | exp2 (g : Guard) (l : Fin 4) (a : XReg)
  /-- LOG2. Starts log2 a on the SFU into a latch. (R191) -/
  | log2 (g : Guard) (l : Fin 4) (a : XReg)
  /-- MVL. Waits for a latch to be valid and moves its value into xD. (R193) -/
  | mvl (g : Guard) (d : XReg) (l : Fin 4)
  /-- SFU_LANDING. An SFU operation lands, setting its latch value and VALID and clearing BUSY. (R192) -/
  | sfuLanding (c : Nat) (l : Fin 4)
  /-- CALL. Jumps by a word offset and writes the return address to x1. (R196) -/
  | call (g : Guard) (o : BitVec 20)
  /-- CALLI. Jumps to a register target after checking it, writing the return address to x1. (R197) -/
  | calli (g : Guard) (a : XReg)
  /-- JMPI. Jumps to a register target after checking it. (R197) -/
  | jmpi (g : Guard) (a : XReg)
  /-- ERET. Leaves handler state and resumes each lane at its resume point. (R354) -/
  | eret (g : Guard)
  /-- BAR. Arrives at a team, die or device barrier once earlier accesses have performed, and waits for release. (R205) -/
  | bar (g : Guard) (l : BitVec 8)
  /-- CSRR. Reads a system register into xD. (R212) -/
  | csrr (g : Guard) (d : XReg) (n : BitVec 12)
  /-- CSRW. Writes a system register that has no behaviour of its own, with access and reserved-value checks. (R212) -/
  | csrw (g : Guard) (a : XReg) (n : BitVec 12)
  /-- LD. Zero-extending scalar load in a class. (R218) -/
  | ld (g : Guard) (d a : XReg) (c : BitVec 4) (z : BitVec 2)
  /-- LDS. Sign-extending scalar load in a class. (R218) -/
  | lds (g : Guard) (d a : XReg) (c : BitVec 4) (z : BitVec 2)
  /-- ST. Scalar store in a class. (R218) -/
  | st (g : Guard) (d a : XReg) (c : BitVec 4) (z : BitVec 2)
  /-- MONW. Loads a value and, while it equals xD, waits for a write to its block or a timeout, ending with an acquire load. (R206) -/
  | monw (g : Guard) (d a : XReg) (c : BitVec 4) (z : BitVec 2)
  /-- MONW_WAKE. A write reaches the watched block and MONW loads again. (R206) -/
  | monwWake (c : Nat)
  /-- MONW_TIMEOUT. 65,536 GT ticks pass and MONW loads again. (R206) -/
  | monwTimeout (c : Nat)
  /-- LDA. Acquire load at core, cluster, die or device scope. (R219) -/
  | lda (g : Guard) (d a : XReg) (c : BitVec 4) (z r : BitVec 2)
  /-- LDA_SYS. Acquire load at system scope. (R219) -/
  | ldaSys (g : Guard) (d a : XReg) (c : BitVec 4) (z : BitVec 2)
  /-- STR. Release store at core, cluster, die or device scope. (R219) -/
  | str (g : Guard) (d a : XReg) (c : BitVec 4) (z r : BitVec 2)
  /-- STR_SYS. Release store at system scope. (R219) -/
  | strSys (g : Guard) (d a : XReg) (c : BitVec 4) (z : BitVec 2)
  /-- FENCE. Waits until earlier accesses in the masked classes have performed, ordering later ones. (R222) -/
  | fence (g : Guard) (m : BitVec 16)
  /-- AADD. Atomic add at the address's home, returning the old value. (R221) -/
  | aadd (g : Guard) (d a b : XReg) (c : BitVec 4) (z o : BitVec 2) (sc : BitVec 3)
  /-- AAND. Atomic and, returning the old value. (R221) -/
  | aand (g : Guard) (d a b : XReg) (c : BitVec 4) (z o : BitVec 2) (sc : BitVec 3)
  /-- AOR. Atomic or, returning the old value. (R221) -/
  | aor (g : Guard) (d a b : XReg) (c : BitVec 4) (z o : BitVec 2) (sc : BitVec 3)
  /-- AXOR. Atomic exclusive or, returning the old value. (R221) -/
  | axor (g : Guard) (d a b : XReg) (c : BitVec 4) (z o : BitVec 2) (sc : BitVec 3)
  /-- AMIN. Atomic signed minimum, returning the old value. (R221) -/
  | amin (g : Guard) (d a b : XReg) (c : BitVec 4) (z o : BitVec 2) (sc : BitVec 3)
  /-- AMAX. Atomic signed maximum, returning the old value. (R221) -/
  | amax (g : Guard) (d a b : XReg) (c : BitVec 4) (z o : BitVec 2) (sc : BitVec 3)
  /-- AMINU. Atomic unsigned minimum, returning the old value. (R221) -/
  | aminu (g : Guard) (d a b : XReg) (c : BitVec 4) (z o : BitVec 2) (sc : BitVec 3)
  /-- AMAXU. Atomic unsigned maximum, returning the old value. (R221) -/
  | amaxu (g : Guard) (d a b : XReg) (c : BitVec 4) (z o : BitVec 2) (sc : BitVec 3)
  /-- ASWAP. Atomic swap, returning the old value. (R221) -/
  | aswap (g : Guard) (d a b : XReg) (c : BitVec 4) (z o : BitVec 2) (sc : BitVec 3)
  /-- CAS. Compare-and-swap that writes xC only when the old value equals xB. (R221) -/
  | cas (g : Guard) (d a b x : XReg) (c : BitVec 4) (z o : BitVec 2) (sc : BitVec 3)
  /-- LAUNCH. Reads and checks a kernel header and appends launch entries to a queue on each home die, or refuses. (R211) -/
  | launch (g : Guard) (q : Fin 16) (a b : XReg)
  /-- SDEF. Writes one word of a stream register, disarming it, or with ARM checks and arms it. (R223) -/
  | sdef (g : Guard) (s : Fin 16) (a : XReg) (arm : Bool) (w : BitVec 3)
  /-- SLDB. Loads a whole stream register from a 64-byte block, checks it and arms the stream. (R224) -/
  | sldb (g : Guard) (s : Fin 16) (a : XReg)
  /-- SOFF. Adds a signed step to a stream's BASE, checks it and arms the stream. (R225) -/
  | soff (g : Guard) (s : Fin 16) (a : XReg)
  /-- ECRD. Reads an escrow counter into xD, relaxed. (R245) -/
  | ecrd (g : Guard) (d : XReg) (e : Fin 64)
  /-- CPY. Issues a copy command that copies a box of elements bit for bit. (R241) -/
  | cpy (g : Guard) (a : XReg) (w t : Fin 16) (e : Fin 64)
  /-- CPYQ. Issues a copy command that converts a box, optionally scaled by a scale word, and folds its maximum. (R241) -/
  | cpyq (g : Guard) (a : XReg) (w t : Fin 16) (e : Fin 64)
  /-- CPYREL. Issues a slab relocation that copies pages to a new slab under forwarding and updates the map entry. (R242) -/
  | cpyrel (g : Guard) (a : XReg) (w t : Fin 16) (e : Fin 64)
  /-- CPINV. Invalidates the block cache entry of one block. (R237) -/
  | cpinv (g : Guard) (a : XReg)
  /-- CPINV_ALL. Invalidates all 32 block cache entries. (R237) -/
  | cpinvAll (g : Guard)
  /-- ECPOST. Adds a signed value to an escrow counter, posting or retiring bytes. (R243) -/
  | ecpost (g : Guard) (a : XReg) (e : Fin 64)
  /-- ECWAIT. Waits until an escrow counter falls to a threshold or zero. (R244) -/
  | ecwait (g : Guard) (a : XReg) (e : Fin 64)
  /-- KVAPP. Issues a decode-engine command appending tokens to a KV slab and updating page summaries and PAGES. (R274) -/
  | kvapp (g : Guard) (a : XReg) (w t : Fin 16) (e : Fin 64)
  /-- KVSEL. Issues a sieve command that bounds pages and writes a gather list. (R276) -/
  | kvsel (g : Guard) (a : XReg) (w t : Fin 16) (e : Fin 64)
  /-- KVATT. Issues a decode-engine command computing attention over gathered pages to memory or a stream. (R278) -/
  | kvatt (g : Guard) (a : XReg) (w t : Fin 16) (e : Fin 64)
  /-- KVPRE. Issues a prefill-engine command that appends 64 tokens and computes their causal attention. (R279) -/
  | kvpre (g : Guard) (a : XReg) (w t : Fin 16) (e : Fin 64)
  /-- XSTART. Queues a kiln start, optionally loading a program image first. (R246) -/
  | xstart (g : Guard) (a : XReg) (w t : Fin 16)
  /-- SELACT. Issues a sieve command that turns a mask tile into a list of element indices. (R247) -/
  | selact (g : Guard) (a : XReg) (w t : Fin 16) (e : Fin 64)
  /-- READ. Issues tile loads of a stream into its arrival queue in the stream's class. (R108) -/
  | read (s : Fin 16) (n : BitVec 12) (k : Toks) (v : BitVec 2)
  /-- WRITE. Stores departure entries of a stream to memory in the stream's class. (R111) -/
  | write (s : Fin 16) (n : BitVec 12) (k : Toks) (v : BitVec 2)
  /-- TILE_ARRIVAL. A stream tile load returns its data or fault mark into its arrival entry. (R108) -/
  | tileArrival (c : Nat) (s : Fin 16) (k : Nat)
  /-- TILE_STORE_PERFORMED. A stream tile store performs, and the WRITE's token follows its last one. (R111) -/
  | tileStorePerformed (c : Nat) (s : Fin 16)
  /-- TLIFT. Takes a stream's head tile and pushes it as a single. (R229) -/
  | tlift (a : Opnd) (k : Toks)
  /-- TSINK. Sends a stack entry to a stream's departure queue at commit. (R230) -/
  | tsink (a b : Opnd) (k : Toks)
  /-- TDUP. Duplicates the top entry. (R227) -/
  | tdup (k : Toks)
  /-- TDROP. Drops the top entry. (R227) -/
  | tdrop (k : Toks)
  /-- TSWAP. Exchanges the top two entries. (R227) -/
  | tswap (k : Toks)
  /-- TOVER. Copies the second entry to the top. (R227) -/
  | tover (k : Toks)
  /-- TPICK. Copies the entry at a depth to the top. (R227) -/
  | tpick (d : BitVec 12) (k : Toks)
  /-- TROT. Rotates the entry at a depth to the top. (R227) -/
  | trot (d : BitVec 12) (k : Toks)
  /-- TRRT. Rotates the top entry down to a depth. (R227) -/
  | trrt (d : BitVec 12) (k : Toks)
  /-- TZERO. Pushes an all-zero single of a format. (R231) -/
  | tzero (f : Fmt) (k : Toks)
  /-- TSPLAT. Pushes a single with every element taken from a count register. (R231) -/
  | tsplat (n : Fin 8) (f : Fmt) (k : Toks)
  /-- TACC. Pushes a zero quad. (R231) -/
  | tacc (k : Toks)
  /-- TSEED_CNT. Builds a seed entry from seven count registers, checks it and pushes it. (R232) -/
  | tseedCnt (b : Fin 2) (k : Toks)
  /-- TSEED_STREAM. Takes a seed image from a row of a stream's head tile, checks it and pushes it. (R232) -/
  | tseedStream (a : Opnd) (k : Toks)
  /-- TMMA. Accumulates A times B-transposed into a quad on the matrix engine, expanding a seeded B through the mint. (R259) -/
  | tmma (a b : Opnd) (p : BitVec 4) (k : Toks)
  /-- TDRAIN. Converts a quad into two or four output tiles. (R261) -/
  | tdrain (a : Opnd) (f : Fmt) (k : Toks)
  /-- TGEN. Expands a seed entry into a single through the mint. (R268) -/
  | tgen (a : Opnd) (k : Toks)
  /-- SEEDFIT. Searches candidate seeds for the best fit to a target tile and pushes the winner, its residual to a latch. (R271) -/
  | seedfit (a b : Opnd) (l : Fin 4) (f : BitVec 2) (k : Toks)
  /-- TADD. Elementwise addition, wrapping for integers. (R249) -/
  | tadd (a b : Opnd) (f : Fmt) (k : Toks) (v : BitVec 2)
  /-- TADD_S. Elementwise integer addition with saturation. (R249) -/
  | taddS (a b : Opnd) (f : Fmt) (k : Toks) (v : BitVec 2)
  /-- TADD_T. Elementwise integer addition trapping on overflow. (R249) -/
  | taddT (a b : Opnd) (f : Fmt) (k : Toks) (v : BitVec 2)
  /-- TSUB. Elementwise subtraction, wrapping for integers. (R249) -/
  | tsub (a b : Opnd) (f : Fmt) (k : Toks) (v : BitVec 2)
  /-- TSUB_S. Elementwise integer subtraction with saturation. (R249) -/
  | tsubS (a b : Opnd) (f : Fmt) (k : Toks) (v : BitVec 2)
  /-- TSUB_T. Elementwise integer subtraction trapping on overflow. (R249) -/
  | tsubT (a b : Opnd) (f : Fmt) (k : Toks) (v : BitVec 2)
  /-- TMUL. Elementwise multiplication. (R249) -/
  | tmul (a b : Opnd) (f : Fmt) (k : Toks) (v : BitVec 2)
  /-- TFMA. Elementwise fused multiply-add into the addend single in place. (R250) -/
  | tfma (a b : Opnd) (f : Fmt) (k : Toks) (v : BitVec 2)
  /-- TMIN. Elementwise minimum. (R249) -/
  | tmin (a b : Opnd) (f : Fmt) (k : Toks) (v : BitVec 2)
  /-- TMAX. Elementwise maximum. (R249) -/
  | tmax (a b : Opnd) (f : Fmt) (k : Toks) (v : BitVec 2)
  /-- TABS. Elementwise absolute value. (R249) -/
  | tabs (a : Opnd) (f : Fmt) (k : Toks) (v : BitVec 2)
  /-- TNEG. Elementwise negation. (R249) -/
  | tneg (a : Opnd) (f : Fmt) (k : Toks) (v : BitVec 2)
  /-- TEXP2. Elementwise 2^x by the fixed algorithm. (R251) -/
  | texp2 (a : Opnd) (f : Fmt) (k : Toks) (v : BitVec 2)
  /-- TRCP. Elementwise reciprocal by the fixed algorithm. (R251) -/
  | trcp (a : Opnd) (f : Fmt) (k : Toks) (v : BitVec 2)
  /-- TRSUM. Reduces each row to its sum. (R252) -/
  | trsum (a : Opnd) (f : Fmt) (k : Toks) (v : BitVec 2)
  /-- TRMAX. Reduces each row to its maximum. (R252) -/
  | trmax (a : Opnd) (f : Fmt) (k : Toks) (v : BitVec 2)
  /-- TRMIN. Reduces each row to its minimum. (R252) -/
  | trmin (a : Opnd) (f : Fmt) (k : Toks) (v : BitVec 2)
  /-- TCMPEQ. Elementwise equality mask. (R253) -/
  | tcmpeq (a b : Opnd) (f : Fmt) (k : Toks) (v : BitVec 2)
  /-- TCMPLT. Elementwise less-than mask. (R253) -/
  | tcmplt (a b : Opnd) (f : Fmt) (k : Toks) (v : BitVec 2)
  /-- TCMPLE. Elementwise less-or-equal mask. (R253) -/
  | tcmple (a b : Opnd) (f : Fmt) (k : Toks) (v : BitVec 2)
  /-- TSEL. Selects elements of two operands by a mask entry. (R254) -/
  | tsel (a b : Opnd) (f : Fmt) (k : Toks) (v : BitVec 2)
  /-- TPERM. Permutes payload bytes within each row under a control tile. (R255) -/
  | tperm (a b : Opnd) (f : Fmt) (k : Toks) (v : BitVec 2)
  /-- TXPOSE. Transposes a tile by the b8 or b16 mapping. (R256) -/
  | txpose (a : Opnd) (f : Fmt) (k : Toks) (v : BitVec 2)
  /-- TAND. Bitwise and over payload bytes. (R257) -/
  | tand (a b : Opnd) (f : Fmt) (k : Toks) (v : BitVec 2)
  /-- TOR. Bitwise or over payload bytes. (R257) -/
  | tor (a b : Opnd) (f : Fmt) (k : Toks) (v : BitVec 2)
  /-- TXOR. Bitwise exclusive or over payload bytes. (R257) -/
  | txor (a b : Opnd) (f : Fmt) (k : Toks) (v : BitVec 2)
  /-- TNOT. Inverts payload bits. (R257) -/
  | tnot (a : Opnd) (f : Fmt) (k : Toks) (v : BitVec 2)
  /-- TSHL. Shifts each element left by an immediate. (R257) -/
  | tshl (a : Opnd) (i : BitVec 6) (f : Fmt) (k : Toks) (v : BitVec 2)
  /-- TSHR. Shifts each element right with zero fill. (R257) -/
  | tshr (a : Opnd) (i : BitVec 6) (f : Fmt) (k : Toks) (v : BitVec 2)
  /-- TSRA. Shifts each element right with sign fill. (R257) -/
  | tsra (a : Opnd) (i : BitVec 6) (f : Fmt) (k : Toks) (v : BitVec 2)
  /-- TCVT. Converts tiles between formats under CVT_CTL and updates a running maximum at commit. (R263) -/
  | tcvt (src : Fmt) (a b : Opnd) (f : Fmt) (k : Toks) (m : Fin 4)
  /-- TQNT. Converts tiles scaled by 2^n4 under CVT_CTL and updates a running maximum. (R264) -/
  | tqnt (src : Fmt) (a b : Opnd) (f : Fmt) (k : Toks) (m : Fin 4)
  /-- C_COMMIT. A completed compute-lane instruction commits in program order, making its results, maxima, departures and token. (R86) -/
  | cCommit (c : Nat)
  /-- SIG_PUSH_DEFERRED. A sig= push that found no room is made once its queue has room. (R86) -/
  | sigPushDeferred (c : Nat)
  /-- TRAP_UNWIND. A compute-lane trap found while running unwinds later dispatched instructions and restores the stack. (R88) -/
  | trapUnwind (c : Nat)
  /-- ANTICIPATION_LIFT. The stack hardware lifts a non-resident entry at depth 0 to 3 into the till once a slot can be had. (R80) -/
  | anticipationLift (c : Nat)
  /-- STAMP_REACHED. GT reaches a stamped command's STAMP and it leaves the time-sorted buffer. (R235) -/
  | stampReached (cl id : Nat)
  /-- ENGINE_COMMAND_START. A queued engine command whose token and ordering waits are met starts running. (R234) -/
  | engineCommandStart (cl id : Nat)
  /-- COPY_ARRIVAL. A destination write of a command performs and decrements the escrow counter by its bytes. (R239) -/
  | copyArrival (cl id n : Nat)
  /-- ENGINE_COMMAND_COMPLETE. Once all writes are visible, a command makes its last escrow decrement and pushes its completion token. (R234) -/
  | engineCommandComplete (cl id : Nat)
  /-- RELOCATION_PAGE_MOVED. A relocated page's copy performs at cluster scope and MOVED advances. (R242) -/
  | relocationPageMoved (cl id : Nat)
  /-- RELOCATION_FINISH. After the map updates and earlier readers complete, CPYREL clears ACTIVE and completes. (R285) -/
  | relocationFinish (cl id : Nat)
  /-- ENGINE_FAULT. An engine command or kiln program faults and the fault is delivered to its issuing context or the supervisor. (R375) -/
  | engineFault (cl : Nat)
  /-- KILN_START. The kiln takes the next start from its queue and initialises its program state. (R291) -/
  | kilnStart (cl : Nat)
  /-- KILN_LOAD_COMPLETE. A kiln start's image load completes and the program begins at OFF. (R246) -/
  | kilnLoadComplete (cl : Nat)
  /-- XLOOP_IMM. Opens a kiln loop with an immediate count. (R295) -/
  | xloopImm (i : BitVec 12)
  /-- XLOOP_REG. Opens a kiln loop with a count from gA. (R295) -/
  | xloopReg (a : GReg)
  /-- XLI. Loads a sign-extended 16-bit immediate into a kiln register. (R294) -/
  | xli (d : GReg) (i : BitVec 16)
  /-- XADDI. Adds a sign-extended 12-bit immediate. (R294) -/
  | xaddi (d a : GReg) (i : BitVec 12)
  /-- XADDR. Adds a shifted register to a register. (R294) -/
  | xaddr (d a b : GReg) (s : BitVec 6)
  /-- XLD_W. Kiln 4-byte load. (R294) -/
  | xldW (d a : GReg)
  /-- XLD_D. Kiln 8-byte load. (R294) -/
  | xldD (d a : GReg)
  /-- XCFG. Loads CFG from gA and reseeds the SR generator. (R292) -/
  | xcfg (a : GReg)
  /-- XMOVE. Copies IMM12 eight-byte words. (R294) -/
  | xmove (d a : GReg) (i : BitVec 12)
  /-- XMOVE_B8. Copies one tile image with the b8 transpose. (R294) -/
  | xmoveB8 (d a : GReg)
  /-- XMOVE_B16. Copies one tile image with the b16 transpose. (R294) -/
  | xmoveB16 (d a : GReg)
  /-- XCONV. Converts IMM12 elements from SFMT to DFMT under CFG. (R296) -/
  | xconv (d a : GReg) (i : BitVec 12)
  /-- XPACK. Packs an MX tile image into packed delta-scale form. (R297) -/
  | xpack (d a : GReg)
  /-- XUNPACK. Checks and expands a packed image into a tile image. (R297) -/
  | xunpack (d a : GReg)
  /-- XBIND. Binds a cluster token counter to a parcel's token queue. (R299) -/
  | xbind (a : GReg) (q : Fin 16) (n : Fin 32)
  /-- XUNBIND. Clears a token counter's binding. (R299) -/
  | xunbind (n : Fin 32)
  /-- XSIG. After earlier accesses perform, pushes tokens on a counter or its bound queue. (R300) -/
  | xsig (c : BitVec 6) (n : Fin 32)
  /-- XWAIT. Waits for tokens on a counter or its bound queue and takes them. (R300) -/
  | xwait (c : BitVec 6) (n : Fin 32)
  /-- TEAM_PLACE. The die dispatcher places a resumed team or the next team of the queue with least PASS on a free cluster. (R54) -/
  | teamPlace (d : Nat)
  /-- TEAM_STEAL. An idle die takes the last unplaced team from a neighbour's fullest queue. (R56) -/
  | teamSteal (d : Nat)
  /-- TEAM_END. All parcels of a team have retired and its commands and kiln programs completed, freeing its cluster. (R50) -/
  | teamEnd (cl : Nat)
  /-- PREEMPT_REQUEST. The dispatcher asks the supervisor to pre-empt a team waiting at a die or device barrier, with cause 0x13. (R62) -/
  | preemptRequest (d : Nat)
  /-- PREEMPT_REQUEST_REPEAT. Every 2^24 cycles while the need remains, the pre-emption request is written again. (R62) -/
  | preemptRequestRepeat (d : Nat)
  /-- BARRIER_WITHOUT_PREEMPTION. For a launch without PREEMPT, the most recently placed waiting team is held with cause 0x12. (R371) -/
  | barrierWithoutPreemption (d : Nat)
  /-- BARRIER_NO_PREEMPT_REPEAT. After 2^24 cycles with the need still present, cause 0x12 is raised again. (R371) -/
  | barrierNoPreemptRepeat (d : Nat)
  /-- TEAM_STALL. A team makes no progress for 2^24 cycles and is held at supervisor level. (R369) -/
  | teamStall (cl : Nat)
  /-- ESCROW_STALL. A post held at capacity for 2^24 cycles faults at the posting instruction. (R384) -/
  | escrowStall (c : Nat)
  /-- FAULT_MESSAGE_WRITE. The die writes a fault message into the fault ring once its slot is free. (R359) -/
  | faultMessageWrite (d : Nat)
  /-- PREEMPT_SAVE_COMPLETE. The pre-emption save completes, GO clears and the cluster is freed. (R64) -/
  | preemptSaveComplete (d : Nat) (unc : Bool)
  /-- TLB_INV_COMPLETE. The invalidation finishes and BUSY reads 0. (R103) -/
  | tlbInvComplete (d : Nat)
  /-- STEP_DONE. The stepped lane completes its STEPN instructions and stops with REASON 6. (R310) -/
  | stepDone (c : Nat)
  /-- STOP_FORMED. Dispatched instructions, reads and started commands finish and the stop's cut is complete. (R307) -/
  | stopFormed (c : Nat)
  /-- BREAKPOINT_MATCH. A lane about to issue a matching address or head stops its scope. (R309) -/
  | breakpointMatch (c : Nat) (ln : Lane)
  /-- WATCH_HIT_IMPRECISE. An engine or remote write's watch hit is recorded within 256 cycles. (R319) -/
  | watchHitImprecise (cl skid : Nat)
  /-- TRIGGER_RECEIVE. A die receives a trigger, sets TRIG_LAST, records it and bounds its capture. (R317) -/
  | triggerReceive (d : Nat) (org at' : Word) (id : Byte)
  /-- TRIGGER_ACK_TIMEOUT. A peer that does not acknowledge within 4,400 ticks is counted in TRIG_STAT. (R405) -/
  | triggerAckTimeout (d : Nat) (l : Fin 32)
  /-- COUNTER_SAMPLE. Every 2^PERIOD cycles a counter record is written for each context. (R314) -/
  | counterSample (d : Nat)
  /-- ROOT_LAUNCH_COMPLETE. A root launch completes and its status is written COMPLETED. (R51) -/
  | rootLaunchComplete (n : Nat)
  /-- ILLEGAL_INSTRUCTION. A lane reaches a word that would issue but is unassigned, or is not listed for that lane, and raises the illegal-instruction fault. (R166) -/
  | illegalInstruction (w : W32)
  /-- SCALAR_ACCESS_REPLY. The reply of a K-lane load or atomic that missed returns, writing its register or raising its fault, and the context becomes ready again. (R377) -/
  | scalarAccessReply (c : Nat)
  /-- STACK_MOVE_COMPLETE. A copy of a stack entry between till, subsoil and bedrock ends, and the entry leaves the moving state. (R71) -/
  | stackMoveComplete (c id : Nat)
  /-- FAULT_RING_TIMEOUT. A full fault ring not freed for 1 s is a fatal error. (R414) -/
  | faultRingTimeout (d : Nat)
  /-- REPLAY_WAIT_TIMEOUT. An event waits 2^24 cycles for a lower SEQ and replay diverges. (R398) -/
  | replayWaitTimeout (c : Nat)
  /-- DIE_RESET_TIMEOUT. A die not back from reset within 1 s is a fatal error. (R406) -/
  | dieResetTimeout (d : Nat)
  /-- NO_ROUTE_TIMEOUT. No trained link reaches a peer for 1 ms and the pending access faults with 0x42. (R410) -/
  | noRouteTimeout (m : Nat)
  /-- ENDDO. Decrements the innermost loop count and branches back or pops the loop. (R199) -/
  | enddo
  /-- YIELD. Adds the context's STRIDE to its PASS once. (R207) -/
  | yield
  /-- XNOP. Kiln no-operation. (R294) -/
  | xnop
  /-- XEND. Closes a kiln loop. (R295) -/
  | xend
  /-- XHALT. Ends the kiln program and pushes its completion token once writes are visible. (R301) -/
  | xhalt
  /-- JOURNAL_RECORD. The host-service program takes a journal record, checks it, mirrors it, writes its status and launches it. (R335) -/
  | journalRecord
  /-- JOURNAL_ENABLE. The host writes JEN, fixing the journal and starting record processing. (R331) -/
  | journalEnable
  /-- MODULE_RESET. Power-on or PCIe reset wipes memories and key slots. (R341) -/
  | moduleReset
  /-- LIFE_CYCLE_CHANGE. A forward life-cycle change wipes memories, keys and the flash journal region. (R341) -/
  | lifeCycleChange
  /-- HOLD_UP. Supply falls below threshold; placement stops, the clock drops and the journal is committed to flash. (R411) -/
  | holdUp
  /-- HOLD_UP_END. The hold-up time ends and the journal commit stops. (R411) -/
  | holdUpEnd
  /-- IDE_ENABLE. The host establishes the PCIe IDE selective stream, after which the device refuses memory requests that arrive outside it. (R329) -/
  | ideEnable
  /-- FR_RESUME_WRITE. A handler writes a lane's resume point, checked against handler state, parked lanes and alignment. (R353) -/
  | frResumeWrite (c : Nat) (ln : Lane) (v : Word)
  /-- FLT_RESUME. The supervisor resumes a team held by a fault at its resume points. (R361) -/
  | fltResume (cl : Nat)
  /-- FLT_END. The supervisor ends a held team, removing its launch's unplaced teams and failing the launch. (R362) -/
  | fltEnd (cl : Nat)
  /-- PREEMPT_GO. A supervisor write of PREEMPT_CTL GO stops a team at a cut and saves it. (R64) -/
  | preemptGo (d : Nat) (v : Word)
  /-- TLB_INV_START. A write of TLB_INV_CTL BUSY starts a translation-cache invalidation after earlier stores perform. (R103) -/
  | tlbInvStart (d : Nat) (v : W32)
  /-- DBG_HALT. A write of DBG_CTL HALT stops the scope at a consistent cut. (R307) -/
  | dbgHalt (c : Nat)
  /-- DBG_RUN. A write of DBG_CTL RUN resumes a stopped scope. (R308) -/
  | dbgRun (c : Nat)
  /-- DBG_STEP. A write of DBG_CTL STEP lets one lane issue STEPN instructions. (R310) -/
  | dbgStep (c : Nat)
  /-- TRIGGER_FIRE. A write of TRIG_CTL FIRE sends a trigger to the module and optionally its peers. (R316) -/
  | triggerFire (c : Nat)
  /-- SBUF_RD_WRITE. The consumer moves the ring's read offset, checked for alignment and range. (R402) -/
  | sbufRdWrite (d : Nat) (v : W32)
  /-- RECOVERY_IMAGE_LOAD. A write of IMGLEN makes the recovery loader fetch, verify, flash and start an image. (R338) -/
  | recoveryImageLoad (len : Nat)
  /-- KEY_REQUEST. The host requests a wrapped key be loaded into an XTS key slot. (R339) -/
  | keyRequest (slot : Fin 64) (blob : Nat)
  /-- ATTESTATION_REQUEST. The host requests a signed attestation report with its nonce. (R340) -/
  | attestationRequest (nonce : BitVec 256)
  /-- HOST_ACCESS. The host reads or writes HBM through BAR0 under key slot 1. (R330) -/
  | hostAccess (a : HostAcc)
  /-- PEER_ACCESS. A peer module's access arrives over Rhaold and performs at a base die. (R328) -/
  | peerAccess (a : HostAcc)
  /-- DIE_WATCHDOG_EXPIRY. A die's watchdog expires and the die resets. (R406) -/
  | dieWatchdogExpiry (d : Nat)
  /-- DIE_RETURN. A reset die returns and affected launches are replayed, resumed or failed. (R408) -/
  | dieReturn (d : Nat)
  /-- STACK_FAULT. An HBM stack interface faults and retraining begins. (R409) -/
  | stackFault (k : Fin 8)
  /-- STACK_RETRAINED. The stack retrains, held writes reissue and a message records it. (R409) -/
  | stackRetrained (k : Fin 8)
  /-- STACK_OUT_OF_SERVICE. A stack that fails to retrain goes out of service and launches pending on it fail. (R409) -/
  | stackOutOfService (k : Fin 8)
  /-- LINK_DOWN. A Rhaold link goes down and its traffic moves to other links. (R410) -/
  | linkDown (l : Fin 32)
  /-- PEER_REMOVED. A switch removes a peer and accesses to it fault. (R410) -/
  | peerRemoved (m : Nat)
  /-- HBM_SCRUB. A base die scrubs HBM blocks on its own, correcting errors. (R392) -/
  | hbmScrub (b : Nat)
  /-- MEMORY_ERROR. An uncorrectable error marks data poisoned or damaged, or holds the team for a register file. (R393) -/
  | memoryError (e : MemErr)
  /-- DIE_FABRIC_ERROR. A die's fabric meets an uncorrectable error and the die resets. (R406) -/
  | dieFabricError (d : Nat)
  /-- LINK_TRAINED. A Rhaold link completes training or retraining, bringing GT agreement and a route to the peer, and its module IDs are assigned. (R410) -/
  | linkTrained (l : Fin 32) (m own : Nat)
  deriving DecidableEq, Repr

end Sys2Proof
end

