-- ==== Sys2Proof/WellFormed.lean ====
section
/-! DEFINITION. Which terms of `Instr` are instructions: the field values that the encoding tables call
reserved or refuse (spec/08 R156-R166, and the instruction's own entry). Events have no fields to check. -/

namespace Sys2Proof

/-- What decodes a word: a lane with its own map (spec/08 R153), or the kiln (spec/13 R293). -/
inductive CodeUnit where
  | lane (ln : Lane)
  | kiln
  deriving DecidableEq, Repr

/-- A guard is well formed unless it is `!p0` (spec/08 R156). -/
def Guard.ok (g : Guard) : Bool := !(g.neg && g.p == 0)

/-- An MX format (spec/07 R135). -/
def Fmt.isMx : Fmt → Bool
  | .mxint8 | .mxint6 | .mxint4 => true
  | .fp32 | .bf16 | .fp16 | .e4m3 | .e5m2 | .e2m1 | .int8 | .int32 | .int64 => false

/-- An integer format (spec/07 R133). -/
def Fmt.isInt : Fmt → Bool
  | .int8 | .int32 | .int64 => true
  | .fp32 | .bf16 | .fp16 | .e4m3 | .e5m2 | .e2m1 | .mxint8 | .mxint6 | .mxint4 => false

/-- A format with IEEE arithmetic on the vector pipes: FP32, BF16 or FP16 (spec/11 R249). -/
def Fmt.isFp : Fmt → Bool
  | .fp32 | .bf16 | .fp16 => true
  | .e4m3 | .e5m2 | .e2m1 | .mxint8 | .mxint6 | .mxint4 | .int8 | .int32 | .int64 => false

/-- Elements of one tile row (spec/07 R137). -/
def Fmt.perRow : Fmt → Nat
  | .fp32 | .int32 => 16
  | .bf16 | .fp16 => 32
  | .e4m3 | .e5m2 | .int8 | .mxint8 | .mxint6 => 64
  | .int64 => 8
  | .e2m1 | .mxint4 => 128

/-- Width of one element in bits (spec/07 R137, R138). -/
def Fmt.width : Fmt → Nat
  | .fp32 | .int32 => 32
  | .bf16 | .fp16 => 16
  | .e4m3 | .e5m2 | .int8 | .mxint8 => 8
  | .int64 => 64
  | .mxint6 => 6
  | .e2m1 | .mxint4 => 4

/-- The formats that take vector arithmetic (spec/11 R248). -/
def Fmt.isArith (f : Fmt) : Bool := f.isFp || f.isInt

/-- The formats that TXPOSE accepts (spec/11 R248). -/
def Fmt.isXpose : Fmt → Bool
  | .bf16 | .fp16 | .e4m3 | .e5m2 | .int8 => true
  | .fp32 | .e2m1 | .mxint8 | .mxint6 | .mxint4 | .int32 | .int64 => false

/-- The pipe field of a vector-pipe instruction is not 0b11 (spec/08 R166). -/
def pipeOk (v : BitVec 2) : Bool := v.toNat != 3

/-- A TCVT or TQNT from `src` to `f` has two operands when the target has twice the elements a row, else one
with a zero OB; every other ratio is refused (spec/11 R262). -/
def cvtOk (src f : Fmt) (b : Opnd) : Bool :=
  (f.perRow == 2 * src.perRow) ||
  ((f.perRow == src.perRow || 2 * f.perRow == src.perRow || 4 * f.perRow == src.perRow) && b == Opnd.zero)

/-- The result format of SEEDFIT: BF16, E4M3 or MXINT8, with the second operand only for the last two
(spec/11 R270). -/
def seedfitOk (f : BitVec 2) (b : Opnd) : Bool :=
  match f.toNat with
  | 0 => b == Opnd.zero
  | 1 | 2 => true
  | _ => false

/-- The numbers that a system register has (spec/09 R213, spec/14 R305, spec/20 R355, spec/21 R379, R394, spec/22
R403). -/
def csrAssigned (n : Nat) : Bool :=
  let within := fun lo hi : Nat => decide (lo ≤ n) && decide (n ≤ hi)
  within 0x000 0x004 || within 0x008 0x012 || within 0x014 0x018 || within 0x020 0x024 || within 0x030 0x032 ||
    within 0x400 0x405 || within 0x410 0x41F || within 0x600 0x604 || within 0x608 0x612 || within 0x614 0x615 ||
    n == 0x618 || within 0x620 0x622 || within 0x700 0x706 || within 0x708 0x70B || within 0x710 0x717 ||
    within 0x720 0x727 || within 0x730 0x731 || within 0x740 0x744 || within 0x750 0x753

/-- The instruction's own fields hold values that its encoding admits (spec/08 R166). -/
def Instr.wf : Instr → Bool
  | .nop g | .br g _ | .trap g _ | .park g | .endParcel g | .bkpt g _ => g.ok
  | .doImm _ | .doReg _ | .enddo | .recv _ => true
  | .wait g _ n | .sig g _ n => g.ok && n != 0
  | .send g ln _ _ => g.ok && ln != 0
  | .add g _ _ _ v | .sub g _ _ _ v | .mul g _ _ _ v | .shl g _ _ _ v | .shr g _ _ _ v | .sra g _ _ _ v =>
    g.ok && v.toNat < 2
  | .mulh g .. | .mulhu g .. | .div g .. | .divu g .. | .rem g .. | .remu g .. | .and g .. | .or g ..
  | .xor g .. | .min g .. | .max g .. | .minu g .. | .maxu g .. => g.ok
  | .addi g .. | .andi g .. | .ori g .. | .xori g .. | .shli g .. | .shri g .. | .srai g ..
  | .li g .. | .lih g .. | .lea g .. => g.ok
  | .cmpEq g .. | .cmpNe g .. | .cmpLt g .. | .cmpLtu g .. | .cmpGe g .. | .cmpGeu g ..
  | .pand g .. | .por g .. | .pxor g .. | .pandn g .. => g.ok
  | .clz g .. | .ctz g .. | .popc g .. | .brev g .. | .bperm g .. | .clmull g .. | .clmulh g ..
  | .seedadv g .. => g.ok
  | .fadd g .. | .fsub g .. | .fmul g .. | .ffma g .. | .fmin g .. | .fmax g .. | .feq g .. | .flt g ..
  | .fle g .. | .icvtf g .. | .ucvtf g .. | .fcvti g .. | .fcvtu g .. | .fcvtb g .. | .bcvtf g .. => g.ok
  | .rcp g .. | .rsq g .. | .exp2 g .. | .log2 g .. | .mvl g .. => g.ok
  | .call g .. | .calli g .. | .jmpi g .. | .eret g => g.ok
  | .yield => true
  | .bar g l => g.ok && l.toNat < 3
  | .csrr g _ n | .csrw g _ n => g.ok && csrAssigned n.toNat
  | .ld g .. | .lds g .. | .st g .. | .monw g .. | .lda g .. | .ldaSys g .. | .str g .. | .strSys g .. => g.ok
  | .fence g _ => g.ok
  | .aadd g _ _ _ _ z _ sc | .aand g _ _ _ _ z _ sc | .aor g _ _ _ _ z _ sc | .axor g _ _ _ _ z _ sc
  | .amin g _ _ _ _ z _ sc | .amax g _ _ _ _ z _ sc | .aminu g _ _ _ _ z _ sc | .amaxu g _ _ _ _ z _ sc
  | .aswap g _ _ _ _ z _ sc => g.ok && 2 ≤ z.toNat && sc.toNat ≤ 4
  | .cas g _ _ _ _ _ z _ sc => g.ok && 2 ≤ z.toNat && sc.toNat ≤ 4
  | .launch g .. | .sldb g .. | .soff g .. | .ecrd g .. => g.ok
  | .sdef g _ _ _ w => g.ok && w.toNat < 6
  | .cpy g .. | .cpyq g .. | .cpyrel g .. | .cpinv g .. | .cpinvAll g | .ecpost g .. | .ecwait g ..
  | .kvapp g .. | .kvsel g .. | .kvatt g .. | .kvpre g .. | .xstart g .. | .selact g .. => g.ok
  | .read _ n _ v | .write _ n _ v => n == 0 || v == 0
  | .tlift a _ => a.strm
  | .tsink a b _ => !a.strm && b.strm && !b.keep
  | .tdup _ | .tdrop _ | .tswap _ | .tover _ | .tpick .. | .trot .. | .trrt .. | .tzero .. | .tsplat ..
  | .tacc _ | .tseedCnt .. => true
  | .tseedStream a _ => a.strm
  | .tmma _ _ p _ => p.toNat < 9
  | .tdrain _ f _ => f.isFp
  | .tgen a _ => !a.strm
  | .seedfit _ b _ f _ => seedfitOk f b
  | .tadd _ _ f _ v | .tsub _ _ f _ v | .tmul _ _ f _ v | .tmin _ _ f _ v | .tmax _ _ f _ v
  | .tcmpeq _ _ f _ v | .tcmplt _ _ f _ v | .tcmple _ _ f _ v => f.isArith && pipeOk v
  | .tabs _ f _ v | .tneg _ f _ v | .trsum _ f _ v | .trmax _ f _ v | .trmin _ f _ v => f.isArith && pipeOk v
  | .taddS _ _ f _ v | .taddT _ _ f _ v | .tsubS _ _ f _ v | .tsubT _ _ f _ v => f.isInt && pipeOk v
  | .tfma _ _ f _ v => f.isFp && pipeOk v
  | .texp2 _ f _ v | .trcp _ f _ v => (f == .fp32 || f == .bf16) && pipeOk v
  | .tsel _ _ f _ v | .tperm _ _ f _ v | .tand _ _ f _ v | .tor _ _ f _ v | .txor _ _ f _ v =>
    !f.isMx && pipeOk v
  | .tnot _ f _ v => !f.isMx && pipeOk v
  | .txpose _ f _ v => f.isXpose && pipeOk v
  | .tshl _ _ f _ v | .tshr _ _ f _ v | .tsra _ _ f _ v => f.isInt && pipeOk v
  | .tcvt src _ b f _ _ => cvtOk src f b
  | .tqnt src _ b f _ _ => cvtOk src f b && !src.isMx && !f.isMx
  | .xmove _ _ i | .xconv _ _ i => i != 0
  | .xbind _ q _ => q != 15
  | .xsig c _ | .xwait c _ => c != 0
  | .xnop | .xloopImm _ | .xloopReg _ | .xend | .xli .. | .xaddi .. | .xaddr .. | .xldW .. | .xldD .. | .xcfg _
  | .xmoveB8 .. | .xmoveB16 .. | .xpack .. | .xunpack .. | .xunbind _ | .xhalt => true
  | .sfuLanding .. | .monwWake _ | .monwTimeout _ | .tileArrival .. | .tileStorePerformed .. | .cCommit _
  | .sigPushDeferred _ | .trapUnwind _ | .anticipationLift _ | .stampReached .. | .engineCommandStart ..
  | .copyArrival .. | .engineCommandComplete .. | .relocationPageMoved .. | .relocationFinish ..
  | .engineFault _ | .kilnStart _ | .kilnLoadComplete _ | .teamPlace _ | .teamSteal _ | .teamEnd _
  | .preemptRequest _ | .preemptRequestRepeat _ | .barrierWithoutPreemption _ | .barrierNoPreemptRepeat _
  | .teamStall _ | .escrowStall _ | .frResumeWrite .. | .faultMessageWrite _ | .faultRingTimeout _
  | .fltResume _ | .fltEnd _ | .preemptGo .. | .preemptSaveComplete .. | .tlbInvStart .. | .tlbInvComplete _
  | .dbgHalt _ | .dbgRun _ | .dbgStep _ | .stepDone _ | .stopFormed _ | .breakpointMatch ..
  | .watchHitImprecise .. | .triggerFire _ | .triggerReceive .. | .triggerAckTimeout .. | .counterSample _
  | .sbufRdWrite .. | .replayWaitTimeout _ | .journalRecord | .rootLaunchComplete _ | .journalEnable
  | .recoveryImageLoad _ | .keyRequest .. | .attestationRequest _ | .hostAccess _ | .peerAccess _
  | .moduleReset | .lifeCycleChange | .holdUp | .holdUpEnd | .dieWatchdogExpiry _ | .dieReturn _
  | .dieResetTimeout _ | .stackFault _ | .stackRetrained _ | .stackOutOfService _ | .linkDown _
  | .noRouteTimeout _ | .peerRemoved _ | .hbmScrub _ | .memoryError _ | .illegalInstruction _
  | .scalarAccessReply _ | .stackMoveComplete .. | .dieFabricError _ | .linkTrained .. | .ideEnable => true

/-- A common-block instruction of the L, C or S lane has no guard, and its DO names a count register
(spec/08 R162). -/
def Instr.unguarded : Instr → Bool
  | .nop g | .br g _ | .wait g _ _ | .sig g _ _ | .trap g _ | .park g | .bkpt g _ => g == Guard.always
  | .doReg r => r.toNat < 8
  | _ => true

end Sys2Proof
end

