-- ==== Sys2Proof/Machine/Numbers.lean ====
section
/-! DEFINITION. Number formats and exact arithmetic (spec/07 R131-R152). A value is exact: a NaN, an infinity, or
a sign with a natural significand and an integer exponent. Every operation computes exactly and rounds once. -/

namespace Sys2Proof.Machine

/-- An exact value: (-1)^neg * m * 2^e. Zero keeps its sign (spec/07 R132). -/
inductive Num where
  | nan
  | inf (neg : Bool)
  | fin (neg : Bool) (m : Nat) (e : Int)
  deriving DecidableEq, Repr

/-- A floating-point format: exponent bits, significand bits, bias; `special` 0 reserves the top exponent for
infinities and NaNs, 1 is E4M3, 2 has neither (spec/07 R131). -/
structure FpF where
  eb : Nat
  mb : Nat
  bias : Nat
  special : Nat
  deriving DecidableEq, Repr

/-- FP32 (spec/07 R131). -/
def fp32 : FpF := ⟨8, 23, 127, 0⟩
/-- BF16. -/
def bf16 : FpF := ⟨8, 7, 127, 0⟩

/-- The floating-point format of a tag; FP32 for a tag that is none. -/
def fpOf : Fmt → FpF
  | .fp32 => fp32
  | .bf16 => bf16
  | .fp16 => ⟨5, 10, 15, 0⟩
  | .e5m2 => ⟨5, 2, 15, 0⟩
  | .e4m3 => ⟨4, 3, 7, 1⟩
  | .e2m1 => ⟨2, 1, 1, 2⟩
  | .mxint8 | .mxint6 | .mxint4 | .int8 | .int32 | .int64 => fp32

/-- The rounding modes of spec/07 R144; `sr` carries its 16-bit random number. -/
inductive Rm where
  | rne | rtz | rup | rdn
  | sr (r : Nat)
  deriving DecidableEq, Repr

/-- The mode of a 2-bit field: 0 RNE, 1 RTZ, 2 RUP, 3 RDN (spec/09 R190, spec/07 R142). -/
def Rm.ofCode : Nat → Rm
  | 0 => .rne
  | 1 => .rtz
  | 2 => .rup
  | _ => .rdn

/-! ## Bits of a format -/

/-- Positive infinity's bits. -/
def FpF.infBits (f : FpF) : Nat := (2 ^ f.eb - 1) * 2 ^ f.mb

/-- The canonical NaN (spec/07 R131, R132). -/
def FpF.nanBits (f : FpF) : Nat :=
  if f.special = 0 then f.infBits + 2 ^ (f.mb - 1) else if f.special = 1 then f.infBits + 2 ^ f.mb - 1 else 0

/-- The sign bit's weight. -/
def FpF.signBit (f : FpF) : Nat := 2 ^ (f.eb + f.mb)

/-- The exponent of the last bit of a subnormal. -/
def FpF.subExp (f : FpF) : Int := 1 - (f.bias : Int) - f.mb

/-- The largest finite magnitude (spec/07 R131). -/
def FpF.maxMag (f : FpF) : Nat × Int :=
  if f.special = 0 then (2 ^ (f.mb + 1) - 1, (2 ^ f.eb : Nat) - 2 - (f.bias : Int) - f.mb)
  else if f.special = 1 then (7, 6)
  else (3, 1)

/-- The smallest normal magnitude. -/
def FpF.minMag (f : FpF) : Nat × Int := (1, 1 - (f.bias : Int))

/-- The value of a bit pattern (spec/07 R131). -/
def FpF.decode (f : FpF) (b : Nat) : Num :=
  let neg := b / f.signBit % 2 == 1
  let e := b / 2 ^ f.mb % 2 ^ f.eb
  let m := b % 2 ^ f.mb
  let top := e == 2 ^ f.eb - 1
  if f.special = 0 && top then (if m = 0 then .inf neg else .nan)
  else if f.special = 1 && top && m == 2 ^ f.mb - 1 then .nan
  else if e = 0 then .fin neg m f.subExp
  else .fin neg (m + 2 ^ f.mb) (f.subExp + (e - 1 : Nat))

/-- The number of bits of a natural number. -/
def bitLen (m : Nat) : Nat := if m = 0 then 0 else m.log2 + 1

/-- The value `m * 2^e` in units of 2^q, where it is a multiple of it or larger: quotient, remainder, divisor. -/
def inUnits (m : Nat) (e q : Int) : Nat × Nat × Nat :=
  if q ≤ e then (m * 2 ^ (e - q).toNat, 0, 1)
  else
    let d := 2 ^ (q - e).toNat
    (m / d, m % d, d)

/-- The bits of a value that is exact in the format (spec/07 R152). -/
def FpF.encode (f : FpF) : Num → Nat
  | .nan => f.nanBits
  | .inf neg => f.infBits + (if neg then f.signBit else 0)
  | .fin neg m e =>
    let s := if neg then f.signBit else 0
    if m = 0 then s
    else
      let top : Int := e + (bitLen m : Int) - 1
      let low := 1 - (f.bias : Int)
      if top < low then s + (inUnits m e f.subExp).1
      else s + (top - low).toNat * 2 ^ f.mb + (inUnits m e (top - f.mb)).1

/-! ## Rounding -/

/-- Whether a magnitude between two neighbours of a grid goes to the farther from zero (spec/07 R144): `lo` the
nearer one in units, `rem` of `d` the part above it. -/
def Rm.up (rm : Rm) (neg : Bool) (lo rem d : Nat) : Bool :=
  if rem = 0 then false
  else match rm with
    | .rne => decide (d < 2 * rem) || (2 * rem == d && lo % 2 == 1)
    | .rtz => false
    | .rup => !neg
    | .rdn => neg
    | .sr r => decide (r < 65536 * rem / d)

/-- The magnitude `m * 2^e` rounded to a multiple of 2^q, in those units. -/
def roundTo (rm : Rm) (neg : Bool) (m : Nat) (e q : Int) : Nat :=
  let (lo, rem, d) := inUnits m e q
  if rm.up neg lo rem d then lo + 1 else lo

/-- A magnitude is less than another. -/
def magLt (m : Nat) (e : Int) (m' : Nat) (e' : Int) : Bool :=
  let q := min e e'
  decide (m * 2 ^ (e - q).toNat < m' * 2 ^ (e' - q).toNat)

/-- The exponent of the last significand bit of a value in a format of unbounded exponent. -/
def FpF.quantum (f : FpF) (m : Nat) (e : Int) : Int := e + bitLen m - 1 - f.mb

/-- A finite value that overflows, as IEEE 754 gives it under a mode. -/
def FpF.overflow (f : FpF) (rm : Rm) (neg : Bool) : Num :=
  let big := Num.fin neg f.maxMag.1 f.maxMag.2
  match rm with
  | .rne | .sr _ => .inf neg
  | .rtz => big
  | .rup => if neg then big else .inf neg
  | .rdn => if neg then .inf neg else big

/-- IEEE 754 rounding of an exact value to a format (spec/07 R147, R152). -/
def FpF.round (f : FpF) (rm : Rm) : Num → Num
  | .nan => .nan
  | .inf neg => .inf neg
  | .fin neg m e =>
    if m = 0 then .fin neg 0 0
    else
      let q := max (f.quantum m e) f.subExp
      let n := roundTo rm neg m e q
      if magLt f.maxMag.1 f.maxMag.2 n q then f.overflow rm neg else .fin neg n q

/-- FP32(v) of spec/07 R152. -/
def toFp32 (x : Num) : Num := fp32.round .rne x

/-! ## Exact arithmetic -/

/-- The exact integer. -/
def Num.ofInt (i : Int) : Num := .fin (decide (i < 0)) i.natAbs 0

/-- A finite value in units of 2^q, where it is a multiple of them. -/
def units (neg : Bool) (m : Nat) (e q : Int) : Int :=
  let n : Int := (m * 2 ^ (e - q).toNat : Nat)
  if neg then -n else n

/-- The negated value. -/
def Num.neg : Num → Num
  | .nan => .nan
  | .inf n => .inf (!n)
  | .fin n m e => .fin (!n) m e

/-- The magnitude. -/
def Num.abs : Num → Num
  | .nan => .nan
  | .inf _ => .inf false
  | .fin _ m e => .fin false m e

/-- The value is zero. -/
def Num.isZero : Num → Bool
  | .fin _ m _ => m == 0
  | .nan | .inf _ => false

/-- The value is a NaN. -/
def Num.isNan : Num → Bool
  | .nan => true
  | .inf _ | .fin .. => false

/-- The exact sum. An exact zero sum is +0, and -0 under RDN and where both addends are -0 (spec/07 R147, by its words:
DEDUCED, log 29). -/
def Num.add (rm : Rm) : Num → Num → Num
  | .nan, _ | _, .nan => .nan
  | .inf a, .inf b => if a == b then .inf a else .nan
  | .inf a, .fin .. => .inf a
  | .fin .., .inf b => .inf b
  | .fin a m e, .fin b n f =>
    let q := min e f
    let t := units a m e q + units b n f q
    if t = 0 then .fin ((a && b) || rm == .rdn) 0 0 else .fin (decide (t < 0)) t.natAbs q

/-- The exact product. -/
def Num.mul : Num → Num → Num
  | .nan, _ | _, .nan => .nan
  | .inf a, .inf b => .inf (a != b)
  | .inf a, .fin b n _ => if n = 0 then .nan else .inf (a != b)
  | .fin a m _, .inf b => if m = 0 then .nan else .inf (a != b)
  | .fin a m e, .fin b n f => .fin (a != b) (m * n) (e + f)

/-- a * b + c with one rounding to a format (spec/07 R152). -/
def fma (f : FpF) (rm : Rm) (a b c : Num) : Num := f.round rm (Num.add rm (a.mul b) c)

/-- The value scaled by 2^k. -/
def Num.scale (k : Int) : Num → Num
  | .fin n m e => .fin n m (e + k)
  | .nan => .nan
  | .inf n => .inf n

/-- a < b on values that are no NaN; zeros are equal. -/
def Num.lt : Num → Num → Bool
  | .nan, _ | _, .nan => false
  | .inf a, .inf b => a && !b
  | .inf a, .fin .. => a
  | .fin .., .inf b => !b
  | .fin a m e, .fin b n f =>
    let q := min e f
    decide (units a m e q < units b n f q)

/-- a = b; zeros are equal, a NaN equals nothing. -/
def Num.eq : Num → Num → Bool
  | .nan, _ | _, .nan => false
  | .inf a, .inf b => a == b
  | .inf _, .fin .. | .fin .., .inf _ => false
  | .fin a m e, .fin b n f =>
    let q := min e f
    units a m e q == units b n f q

/-- The sign of a value. -/
def Num.sign : Num → Bool
  | .nan => false
  | .inf n => n
  | .fin n _ _ => n

/-- The lesser under the order that puts -0 below +0; the other operand where one is a NaN (spec/09 R190). -/
def Num.min (a b : Num) : Num :=
  if a.isNan then b else if b.isNan then a
  else if a.lt b then a else if b.lt a then b else if a.sign then a else b

/-- The greater under the same order. -/
def Num.max (a b : Num) : Num :=
  if a.isNan then b else if b.isNan then a
  else if a.lt b then b else if b.lt a then a else if a.sign then b else a

/-- The value rounded to an integer under a mode; nothing for a NaN or an infinity. -/
def Num.toInt (rm : Rm) : Num → Option Int
  | .fin n m e =>
    let k : Int := roundTo rm n m e 0
    some (if n then -k else k)
  | .nan | .inf _ => none

/-! ## The conversion policy -/

/-- The target of a conversion: a floating-point format, or two's complement elements of `w` bits in units of
2^q (spec/07 R133, R135). -/
inductive CvtTarget where
  | fp (f : FpF)
  | grid (w : Nat) (q : Int)
  deriving DecidableEq, Repr

/-- The target has infinities. -/
def CvtTarget.hasInf : CvtTarget → Bool
  | .fp f => f.special == 0
  | .grid .. => false

/-- The target has a NaN. -/
def CvtTarget.hasNan : CvtTarget → Bool
  | .fp f => f.special != 2
  | .grid .. => false

/-- The extreme value of a sign: MAX, and for integer elements MINV on the negative side (spec/07 R145). -/
def CvtTarget.extreme (t : CvtTarget) (neg : Bool) : Num :=
  match t with
  | .fp f => .fin neg f.maxMag.1 f.maxMag.2
  | .grid w q => if neg then .fin true (2 ^ (w - 1)) q else .fin false (2 ^ (w - 1) - 1) q

/-- A rounded finite value lies beyond the target's range (spec/07 R145). -/
def CvtTarget.over (t : CvtTarget) (neg : Bool) (m : Nat) (e : Int) : Bool :=
  match t.extreme neg with
  | .fin _ x k => magLt x k m e
  | .nan | .inf _ => false

/-- Round(x, F, m): to the grid of the target with an unbounded exponent (spec/07 R144). -/
def CvtTarget.grow (t : CvtTarget) (rm : Rm) (neg : Bool) (m : Nat) (e : Int) : Nat × Int :=
  match t with
  | .fp f => let q := f.quantum m e; (roundTo rm neg m e q, q)
  | .grid _ q => (roundTo rm neg m e q, q)

/-- What a conversion gives: a value with the CVT_STAT bits to set, or the conversion fault of a DETAIL (spec/21
R376: 1 NaN, 2 infinity, 3 overflow, 4 underflow). -/
inductive Conv where
  | ok (v : Num) (stat : Nat)
  | bad (detail : Nat)
  deriving DecidableEq, Repr

/-- Convert of spec/07 R145: the value with the CVT_STAT bits to set (1 NAN_SUB, 2 INF_SUB, 4 OVF_SUB), or the
fault with its DETAIL. -/
def convert (t : CvtTarget) (pol : Nat) (rm : Rm) (x : Num) : Conv :=
  match x with
  | .nan => match bits pol 6 2 with
    | 0 => .ok (t.extreme false) 0
    | 1 => .ok (.fin false 0 0) 0
    | 3 => .bad 1
    | _ => if t.hasNan then .ok .nan 0 else .ok (t.extreme false) 1
  | .inf neg => match bits pol 4 2 with
    | 0 => .ok (t.extreme neg) 0
    | 1 => .ok (.fin neg 0 0) 0
    | 3 => .bad 2
    | _ => if t.hasInf then .ok (.inf neg) 0 else .ok (t.extreme neg) 2
  | .fin neg m e =>
    if m = 0 then .ok (.fin neg 0 0) 0
    else
      let (y, q) := t.grow rm neg m e
      if t.over neg y q then match bits pol 2 2 with
        | 0 => .ok (t.extreme neg) 0
        | 1 => .ok (.fin neg 0 0) 0
        | 3 => .bad 3
        | _ => if t.hasInf then .ok (.inf neg) 0 else .ok (t.extreme neg) 4
      else match t with
        | .fp f =>
          if magLt m e f.minMag.1 f.minMag.2 then match bits pol 0 2 with
            | 0 => .ok (.fin neg f.minMag.1 f.minMag.2) 0
            | 1 => .ok (.fin neg 0 0) 0
            | 3 => .bad 4
            | _ => .ok (.fin neg (roundTo rm neg m e f.subExp) f.subExp) 0
          else .ok (.fin neg y q) 0
        | .grid .. => .ok (.fin neg y q) 0

/-- The bits of a converted value in its target. -/
def CvtTarget.encode (t : CvtTarget) (x : Num) : Nat :=
  match t with
  | .fp f => f.encode x
  | .grid w q => match x with
    | .fin neg m e =>
      let n := (inUnits m e q).1
      if neg then (2 ^ w - n % 2 ^ w) % 2 ^ w else n % 2 ^ w
    | .nan | .inf _ => 0

/-- The magnitude pattern of a source value (spec/07 R151). -/
def magPattern (x : Num) : W32 := BitVec.ofNat 32 (fp32.encode (toFp32 x.abs))

/-! ## TEXP2, TRCP and the special-function unit -/

/-- The table T[j] of spec/07 R149: the FP32 value nearest 2^(j/16). -/
def exp2Table : List Nat :=
  [0x3F800000, 0x3F85AAC3, 0x3F8B95C2, 0x3F91C3D3, 0x3F9837F0, 0x3F9EF532, 0x3FA5FED7, 0x3FAD583F,
   0x3FB504F3, 0x3FBD08A4, 0x3FC5672A, 0x3FCE248C, 0x3FD744FD, 0x3FE0CCDF, 0x3FEAC0C7, 0x3FF5257D]

/-- C1, C2 and C3 of spec/07 R149. -/
def exp2C1 : Num := fp32.decode 0x3F317218
/-- C2: the FP32 value nearest (ln 2)^2 / 2. -/
def exp2C2 : Num := fp32.decode 0x3E75FDF0
/-- C3: the FP32 value nearest (ln 2)^3 / 6. -/
def exp2C3 : Num := fp32.decode 0x3D635847

/-- FP32 sum and product, RNE. -/
def add32 (a b : Num) : Num := toFp32 (Num.add .rne a b)
/-- FP32 product. -/
def mul32 (a b : Num) : Num := toFp32 (a.mul b)

/-- 2^x by the algorithm of spec/07 R149. -/
def exp2Num (x : Num) : Num :=
  match x with
  | .nan => .nan
  | .inf neg => if neg then .fin false 0 0 else .inf false
  | .fin neg m e =>
    if !neg && !x.lt (.fin false 128 0) then .inf false
    else if x.lt (.fin true 150 0) then .fin false 0 0
    else
      let q := min e 0
      let one : Int := (2 ^ (-q).toNat : Nat)
      let v := units neg m e q
      let n := v.fdiv one
      let fr := (v - n * one).toNat
      let j := 16 * fr / one.toNat
      let f := Num.fin false (16 * fr - j * one.toNat) (q - 4)
      let t := mul32 f exp2C3
      let t := mul32 (add32 t exp2C2) f
      let t := mul32 (add32 t exp2C1) f
      let tj := fp32.decode (nth exp2Table j 0)
      toFp32 ((fma fp32 .rne tj t tj).scale n)

/-- R[j] of spec/07 R150: the FP32 value nearest 1 / (1 + (j + 0.5) / 64), which is no tie. -/
def rcpSeed (j : Nat) : Num := toFp32 (.fin false (2 * (2 ^ 71 / (129 + 2 * j)) + 1) (-65))

/-- 1/x by the algorithm of spec/07 R150. -/
def rcpNum (x : Num) : Num :=
  match x with
  | .nan => .nan
  | .inf neg => .fin neg 0 0
  | .fin neg m e =>
    if m = 0 then .inf neg
    else
      let l : Int := (bitLen m : Int) - 1
      let mm := Num.fin true m (-l)
      let one := Num.fin false 1 0
      let j := (inUnits m (6 - l) 0).1 - 64
      let r := rcpSeed j
      let y := fma fp32 .rne r (fma fp32 .rne mm r one) r
      let y := fma fp32 .rne y (fma fp32 .rne mm y one) y
      match toFp32 (y.scale (-(e + l))) with
      | .fin _ k q => .fin neg k q
      | .inf _ => .inf neg
      | .nan => .nan

/-- One bit of the integer square root: the largest `r` with `r * r ≤ n`, bit by bit from bit `k` down. -/
def sqrtFrom (n : Nat) : Nat → Nat → Nat
  | 0, r => r
  | k + 1, r => let t := r + 2 ^ k; sqrtFrom n k (if t * t ≤ n then t else r)

/-- 1/√x correctly rounded RNE (spec/09 R191). -/
def rsqNum (x : Num) : Num :=
  match x with
  | .nan => .nan
  | .inf neg => if neg then .nan else .fin false 0 0
  | .fin neg m e =>
    if m = 0 then .inf neg
    else if neg then .nan
    else
      let odd := e % 2 = 1
      let m := if odd then 2 * m else m
      let e := if odd then e - 1 else e
      let r := sqrtFrom (2 ^ 128 / m) 65 0
      toFp32 (.fin false (2 * r + (if r * r * m = 2 ^ 128 then 0 else 1)) (-(e / 2) - 65))

/-- `n` bits of the binary logarithm of y / 2^255, a value from 1 below 2, appended to `acc`. -/
def log2Bits : Nat → Nat → Nat → Nat
  | 0, _, acc => acc
  | n + 1, y, acc =>
    let z := y * y / 2 ^ 255
    if 2 ^ 256 ≤ z then log2Bits n (z / 2) (2 * acc + 1) else log2Bits n z (2 * acc)

/-- log2 x correctly rounded RNE (spec/09 R191): 100 bits of the fraction and a sticky bit, since the logarithm of
a value that is no power of two is irrational. -/
def log2Num (x : Num) : Num :=
  match x with
  | .nan => .nan
  | .inf neg => if neg then .nan else .inf false
  | .fin neg m e =>
    if m = 0 then .inf true
    else if neg then .nan
    else
      let l := bitLen m - 1
      let k := e + (l : Int)
      if m = 2 ^ l then (if k = 0 then .fin false 0 0 else toFp32 (Num.ofInt k))
      else
        let t := k * (2 ^ 101 : Nat) + ((2 * log2Bits 100 (m * 2 ^ (255 - l)) 0 + 1 : Nat) : Int)
        toFp32 ((Num.ofInt t).scale (-101))

/-- An FP32 pattern as a value, and a value that is exact in FP32 as a pattern. -/
def ofW (b : W32) : Num := fp32.decode b.toNat
/-- The FP32 pattern. -/
def toW (x : Num) : W32 := BitVec.ofNat 32 (fp32.encode x)

/-- The function of an SFU operation: 0 RCP, 1 RSQ, 2 EXP2, 3 LOG2 (spec/09 R191). -/
def sfu (fn : Nat) (a : W32) : W32 :=
  toW (match fn with
    | 0 => rcpNum (ofW a)
    | 1 => rsqNum (ofW a)
    | 2 => exp2Num (ofW a)
    | _ => log2Num (ofW a))

end Sys2Proof.Machine
end

