-- ==== Sys2Proof/Decode.lean ====
section
/-! DEFINITION. Decoding instruction words, total on any word, and the encoder written from the same tables
(spec/08 R153-R166, spec/13 R293, R294). A word with a non-zero reserved field, a reserved value or an
unassigned opcode decodes to nothing, and the lane that reaches it takes the illegal-instruction fault. -/

namespace Sys2Proof

/-! ## Fields of a word -/

/-- Bits [lo + n - 1 : lo] of a word. -/
def fld (w lo n : Nat) : Nat := w / 2 ^ lo % 2 ^ n

/-- The reserved field of `n` bits at `lo` holds zero. -/
def rsv (w lo n : Nat) : Bool := fld w lo n == 0

/-- The `n` bits at `lo` as a bit vector. -/
def bvf (w lo n : Nat) : BitVec n := BitVec.ofNat n (fld w lo n)

/-- An x register named at `lo`. -/
def xrf (w lo : Nat) : XReg := Fin.ofNat 64 (fld w lo 6)

/-- A predicate, a count register or a token queue 0 to 7 named at `lo`. -/
def f8 (w lo : Nat) : Fin 8 := Fin.ofNat 8 (fld w lo 3)

/-- A stream, a token queue or a kiln register named at `lo`. -/
def f16 (w lo : Nat) : Fin 16 := Fin.ofNat 16 (fld w lo 4)

/-- An escrow counter named at `lo`. -/
def f64 (w lo : Nat) : Fin 64 := Fin.ofNat 64 (fld w lo 6)

/-- A latch or a running maximum register named at `lo`. -/
def f4 (w lo : Nat) : Fin 4 := Fin.ofNat 4 (fld w lo 2)

/-- A cluster token counter named at `lo`. -/
def f32 (w lo : Nat) : Fin 32 := Fin.ofNat 32 (fld w lo 5)

/-- The guard in bits [23:20] (spec/08 R156). -/
def grd (w : Nat) : Guard := ⟨fld w 23 1 == 1, f8 w 20⟩

/-- A compute-lane operand field at `lo` (spec/02 R26). -/
def opf (w lo : Nat) : Opnd := ⟨fld w (lo + 5) 1 == 1, f16 w (lo + 1), fld w lo 1 == 1⟩

/-- The token qualifiers in bits [7:2] (spec/08 R159). -/
def tkf (w : Nat) : Toks := ⟨f8 w 5, f8 w 2⟩

/-- `r` where the reserved fields are zero, else no instruction. -/
def whenOk (b : Bool) (r : Instr) : Option Instr := if b then some r else none

/-- `r` applied to the format in bits [11:8], where the code is one (spec/08 R160). -/
def withFmt (w : Nat) (b : Bool) (r : Fmt → Instr) : Option Instr :=
  match Fmt.ofCode (fld w 8 4) with
  | some f => whenOk b (r f)
  | none => none

/-! ## The K lane's map -/

/-- The words of the common block that every lane lists (spec/08 R162). -/
def decodeCommon (w : Nat) : Option Instr :=
  match fld w 24 8 with
  | 0x00 => whenOk (rsv w 0 20) (.nop (grd w))
  | 0x01 => if fld w 7 1 = 0 then whenOk (rsv w 20 4 && rsv w 0 7) (.doImm (bvf w 8 12))
    else whenOk (rsv w 14 10 && rsv w 0 7) (.doReg (bvf w 8 6))
  | 0x02 => whenOk (rsv w 0 24) .enddo
  | 0x03 => some (.br (grd w) (bvf w 0 20))
  | 0x04 => whenOk (rsv w 0 10) (.wait (grd w) (f16 w 16) (bvf w 10 6))
  | 0x05 => whenOk (rsv w 0 10) (.sig (grd w) (f16 w 16) (bvf w 10 6))
  | 0x08 => whenOk (rsv w 0 8) (.trap (grd w) (bvf w 8 12))
  | 0x09 => whenOk (rsv w 0 20) (.park (grd w))
  | 0x0B => whenOk (rsv w 8 12) (.bkpt (grd w) (bvf w 0 8))
  | _ => none

/-- The K lane's map, opcodes 0x00 to 0x3F (spec/08 R162, R163); `lit` is the word at the next address. -/
def decodeKLow (w lit : Nat) : Option Instr :=
  match fld w 24 8 with
  | 0x07 => whenOk (rsv w 17 1 && rsv w 0 8) (.send (grd w) (bvf w 18 2) (f8 w 14) (xrf w 8))
  | 0x0A => whenOk (rsv w 0 20) (.endParcel (grd w))
  | 0x10 => some (.add (grd w) (xrf w 14) (xrf w 8) (xrf w 2) (bvf w 0 2))
  | 0x11 => some (.sub (grd w) (xrf w 14) (xrf w 8) (xrf w 2) (bvf w 0 2))
  | 0x12 => some (.mul (grd w) (xrf w 14) (xrf w 8) (xrf w 2) (bvf w 0 2))
  | 0x13 => whenOk (rsv w 0 2) (.mulh (grd w) (xrf w 14) (xrf w 8) (xrf w 2))
  | 0x14 => whenOk (rsv w 0 2) (.mulhu (grd w) (xrf w 14) (xrf w 8) (xrf w 2))
  | 0x15 => whenOk (rsv w 0 2) (.div (grd w) (xrf w 14) (xrf w 8) (xrf w 2))
  | 0x16 => whenOk (rsv w 0 2) (.divu (grd w) (xrf w 14) (xrf w 8) (xrf w 2))
  | 0x17 => whenOk (rsv w 0 2) (.rem (grd w) (xrf w 14) (xrf w 8) (xrf w 2))
  | 0x18 => whenOk (rsv w 0 2) (.remu (grd w) (xrf w 14) (xrf w 8) (xrf w 2))
  | 0x19 => whenOk (rsv w 0 2) (.and (grd w) (xrf w 14) (xrf w 8) (xrf w 2))
  | 0x1A => whenOk (rsv w 0 2) (.or (grd w) (xrf w 14) (xrf w 8) (xrf w 2))
  | 0x1B => whenOk (rsv w 0 2) (.xor (grd w) (xrf w 14) (xrf w 8) (xrf w 2))
  | 0x1C => some (.shl (grd w) (xrf w 14) (xrf w 8) (xrf w 2) (bvf w 0 2))
  | 0x1D => some (.shr (grd w) (xrf w 14) (xrf w 8) (xrf w 2) (bvf w 0 2))
  | 0x1E => some (.sra (grd w) (xrf w 14) (xrf w 8) (xrf w 2) (bvf w 0 2))
  | 0x20 => whenOk (rsv w 0 2) (.min (grd w) (xrf w 14) (xrf w 8) (xrf w 2))
  | 0x21 => whenOk (rsv w 0 2) (.max (grd w) (xrf w 14) (xrf w 8) (xrf w 2))
  | 0x22 => whenOk (rsv w 0 2) (.minu (grd w) (xrf w 14) (xrf w 8) (xrf w 2))
  | 0x23 => whenOk (rsv w 0 2) (.maxu (grd w) (xrf w 14) (xrf w 8) (xrf w 2))
  | 0x24 => some (.addi (grd w) (xrf w 14) (xrf w 8) (bvf w 0 8))
  | 0x25 => some (.andi (grd w) (xrf w 14) (xrf w 8) (bvf w 0 8))
  | 0x26 => some (.ori (grd w) (xrf w 14) (xrf w 8) (bvf w 0 8))
  | 0x27 => some (.xori (grd w) (xrf w 14) (xrf w 8) (bvf w 0 8))
  | 0x28 => whenOk (rsv w 6 2) (.shli (grd w) (xrf w 14) (xrf w 8) (bvf w 0 6))
  | 0x29 => whenOk (rsv w 6 2) (.shri (grd w) (xrf w 14) (xrf w 8) (bvf w 0 6))
  | 0x2A => whenOk (rsv w 6 2) (.srai (grd w) (xrf w 14) (xrf w 8) (bvf w 0 6))
  | 0x2B => whenOk (rsv w 0 14) (.li (grd w) (xrf w 14) (BitVec.ofNat 32 lit))
  | 0x2C => whenOk (rsv w 0 14) (.lih (grd w) (xrf w 14) (BitVec.ofNat 32 lit))
  | 0x2D => whenOk (rsv w 0 14) (.lea (grd w) (xrf w 14) (BitVec.ofNat 32 lit))
  | 0x30 => whenOk (rsv w 17 3 && rsv w 0 2) (.cmpEq (grd w) (f8 w 14) (xrf w 8) (xrf w 2))
  | 0x31 => whenOk (rsv w 17 3 && rsv w 0 2) (.cmpNe (grd w) (f8 w 14) (xrf w 8) (xrf w 2))
  | 0x32 => whenOk (rsv w 17 3 && rsv w 0 2) (.cmpLt (grd w) (f8 w 14) (xrf w 8) (xrf w 2))
  | 0x33 => whenOk (rsv w 17 3 && rsv w 0 2) (.cmpLtu (grd w) (f8 w 14) (xrf w 8) (xrf w 2))
  | 0x34 => whenOk (rsv w 17 3 && rsv w 0 2) (.cmpGe (grd w) (f8 w 14) (xrf w 8) (xrf w 2))
  | 0x35 => whenOk (rsv w 17 3 && rsv w 0 2) (.cmpGeu (grd w) (f8 w 14) (xrf w 8) (xrf w 2))
  | 0x36 => whenOk (rsv w 17 3 && rsv w 11 3 && rsv w 5 3 && rsv w 0 2) (.pand (grd w) (f8 w 14) (f8 w 8) (f8 w 2))
  | 0x37 => whenOk (rsv w 17 3 && rsv w 11 3 && rsv w 5 3 && rsv w 0 2) (.por (grd w) (f8 w 14) (f8 w 8) (f8 w 2))
  | 0x38 => whenOk (rsv w 17 3 && rsv w 11 3 && rsv w 5 3 && rsv w 0 2) (.pxor (grd w) (f8 w 14) (f8 w 8) (f8 w 2))
  | 0x39 => whenOk (rsv w 17 3 && rsv w 11 3 && rsv w 5 3 && rsv w 0 2) (.pandn (grd w) (f8 w 14) (f8 w 8) (f8 w 2))
  | _ => decodeCommon w

/-- The K lane's map, opcodes 0x40 to 0xFF (spec/08 R163). -/
def decodeKHigh (w lit : Nat) : Option Instr :=
  match fld w 24 8 with
  | 0x40 => whenOk (rsv w 0 8) (.clz (grd w) (xrf w 14) (xrf w 8))
  | 0x41 => whenOk (rsv w 0 8) (.ctz (grd w) (xrf w 14) (xrf w 8))
  | 0x42 => whenOk (rsv w 0 8) (.popc (grd w) (xrf w 14) (xrf w 8))
  | 0x43 => whenOk (rsv w 0 8) (.brev (grd w) (xrf w 14) (xrf w 8))
  | 0x44 => whenOk (rsv w 0 2) (.bperm (grd w) (xrf w 14) (xrf w 8) (xrf w 2))
  | 0x45 => whenOk (rsv w 0 2) (.clmull (grd w) (xrf w 14) (xrf w 8) (xrf w 2))
  | 0x46 => whenOk (rsv w 0 2) (.clmulh (grd w) (xrf w 14) (xrf w 8) (xrf w 2))
  | 0x47 => whenOk (rsv w 0 2) (.seedadv (grd w) (xrf w 14) (xrf w 8) (xrf w 2))
  | 0x50 => some (.fadd (grd w) (xrf w 14) (xrf w 8) (xrf w 2) (bvf w 0 2))
  | 0x51 => some (.fsub (grd w) (xrf w 14) (xrf w 8) (xrf w 2) (bvf w 0 2))
  | 0x52 => some (.fmul (grd w) (xrf w 14) (xrf w 8) (xrf w 2) (bvf w 0 2))
  | 0x53 => some (.ffma (grd w) (xrf w 14) (xrf w 8) (xrf w 2) (bvf w 0 2))
  | 0x54 => whenOk (rsv w 0 2) (.fmin (grd w) (xrf w 14) (xrf w 8) (xrf w 2))
  | 0x55 => whenOk (rsv w 0 2) (.fmax (grd w) (xrf w 14) (xrf w 8) (xrf w 2))
  | 0x56 => whenOk (rsv w 17 3 && rsv w 0 2) (.feq (grd w) (f8 w 14) (xrf w 8) (xrf w 2))
  | 0x57 => whenOk (rsv w 17 3 && rsv w 0 2) (.flt (grd w) (f8 w 14) (xrf w 8) (xrf w 2))
  | 0x58 => whenOk (rsv w 17 3 && rsv w 0 2) (.fle (grd w) (f8 w 14) (xrf w 8) (xrf w 2))
  | 0x59 => whenOk (rsv w 2 6) (.icvtf (grd w) (xrf w 14) (xrf w 8) (bvf w 0 2))
  | 0x5A => whenOk (rsv w 2 6) (.ucvtf (grd w) (xrf w 14) (xrf w 8) (bvf w 0 2))
  | 0x5B => whenOk (rsv w 2 6) (.fcvti (grd w) (xrf w 14) (xrf w 8) (bvf w 0 2))
  | 0x5C => whenOk (rsv w 2 6) (.fcvtu (grd w) (xrf w 14) (xrf w 8) (bvf w 0 2))
  | 0x5D => whenOk (rsv w 2 6) (.fcvtb (grd w) (xrf w 14) (xrf w 8) (bvf w 0 2))
  | 0x5E => whenOk (rsv w 0 8) (.bcvtf (grd w) (xrf w 14) (xrf w 8))
  | 0x60 => whenOk (rsv w 16 4 && rsv w 0 8) (.rcp (grd w) (f4 w 14) (xrf w 8))
  | 0x61 => whenOk (rsv w 16 4 && rsv w 0 8) (.rsq (grd w) (f4 w 14) (xrf w 8))
  | 0x62 => whenOk (rsv w 16 4 && rsv w 0 8) (.exp2 (grd w) (f4 w 14) (xrf w 8))
  | 0x63 => whenOk (rsv w 16 4 && rsv w 0 8) (.log2 (grd w) (f4 w 14) (xrf w 8))
  | 0x64 => whenOk (rsv w 10 4 && rsv w 0 8) (.mvl (grd w) (xrf w 14) (f4 w 8))
  | 0x68 => some (.call (grd w) (bvf w 0 20))
  | 0x69 => whenOk (rsv w 14 6 && rsv w 0 8) (.calli (grd w) (xrf w 8))
  | 0x6A => whenOk (rsv w 14 6 && rsv w 0 8) (.jmpi (grd w) (xrf w 8))
  | 0x6B => whenOk (rsv w 0 20) (.eret (grd w))
  | 0x6C => whenOk (rsv w 0 24) .yield
  | 0x6D => whenOk (rsv w 8 12) (.bar (grd w) (bvf w 0 8))
  | 0x6E => whenOk (rsv w 0 2 && csrAssigned (fld w 2 12)) (.csrr (grd w) (xrf w 14) (bvf w 2 12))
  | 0x6F => whenOk (rsv w 0 2 && csrAssigned (fld w 2 12)) (.csrw (grd w) (xrf w 14) (bvf w 2 12))
  | 0x70 => whenOk (rsv w 0 2) (.ld (grd w) (xrf w 14) (xrf w 8) (bvf w 4 4) (bvf w 2 2))
  | 0x71 => whenOk (rsv w 0 2) (.lds (grd w) (xrf w 14) (xrf w 8) (bvf w 4 4) (bvf w 2 2))
  | 0x72 => whenOk (rsv w 0 2) (.st (grd w) (xrf w 14) (xrf w 8) (bvf w 4 4) (bvf w 2 2))
  | 0x73 => whenOk (rsv w 0 2) (.monw (grd w) (xrf w 14) (xrf w 8) (bvf w 4 4) (bvf w 2 2))
  | 0x74 => some (.lda (grd w) (xrf w 14) (xrf w 8) (bvf w 4 4) (bvf w 2 2) (bvf w 0 2))
  | 0x75 => whenOk (rsv w 0 2) (.ldaSys (grd w) (xrf w 14) (xrf w 8) (bvf w 4 4) (bvf w 2 2))
  | 0x76 => some (.str (grd w) (xrf w 14) (xrf w 8) (bvf w 4 4) (bvf w 2 2) (bvf w 0 2))
  | 0x77 => whenOk (rsv w 0 2) (.strSys (grd w) (xrf w 14) (xrf w 8) (bvf w 4 4) (bvf w 2 2))
  | 0x78 => whenOk (rsv w 16 4) (.fence (grd w) (bvf w 0 16))
  | 0x80 => whenOk (rsv lit 6 6 && rsv lit 15 17)
      (.aadd (grd w) (xrf w 14) (xrf w 8) (xrf lit 0) (bvf w 4 4) (bvf w 2 2) (bvf w 0 2) (bvf lit 12 3))
  | 0x81 => whenOk (rsv lit 6 6 && rsv lit 15 17)
      (.aand (grd w) (xrf w 14) (xrf w 8) (xrf lit 0) (bvf w 4 4) (bvf w 2 2) (bvf w 0 2) (bvf lit 12 3))
  | 0x82 => whenOk (rsv lit 6 6 && rsv lit 15 17)
      (.aor (grd w) (xrf w 14) (xrf w 8) (xrf lit 0) (bvf w 4 4) (bvf w 2 2) (bvf w 0 2) (bvf lit 12 3))
  | 0x83 => whenOk (rsv lit 6 6 && rsv lit 15 17)
      (.axor (grd w) (xrf w 14) (xrf w 8) (xrf lit 0) (bvf w 4 4) (bvf w 2 2) (bvf w 0 2) (bvf lit 12 3))
  | 0x84 => whenOk (rsv lit 6 6 && rsv lit 15 17)
      (.amin (grd w) (xrf w 14) (xrf w 8) (xrf lit 0) (bvf w 4 4) (bvf w 2 2) (bvf w 0 2) (bvf lit 12 3))
  | 0x85 => whenOk (rsv lit 6 6 && rsv lit 15 17)
      (.amax (grd w) (xrf w 14) (xrf w 8) (xrf lit 0) (bvf w 4 4) (bvf w 2 2) (bvf w 0 2) (bvf lit 12 3))
  | 0x86 => whenOk (rsv lit 6 6 && rsv lit 15 17)
      (.aminu (grd w) (xrf w 14) (xrf w 8) (xrf lit 0) (bvf w 4 4) (bvf w 2 2) (bvf w 0 2) (bvf lit 12 3))
  | 0x87 => whenOk (rsv lit 6 6 && rsv lit 15 17)
      (.amaxu (grd w) (xrf w 14) (xrf w 8) (xrf lit 0) (bvf w 4 4) (bvf w 2 2) (bvf w 0 2) (bvf lit 12 3))
  | 0x88 => whenOk (rsv lit 6 6 && rsv lit 15 17)
      (.aswap (grd w) (xrf w 14) (xrf w 8) (xrf lit 0) (bvf w 4 4) (bvf w 2 2) (bvf w 0 2) (bvf lit 12 3))
  | 0x89 => whenOk (rsv lit 15 17)
      (.cas (grd w) (xrf w 14) (xrf w 8) (xrf lit 0) (xrf lit 6) (bvf w 4 4) (bvf w 2 2) (bvf w 0 2) (bvf lit 12 3))
  | 0x90 => whenOk (rsv w 18 2 && rsv w 0 2) (.launch (grd w) (f16 w 14) (xrf w 8) (xrf w 2))
  | 0x91 => whenOk (rsv w 18 2 && rsv w 3 4) (.sdef (grd w) (f16 w 14) (xrf w 8) (fld w 7 1 == 1) (bvf w 0 3))
  | 0x92 => whenOk (rsv w 18 2 && rsv w 0 8) (.sldb (grd w) (f16 w 14) (xrf w 8))
  | 0x93 => whenOk (rsv w 18 2 && rsv w 0 8) (.soff (grd w) (f16 w 14) (xrf w 8))
  | 0x94 => whenOk (rsv w 6 8) (.ecrd (grd w) (xrf w 14) (f64 w 0))
  | 0xA0 => some (.cpy (grd w) (xrf w 14) (f16 w 10) (f16 w 6) (f64 w 0))
  | 0xA1 => some (.cpyq (grd w) (xrf w 14) (f16 w 10) (f16 w 6) (f64 w 0))
  | 0xA2 => some (.cpyrel (grd w) (xrf w 14) (f16 w 10) (f16 w 6) (f64 w 0))
  | 0xA3 => if fld w 0 14 = 0x3FC0 then some (.cpinv (grd w) (xrf w 14))
    else whenOk (fld w 0 20 == 0x3FC1) (.cpinvAll (grd w))
  | 0xA4 => whenOk (fld w 6 8 == 0xFF) (.ecpost (grd w) (xrf w 14) (f64 w 0))
  | 0xA5 => whenOk (fld w 6 8 == 0xFF) (.ecwait (grd w) (xrf w 14) (f64 w 0))
  | 0xA6 => some (.kvapp (grd w) (xrf w 14) (f16 w 10) (f16 w 6) (f64 w 0))
  | 0xA7 => some (.kvsel (grd w) (xrf w 14) (f16 w 10) (f16 w 6) (f64 w 0))
  | 0xA8 => some (.kvatt (grd w) (xrf w 14) (f16 w 10) (f16 w 6) (f64 w 0))
  | 0xA9 => some (.kvpre (grd w) (xrf w 14) (f16 w 10) (f16 w 6) (f64 w 0))
  | 0xAA => whenOk (rsv w 0 6) (.xstart (grd w) (xrf w 14) (f16 w 10) (f16 w 6))
  | 0xAB => some (.selact (grd w) (xrf w 14) (f16 w 10) (f16 w 6) (f64 w 0))
  | _ => none

/-- The K lane's map (spec/08 R163). -/
def decodeK (w lit : Nat) : Option Instr :=
  if fld w 24 8 < 0x40 then decodeKLow w lit else decodeKHigh w lit

/-- The words that RECV takes in the L, C and S lanes, and the common block there (spec/08 R162). -/
def decodeLcsCommon (w : Nat) : Option Instr :=
  if fld w 24 8 = 0x06 then whenOk (rsv w 20 4 && rsv w 0 17) (.recv (f8 w 17)) else decodeCommon w

/-- The L lane's map (spec/08 R165). -/
def decodeL (w : Nat) : Option Instr :=
  if fld w 24 8 = 0x10 then some (.read (f16 w 20) (bvf w 8 12) (tkf w) (bvf w 0 2)) else decodeLcsCommon w

/-- The S lane's map (spec/08 R165). -/
def decodeS (w : Nat) : Option Instr :=
  if fld w 24 8 = 0x10 then some (.write (f16 w 20) (bvf w 8 12) (tkf w) (bvf w 0 2)) else decodeLcsCommon w

/-! ## The C lane's map -/

/-- The C lane's map, opcodes 0x10 to 0x5F (spec/08 R164). -/
def decodeCLow (w : Nat) : Option Instr :=
  match fld w 24 8 with
  | 0x10 => whenOk (rsv w 8 10 && rsv w 0 2) (.tlift (opf w 18) (tkf w))
  | 0x11 => whenOk (rsv w 8 4 && rsv w 0 2) (.tsink (opf w 18) (opf w 12) (tkf w))
  | 0x12 => whenOk (rsv w 8 16 && rsv w 0 2) (.tdup (tkf w))
  | 0x13 => whenOk (rsv w 8 16 && rsv w 0 2) (.tdrop (tkf w))
  | 0x14 => whenOk (rsv w 8 16 && rsv w 0 2) (.tswap (tkf w))
  | 0x15 => whenOk (rsv w 8 16 && rsv w 0 2) (.tover (tkf w))
  | 0x16 => whenOk (rsv w 8 4 && rsv w 0 2) (.tpick (bvf w 12 12) (tkf w))
  | 0x17 => whenOk (rsv w 8 4 && rsv w 0 2) (.trot (bvf w 12 12) (tkf w))
  | 0x18 => whenOk (rsv w 8 4 && rsv w 0 2) (.trrt (bvf w 12 12) (tkf w))
  | 0x19 => withFmt w (rsv w 12 12 && rsv w 0 2) fun f => .tzero f (tkf w)
  | 0x1A => withFmt w (rsv w 21 3 && rsv w 12 6 && rsv w 0 2) fun f => .tsplat (f8 w 18) f (tkf w)
  | 0x1B => whenOk (rsv w 8 16 && rsv w 0 2) (.tacc (tkf w))
  | 0x1C => if fld w 23 1 = 1 then whenOk (rsv w 8 10 && rsv w 0 2) (.tseedStream (opf w 18) (tkf w))
    else whenOk (rsv w 20 3 && rsv w 8 11 && rsv w 0 2) (.tseedCnt (Fin.ofNat 2 (fld w 19 1)) (tkf w))
  | 0x20 => whenOk (rsv w 0 2) (.tmma (opf w 18) (opf w 12) (bvf w 8 4) (tkf w))
  | 0x21 => withFmt w (rsv w 12 6 && rsv w 0 2) fun f => .tdrain (opf w 18) f (tkf w)
  | 0x22 => whenOk (rsv w 8 10 && rsv w 0 2) (.tgen (opf w 18) (tkf w))
  | 0x23 => whenOk (rsv w 0 2) (.seedfit (opf w 18) (opf w 12) (f4 w 10) (bvf w 8 2) (tkf w))
  | 0x30 => withFmt w true fun f => .tadd (opf w 18) (opf w 12) f (tkf w) (bvf w 0 2)
  | 0x31 => withFmt w true fun f => .taddS (opf w 18) (opf w 12) f (tkf w) (bvf w 0 2)
  | 0x32 => withFmt w true fun f => .taddT (opf w 18) (opf w 12) f (tkf w) (bvf w 0 2)
  | 0x33 => withFmt w true fun f => .tsub (opf w 18) (opf w 12) f (tkf w) (bvf w 0 2)
  | 0x34 => withFmt w true fun f => .tsubS (opf w 18) (opf w 12) f (tkf w) (bvf w 0 2)
  | 0x35 => withFmt w true fun f => .tsubT (opf w 18) (opf w 12) f (tkf w) (bvf w 0 2)
  | 0x36 => withFmt w true fun f => .tmul (opf w 18) (opf w 12) f (tkf w) (bvf w 0 2)
  | 0x37 => withFmt w true fun f => .tfma (opf w 18) (opf w 12) f (tkf w) (bvf w 0 2)
  | 0x38 => withFmt w true fun f => .tmin (opf w 18) (opf w 12) f (tkf w) (bvf w 0 2)
  | 0x39 => withFmt w true fun f => .tmax (opf w 18) (opf w 12) f (tkf w) (bvf w 0 2)
  | 0x3A => withFmt w (rsv w 12 6) fun f => .tabs (opf w 18) f (tkf w) (bvf w 0 2)
  | 0x3B => withFmt w (rsv w 12 6) fun f => .tneg (opf w 18) f (tkf w) (bvf w 0 2)
  | 0x3C => withFmt w (rsv w 12 6) fun f => .texp2 (opf w 18) f (tkf w) (bvf w 0 2)
  | 0x3D => withFmt w (rsv w 12 6) fun f => .trcp (opf w 18) f (tkf w) (bvf w 0 2)
  | 0x40 => withFmt w (rsv w 12 6) fun f => .trsum (opf w 18) f (tkf w) (bvf w 0 2)
  | 0x41 => withFmt w (rsv w 12 6) fun f => .trmax (opf w 18) f (tkf w) (bvf w 0 2)
  | 0x42 => withFmt w (rsv w 12 6) fun f => .trmin (opf w 18) f (tkf w) (bvf w 0 2)
  | 0x43 => withFmt w true fun f => .tcmpeq (opf w 18) (opf w 12) f (tkf w) (bvf w 0 2)
  | 0x44 => withFmt w true fun f => .tcmplt (opf w 18) (opf w 12) f (tkf w) (bvf w 0 2)
  | 0x45 => withFmt w true fun f => .tcmple (opf w 18) (opf w 12) f (tkf w) (bvf w 0 2)
  | 0x46 => withFmt w true fun f => .tsel (opf w 18) (opf w 12) f (tkf w) (bvf w 0 2)
  | 0x47 => withFmt w true fun f => .tperm (opf w 18) (opf w 12) f (tkf w) (bvf w 0 2)
  | 0x48 => withFmt w (rsv w 12 6) fun f => .txpose (opf w 18) f (tkf w) (bvf w 0 2)
  | 0x50 => withFmt w true fun f => .tand (opf w 18) (opf w 12) f (tkf w) (bvf w 0 2)
  | 0x51 => withFmt w true fun f => .tor (opf w 18) (opf w 12) f (tkf w) (bvf w 0 2)
  | 0x52 => withFmt w true fun f => .txor (opf w 18) (opf w 12) f (tkf w) (bvf w 0 2)
  | 0x53 => withFmt w (rsv w 12 6) fun f => .tnot (opf w 18) f (tkf w) (bvf w 0 2)
  | 0x54 => withFmt w true fun f => .tshl (opf w 18) (bvf w 12 6) f (tkf w) (bvf w 0 2)
  | 0x55 => withFmt w true fun f => .tshr (opf w 18) (bvf w 12 6) f (tkf w) (bvf w 0 2)
  | 0x56 => withFmt w true fun f => .tsra (opf w 18) (bvf w 12 6) f (tkf w) (bvf w 0 2)
  | _ => decodeLcsCommon w

/-- TCVT and TQNT, whose opcode holds the source format (spec/08 R164, spec/11 R262). -/
def decodeCvt (w : Nat) : Option Instr :=
  match Fmt.ofCode (fld w 24 4) with
  | some src =>
    if fld w 28 4 = 6 then withFmt w true fun f => .tcvt src (opf w 18) (opf w 12) f (tkf w) (f4 w 0)
    else withFmt w true fun f => .tqnt src (opf w 18) (opf w 12) f (tkf w) (f4 w 0)
  | none => none

/-- The C lane's map (spec/08 R164). -/
def decodeC (w : Nat) : Option Instr :=
  if fld w 28 4 = 6 || fld w 28 4 = 7 then decodeCvt w else decodeCLow w

/-! ## The kiln's map -/

/-- The kiln's map (spec/13 R293, R294). -/
def decodeKiln (w : Nat) : Option Instr :=
  match fld w 24 8 with
  | 0x00 => whenOk (rsv w 0 24) .xnop
  | 0x01 => if fld w 20 4 = 0 then whenOk (rsv w 12 8) (.xloopImm (bvf w 0 12))
    else whenOk (fld w 20 4 == 1 && rsv w 0 16) (.xloopReg (f16 w 16))
  | 0x02 => whenOk (rsv w 0 24) .xend
  | 0x03 => whenOk (rsv w 16 4) (.xli (f16 w 20) (bvf w 0 16))
  | 0x04 => whenOk (rsv w 12 4) (.xaddi (f16 w 20) (f16 w 16) (bvf w 0 12))
  | 0x05 => whenOk (rsv w 6 6) (.xaddr (f16 w 20) (f16 w 16) (f16 w 12) (bvf w 0 6))
  | 0x06 => if fld w 12 4 = 0 then whenOk (rsv w 0 12) (.xldW (f16 w 20) (f16 w 16))
    else whenOk (fld w 12 4 == 1 && rsv w 0 12) (.xldD (f16 w 20) (f16 w 16))
  | 0x07 => whenOk (rsv w 20 4 && rsv w 0 16) (.xcfg (f16 w 16))
  | 0x08 => if fld w 12 4 = 0 then some (.xmove (f16 w 20) (f16 w 16) (bvf w 0 12))
    else if fld w 12 4 = 1 then whenOk (rsv w 0 12) (.xmoveB8 (f16 w 20) (f16 w 16))
    else whenOk (fld w 12 4 == 2 && rsv w 0 12) (.xmoveB16 (f16 w 20) (f16 w 16))
  | 0x09 => whenOk (rsv w 12 4) (.xconv (f16 w 20) (f16 w 16) (bvf w 0 12))
  | 0x0A => whenOk (rsv w 0 16) (.xpack (f16 w 20) (f16 w 16))
  | 0x0B => whenOk (rsv w 0 16) (.xunpack (f16 w 20) (f16 w 16))
  | 0x0C => if fld w 20 4 = 0 then whenOk (rsv w 5 7) (.xbind (f16 w 16) (f16 w 12) (f32 w 0))
    else whenOk (fld w 20 4 == 1 && rsv w 5 15) (.xunbind (f32 w 0))
  | 0x0D => whenOk (rsv w 12 12 && rsv w 5 1) (.xsig (bvf w 6 6) (f32 w 0))
  | 0x0E => whenOk (rsv w 12 12 && rsv w 5 1) (.xwait (bvf w 6 6) (f32 w 0))
  | 0x0F => whenOk (rsv w 0 24) .xhalt
  | _ => none

/-! ## One decoder for every unit -/

/-- The instruction a unit reads from a word `w` and the word `lit` after it, before the checks of the field
values. -/
def decodeRaw (u : CodeUnit) (w lit : Nat) : Option Instr :=
  match u with
  | .lane .k => decodeK w lit
  | .lane .l => decodeL w
  | .lane .c => decodeC w
  | .lane .s => decodeS w
  | .kiln => decodeKiln w

/-- Only the K lane reads guards (spec/08 R162). -/
def guardFits (u : CodeUnit) (i : Instr) : Bool :=
  match u with
  | .lane .l | .lane .c | .lane .s => i.unguarded
  | .lane .k | .kiln => true

/-- The instruction a unit reads from a word and the word after it; none where the word is an illegal
instruction there (spec/08 R166, spec/13 R293). -/
def decode (u : CodeUnit) (w lit : Nat) : Option Instr :=
  (decodeRaw u w lit).filter fun i => i.wf && guardFits u i

/-- The word takes a literal word: an instruction of format K-L, by its opcode (spec/08 R153, R163). -/
def hasLiteral (w : Nat) : Bool :=
  (0x2B ≤ fld w 24 8 && fld w 24 8 ≤ 0x2D) || (0x80 ≤ fld w 24 8 && fld w 24 8 ≤ 0x89)

/-! ## The encoder -/

/-- A guard at bits [23:20]. -/
def encG (g : Guard) : Nat := (if g.neg then 8 else 0) * 2 ^ 20 + g.p.val * 2 ^ 20

/-- An operand field's six bits. -/
def encO (o : Opnd) : Nat := (if o.strm then 32 else 0) + o.idx.val * 2 + (if o.keep then 1 else 0)

/-- The token qualifiers at bits [7:2]. -/
def encT (k : Toks) : Nat := k.tw.val * 2 ^ 5 + k.ts.val * 2 ^ 2

/-- A K-R word. -/
def encR (op : Nat) (g : Guard) (d a b v : Nat) : Nat :=
  op * 2 ^ 24 + encG g + d * 2 ^ 14 + a * 2 ^ 8 + b * 2 ^ 2 + v

/-- A K-I word. -/
def encI (op : Nat) (g : Guard) (d a i : Nat) : Nat := op * 2 ^ 24 + encG g + d * 2 ^ 14 + a * 2 ^ 8 + i

/-- A K-B word, and the words of the common block. -/
def encB (op : Nat) (g : Guard) (o : Nat) : Nat := op * 2 ^ 24 + encG g + o

/-- A K-M word. -/
def encM (op : Nat) (g : Guard) (d a c z o : Nat) : Nat :=
  op * 2 ^ 24 + encG g + d * 2 ^ 14 + a * 2 ^ 8 + c * 2 ^ 4 + z * 2 ^ 2 + o

/-- A K-E word. -/
def encE (op : Nat) (g : Guard) (a w t e : Nat) : Nat :=
  op * 2 ^ 24 + encG g + a * 2 ^ 14 + w * 2 ^ 10 + t * 2 ^ 6 + e

/-- A C-T word. -/
def encC (op a b f : Nat) (k : Toks) (v : Nat) : Nat :=
  op * 2 ^ 24 + a * 2 ^ 18 + b * 2 ^ 12 + f * 2 ^ 8 + encT k + v

/-- An L-S word. -/
def encL (s n : Nat) (k : Toks) (v : Nat) : Nat := 0x10 * 2 ^ 24 + s * 2 ^ 20 + n * 2 ^ 8 + encT k + v

/-- A kiln word. -/
def encX (op d a b i : Nat) : Nat := op * 2 ^ 24 + d * 2 ^ 20 + a * 2 ^ 16 + b * 2 ^ 12 + i

/-- The words of an instruction, the instruction word first; an event has none. -/
def encode : Instr → List Nat
  | .nop g => [encB 0x00 g 0]
  | .doImm c => [0x01 * 2 ^ 24 + c.toNat * 2 ^ 8]
  | .doReg r => [0x01 * 2 ^ 24 + r.toNat * 2 ^ 8 + 2 ^ 7]
  | .enddo => [0x02 * 2 ^ 24]
  | .br g o => [encB 0x03 g o.toNat]
  | .wait g q n => [encB 0x04 g (q.val * 2 ^ 16 + n.toNat * 2 ^ 10)]
  | .sig g q n => [encB 0x05 g (q.val * 2 ^ 16 + n.toNat * 2 ^ 10)]
  | .recv n => [0x06 * 2 ^ 24 + n.val * 2 ^ 17]
  | .send g ln n a => [encB 0x07 g (ln.toNat * 2 ^ 18 + n.val * 2 ^ 14 + a.val * 2 ^ 8)]
  | .trap g c => [encB 0x08 g (c.toNat * 2 ^ 8)]
  | .park g => [encB 0x09 g 0]
  | .endParcel g => [encB 0x0A g 0]
  | .bkpt g c => [encB 0x0B g c.toNat]
  | .add g d a b v => [encR 0x10 g d.val a.val b.val v.toNat]
  | .sub g d a b v => [encR 0x11 g d.val a.val b.val v.toNat]
  | .mul g d a b v => [encR 0x12 g d.val a.val b.val v.toNat]
  | .mulh g d a b => [encR 0x13 g d.val a.val b.val 0]
  | .mulhu g d a b => [encR 0x14 g d.val a.val b.val 0]
  | .div g d a b => [encR 0x15 g d.val a.val b.val 0]
  | .divu g d a b => [encR 0x16 g d.val a.val b.val 0]
  | .rem g d a b => [encR 0x17 g d.val a.val b.val 0]
  | .remu g d a b => [encR 0x18 g d.val a.val b.val 0]
  | .and g d a b => [encR 0x19 g d.val a.val b.val 0]
  | .or g d a b => [encR 0x1A g d.val a.val b.val 0]
  | .xor g d a b => [encR 0x1B g d.val a.val b.val 0]
  | .shl g d a b v => [encR 0x1C g d.val a.val b.val v.toNat]
  | .shr g d a b v => [encR 0x1D g d.val a.val b.val v.toNat]
  | .sra g d a b v => [encR 0x1E g d.val a.val b.val v.toNat]
  | .min g d a b => [encR 0x20 g d.val a.val b.val 0]
  | .max g d a b => [encR 0x21 g d.val a.val b.val 0]
  | .minu g d a b => [encR 0x22 g d.val a.val b.val 0]
  | .maxu g d a b => [encR 0x23 g d.val a.val b.val 0]
  | .bperm g d a b => [encR 0x44 g d.val a.val b.val 0]
  | .clmull g d a b => [encR 0x45 g d.val a.val b.val 0]
  | .clmulh g d a b => [encR 0x46 g d.val a.val b.val 0]
  | .seedadv g d a b => [encR 0x47 g d.val a.val b.val 0]
  | .fadd g d a b v => [encR 0x50 g d.val a.val b.val v.toNat]
  | .fsub g d a b v => [encR 0x51 g d.val a.val b.val v.toNat]
  | .fmul g d a b v => [encR 0x52 g d.val a.val b.val v.toNat]
  | .ffma g d a b v => [encR 0x53 g d.val a.val b.val v.toNat]
  | .fmin g d a b => [encR 0x54 g d.val a.val b.val 0]
  | .fmax g d a b => [encR 0x55 g d.val a.val b.val 0]
  | .addi g d a i => [encI 0x24 g d.val a.val i.toNat]
  | .andi g d a i => [encI 0x25 g d.val a.val i.toNat]
  | .ori g d a i => [encI 0x26 g d.val a.val i.toNat]
  | .xori g d a i => [encI 0x27 g d.val a.val i.toNat]
  | .shli g d a i => [encI 0x28 g d.val a.val i.toNat]
  | .shri g d a i => [encI 0x29 g d.val a.val i.toNat]
  | .srai g d a i => [encI 0x2A g d.val a.val i.toNat]
  | .li g d lit => [encI 0x2B g d.val 0 0, lit.toNat]
  | .lih g d lit => [encI 0x2C g d.val 0 0, lit.toNat]
  | .lea g d lit => [encI 0x2D g d.val 0 0, lit.toNat]
  | .cmpEq g d a b => [encR 0x30 g d.val a.val b.val 0]
  | .cmpNe g d a b => [encR 0x31 g d.val a.val b.val 0]
  | .cmpLt g d a b => [encR 0x32 g d.val a.val b.val 0]
  | .cmpLtu g d a b => [encR 0x33 g d.val a.val b.val 0]
  | .cmpGe g d a b => [encR 0x34 g d.val a.val b.val 0]
  | .cmpGeu g d a b => [encR 0x35 g d.val a.val b.val 0]
  | .pand g d a b => [encR 0x36 g d.val a.val b.val 0]
  | .por g d a b => [encR 0x37 g d.val a.val b.val 0]
  | .pxor g d a b => [encR 0x38 g d.val a.val b.val 0]
  | .pandn g d a b => [encR 0x39 g d.val a.val b.val 0]
  | .feq g d a b => [encR 0x56 g d.val a.val b.val 0]
  | .flt g d a b => [encR 0x57 g d.val a.val b.val 0]
  | .fle g d a b => [encR 0x58 g d.val a.val b.val 0]
  | .clz g d a => [encR 0x40 g d.val a.val 0 0]
  | .ctz g d a => [encR 0x41 g d.val a.val 0 0]
  | .popc g d a => [encR 0x42 g d.val a.val 0 0]
  | .brev g d a => [encR 0x43 g d.val a.val 0 0]
  | .bcvtf g d a => [encR 0x5E g d.val a.val 0 0]
  | .icvtf g d a m => [encR 0x59 g d.val a.val 0 m.toNat]
  | .ucvtf g d a m => [encR 0x5A g d.val a.val 0 m.toNat]
  | .fcvti g d a m => [encR 0x5B g d.val a.val 0 m.toNat]
  | .fcvtu g d a m => [encR 0x5C g d.val a.val 0 m.toNat]
  | .fcvtb g d a m => [encR 0x5D g d.val a.val 0 m.toNat]
  | .rcp g d a => [encR 0x60 g d.val a.val 0 0]
  | .rsq g d a => [encR 0x61 g d.val a.val 0 0]
  | .exp2 g d a => [encR 0x62 g d.val a.val 0 0]
  | .log2 g d a => [encR 0x63 g d.val a.val 0 0]
  | .mvl g d a => [encR 0x64 g d.val a.val 0 0]
  | .call g o => [encB 0x68 g o.toNat]
  | .calli g a => [encR 0x69 g 0 a.val 0 0]
  | .jmpi g a => [encR 0x6A g 0 a.val 0 0]
  | .eret g => [encR 0x6B g 0 0 0 0]
  | .yield => [0x6C * 2 ^ 24]
  | .bar g l => [encI 0x6D g 0 0 l.toNat]
  | .csrr g d n => [encB 0x6E g (d.val * 2 ^ 14 + n.toNat * 2 ^ 2)]
  | .csrw g a n => [encB 0x6F g (a.val * 2 ^ 14 + n.toNat * 2 ^ 2)]
  | .ld g d a c z => [encM 0x70 g d.val a.val c.toNat z.toNat 0]
  | .lds g d a c z => [encM 0x71 g d.val a.val c.toNat z.toNat 0]
  | .st g d a c z => [encM 0x72 g d.val a.val c.toNat z.toNat 0]
  | .monw g d a c z => [encM 0x73 g d.val a.val c.toNat z.toNat 0]
  | .ldaSys g d a c z => [encM 0x75 g d.val a.val c.toNat z.toNat 0]
  | .strSys g d a c z => [encM 0x77 g d.val a.val c.toNat z.toNat 0]
  | .lda g d a c z r => [encM 0x74 g d.val a.val c.toNat z.toNat r.toNat]
  | .str g d a c z r => [encM 0x76 g d.val a.val c.toNat z.toNat r.toNat]
  | .fence g m => [encB 0x78 g m.toNat]
  | .aadd g d a b c z o sc => [encM 0x80 g d.val a.val c.toNat z.toNat o.toNat, sc.toNat * 2 ^ 12 + b.val]
  | .aand g d a b c z o sc => [encM 0x81 g d.val a.val c.toNat z.toNat o.toNat, sc.toNat * 2 ^ 12 + b.val]
  | .aor g d a b c z o sc => [encM 0x82 g d.val a.val c.toNat z.toNat o.toNat, sc.toNat * 2 ^ 12 + b.val]
  | .axor g d a b c z o sc => [encM 0x83 g d.val a.val c.toNat z.toNat o.toNat, sc.toNat * 2 ^ 12 + b.val]
  | .amin g d a b c z o sc => [encM 0x84 g d.val a.val c.toNat z.toNat o.toNat, sc.toNat * 2 ^ 12 + b.val]
  | .amax g d a b c z o sc => [encM 0x85 g d.val a.val c.toNat z.toNat o.toNat, sc.toNat * 2 ^ 12 + b.val]
  | .aminu g d a b c z o sc => [encM 0x86 g d.val a.val c.toNat z.toNat o.toNat, sc.toNat * 2 ^ 12 + b.val]
  | .amaxu g d a b c z o sc => [encM 0x87 g d.val a.val c.toNat z.toNat o.toNat, sc.toNat * 2 ^ 12 + b.val]
  | .aswap g d a b c z o sc => [encM 0x88 g d.val a.val c.toNat z.toNat o.toNat, sc.toNat * 2 ^ 12 + b.val]
  | .cas g d a b x c z o sc => [encM 0x89 g d.val a.val c.toNat z.toNat o.toNat, sc.toNat * 2 ^ 12 + x.val * 2 ^ 6 + b.val]
  | .launch g q a b => [encR 0x90 g q.val a.val b.val 0]
  | .sdef g s a arm w => [encI 0x91 g s.val a.val ((if arm then 2 ^ 7 else 0) + w.toNat)]
  | .sldb g s a => [encR 0x92 g s.val a.val 0 0]
  | .soff g s a => [encR 0x93 g s.val a.val 0 0]
  | .ecrd g d x => [encI 0x94 g d.val 0 x.val]
  | .cpy g a w t x => [encE 0xA0 g a.val w.val t.val x.val]
  | .cpyq g a w t x => [encE 0xA1 g a.val w.val t.val x.val]
  | .cpyrel g a w t x => [encE 0xA2 g a.val w.val t.val x.val]
  | .kvapp g a w t x => [encE 0xA6 g a.val w.val t.val x.val]
  | .kvsel g a w t x => [encE 0xA7 g a.val w.val t.val x.val]
  | .kvatt g a w t x => [encE 0xA8 g a.val w.val t.val x.val]
  | .kvpre g a w t x => [encE 0xA9 g a.val w.val t.val x.val]
  | .selact g a w t x => [encE 0xAB g a.val w.val t.val x.val]
  | .cpinv g a => [encE 0xA3 g a.val 15 15 0]
  | .cpinvAll g => [encE 0xA3 g 0 15 15 1]
  | .ecpost g a x => [encE 0xA4 g a.val 15 15 x.val]
  | .ecwait g a x => [encE 0xA5 g a.val 15 15 x.val]
  | .xstart g a w t => [encE 0xAA g a.val w.val t.val 0]
  | .read s n k v => [encL s.val n.toNat k v.toNat]
  | .write s n k v => [encL s.val n.toNat k v.toNat]
  | .tlift a k => [encC 0x10 (encO a) 0 0 k 0]
  | .tsink a b k => [encC 0x11 (encO a) (encO b) 0 k 0]
  | .tdup k => [encC 0x12 0 0 0 k 0]
  | .tdrop k => [encC 0x13 0 0 0 k 0]
  | .tswap k => [encC 0x14 0 0 0 k 0]
  | .tover k => [encC 0x15 0 0 0 k 0]
  | .tacc k => [encC 0x1B 0 0 0 k 0]
  | .tpick d k => [encC 0x16 0 d.toNat 0 k 0]
  | .trot d k => [encC 0x17 0 d.toNat 0 k 0]
  | .trrt d k => [encC 0x18 0 d.toNat 0 k 0]
  | .tzero f k => [encC 0x19 0 0 f.code k 0]
  | .tsplat n f k => [encC 0x1A n.val 0 f.code k 0]
  | .tseedCnt b k => [encC 0x1C (b.val * 2) 0 0 k 0]
  | .tseedStream a k => [encC 0x1C (encO a) 0 0 k 0]
  | .tmma a b p k => [encC 0x20 (encO a) (encO b) p.toNat k 0]
  | .tdrain a f k => [encC 0x21 (encO a) 0 f.code k 0]
  | .tgen a k => [encC 0x22 (encO a) 0 0 k 0]
  | .seedfit a b l f k => [encC 0x23 (encO a) (encO b) (l.val * 4 + f.toNat) k 0]
  | .tadd a b f k v => [encC 0x30 (encO a) (encO b) f.code k v.toNat]
  | .taddS a b f k v => [encC 0x31 (encO a) (encO b) f.code k v.toNat]
  | .taddT a b f k v => [encC 0x32 (encO a) (encO b) f.code k v.toNat]
  | .tsub a b f k v => [encC 0x33 (encO a) (encO b) f.code k v.toNat]
  | .tsubS a b f k v => [encC 0x34 (encO a) (encO b) f.code k v.toNat]
  | .tsubT a b f k v => [encC 0x35 (encO a) (encO b) f.code k v.toNat]
  | .tmul a b f k v => [encC 0x36 (encO a) (encO b) f.code k v.toNat]
  | .tfma a b f k v => [encC 0x37 (encO a) (encO b) f.code k v.toNat]
  | .tmin a b f k v => [encC 0x38 (encO a) (encO b) f.code k v.toNat]
  | .tmax a b f k v => [encC 0x39 (encO a) (encO b) f.code k v.toNat]
  | .tcmpeq a b f k v => [encC 0x43 (encO a) (encO b) f.code k v.toNat]
  | .tcmplt a b f k v => [encC 0x44 (encO a) (encO b) f.code k v.toNat]
  | .tcmple a b f k v => [encC 0x45 (encO a) (encO b) f.code k v.toNat]
  | .tsel a b f k v => [encC 0x46 (encO a) (encO b) f.code k v.toNat]
  | .tperm a b f k v => [encC 0x47 (encO a) (encO b) f.code k v.toNat]
  | .tand a b f k v => [encC 0x50 (encO a) (encO b) f.code k v.toNat]
  | .tor a b f k v => [encC 0x51 (encO a) (encO b) f.code k v.toNat]
  | .txor a b f k v => [encC 0x52 (encO a) (encO b) f.code k v.toNat]
  | .tabs a f k v => [encC 0x3A (encO a) 0 f.code k v.toNat]
  | .tneg a f k v => [encC 0x3B (encO a) 0 f.code k v.toNat]
  | .texp2 a f k v => [encC 0x3C (encO a) 0 f.code k v.toNat]
  | .trcp a f k v => [encC 0x3D (encO a) 0 f.code k v.toNat]
  | .trsum a f k v => [encC 0x40 (encO a) 0 f.code k v.toNat]
  | .trmax a f k v => [encC 0x41 (encO a) 0 f.code k v.toNat]
  | .trmin a f k v => [encC 0x42 (encO a) 0 f.code k v.toNat]
  | .txpose a f k v => [encC 0x48 (encO a) 0 f.code k v.toNat]
  | .tnot a f k v => [encC 0x53 (encO a) 0 f.code k v.toNat]
  | .tshl a i f k v => [encC 0x54 (encO a) i.toNat f.code k v.toNat]
  | .tshr a i f k v => [encC 0x55 (encO a) i.toNat f.code k v.toNat]
  | .tsra a i f k v => [encC 0x56 (encO a) i.toNat f.code k v.toNat]
  | .tcvt src a b f k m => [encC (0x60 + src.code) (encO a) (encO b) f.code k m.val]
  | .tqnt src a b f k m => [encC (0x70 + src.code) (encO a) (encO b) f.code k m.val]
  | .xnop => [encX 0x00 0 0 0 0]
  | .xloopImm i => [encX 0x01 0 0 0 i.toNat]
  | .xloopReg a => [encX 0x01 1 a.val 0 0]
  | .xend => [encX 0x02 0 0 0 0]
  | .xli d i => [encX 0x03 d.val 0 0 i.toNat]
  | .xaddi d a i => [encX 0x04 d.val a.val 0 i.toNat]
  | .xaddr d a b s => [encX 0x05 d.val a.val b.val s.toNat]
  | .xldW d a => [encX 0x06 d.val a.val 0 0]
  | .xldD d a => [encX 0x06 d.val a.val 1 0]
  | .xcfg a => [encX 0x07 0 a.val 0 0]
  | .xmove d a i => [encX 0x08 d.val a.val 0 i.toNat]
  | .xmoveB8 d a => [encX 0x08 d.val a.val 1 0]
  | .xmoveB16 d a => [encX 0x08 d.val a.val 2 0]
  | .xconv d a i => [encX 0x09 d.val a.val 0 i.toNat]
  | .xpack d a => [encX 0x0A d.val a.val 0 0]
  | .xunpack d a => [encX 0x0B d.val a.val 0 0]
  | .xbind a q n => [encX 0x0C 0 a.val q.val n.val]
  | .xunbind n => [encX 0x0C 1 0 0 n.val]
  | .xsig c n => [encX 0x0D 0 0 0 (c.toNat * 2 ^ 6 + n.val)]
  | .xwait c n => [encX 0x0E 0 0 0 (c.toNat * 2 ^ 6 + n.val)]
  | .xhalt => [encX 0x0F 0 0 0 0]
  | _ => []

/-- How many bits of the first word the encoding of an instruction fixes (the masks of
spec/opcode_table.json; XNOP is put below NOP, whose word is the same). -/
def Instr.fixedBits : Instr → Nat
  | .tcvt .. | .tqnt .. => 4
  | .br .. | .add .. | .sub .. | .mul .. | .shl .. | .shr .. | .sra .. | .addi .. | .andi .. | .ori ..
  | .xori .. | .fadd .. | .fsub .. | .fmul .. | .ffma .. | .call .. | .lda .. | .str .. | .cpy ..
  | .cpyq .. | .cpyrel .. | .kvapp .. | .kvsel .. | .kvatt .. | .kvpre .. | .selact .. | .read ..
  | .write .. | .tadd .. | .taddS .. | .taddT .. | .tsub .. | .tsubS .. | .tsubT .. | .tmul .. | .tfma ..
  | .tmin .. | .tmax .. | .tcmpeq .. | .tcmplt .. | .tcmple .. | .tsel .. | .tperm .. | .tand .. | .tor ..
  | .txor .. | .tshl .. | .tshr .. | .tsra .. => 8
  | .mulh .. | .mulhu .. | .div .. | .divu .. | .rem .. | .remu .. | .and .. | .or .. | .xor .. | .min ..
  | .max .. | .minu .. | .maxu .. | .shli .. | .shri .. | .srai .. | .bperm .. | .clmull .. | .clmulh ..
  | .seedadv .. | .fmin .. | .fmax .. | .csrr .. | .csrw .. | .ld .. | .lds .. | .st .. | .monw ..
  | .ldaSys .. | .strSys .. | .tmma .. | .seedfit .. => 10
  | .fence .. | .launch .. | .xli .. | .xaddi .. | .xmove .. | .xconv .. => 12
  | .cmpEq .. | .cmpNe .. | .cmpLt .. | .cmpLtu .. | .cmpGe .. | .cmpGeu .. | .feq .. | .flt .. | .fle .. => 13
  | .icvtf .. | .ucvtf .. | .fcvti .. | .fcvtu .. | .fcvtb .. | .sdef .. | .xstart .. | .tpick ..
  | .trot .. | .trrt .. | .tabs .. | .tneg .. | .texp2 .. | .trcp .. | .trsum .. | .trmax .. | .trmin ..
  | .txpose .. | .tnot .. | .xaddr .. => 14
  | .trap .. | .clz .. | .ctz .. | .popc .. | .brev .. | .bcvtf .. | .ecrd .. | .ecpost .. | .ecwait ..
  | .tdrain .. => 16
  | .send .. | .tsink .. => 17
  | .wait .. | .sig .. | .sldb .. | .soff .. => 18
  | .pand .. | .por .. | .pxor .. | .pandn .. | .tsplat .. | .xbind .. => 19
  | .doImm .. | .bkpt .. | .rcp .. | .rsq .. | .exp2 .. | .log2 .. | .mvl .. | .bar .. | .xloopImm .. => 20
  | .tlift .. | .tseedStream .. | .tgen .. | .xsig .. | .xwait .. => 21
  | .calli .. | .jmpi .. | .cpinv .. | .tzero .. => 22
  | .xldW .. | .xldD .. | .xmoveB8 .. | .xmoveB16 .. | .xpack .. | .xunpack .. => 24
  | .tseedCnt .. => 25
  | .doReg .. | .tdup .. | .tdrop .. | .tswap .. | .tover .. | .tacc .. => 26
  | .xnop | .xunbind .. => 27
  | .nop .. | .park .. | .endParcel .. | .eret .. | .cpinvAll .. | .xloopReg .. | .xcfg .. => 28
  | .recv .. => 29
  | .enddo | .yield | .xend | .xhalt => 32
  | _ => 0

/-- The better of two readings of a table word: the one whose encoding fixes more bits, the first on a tie. -/
def betterReading (x y : Option Instr) : Option Instr :=
  match x, y with
  | none, y => y
  | x, none => x
  | some i, some j => if i.fixedBits < j.fixedBits then some j else some i

/-- The instruction of a table word. The opcode table does not name the unit of a row, and one word may be an
instruction of several units (spec/08 R153): the reading whose encoding fixes most bits is taken, the K lane's
on a tie. Every operand word above `nbits` is zero (DESIGN CHOICE, log 48). -/
def decodeTableWord (nbits w : Nat) : Option Instr :=
  let lit := w / 2 ^ 32 % 2 ^ 32
  let w0 := w % 2 ^ 32
  if nbits < 32 then none
  else
    betterReading (betterReading (betterReading (betterReading (decode (.lane .k) w0 lit) (decode (.lane .c) w0 lit))
      (decode (.lane .l) w0 lit)) (decode (.lane .s) w0 lit)) (decode .kiln w0 lit)

/-- The unit whose map holds the instruction; the common block is the K lane's first (spec/08 R162-R165). -/
def Instr.homeUnit : Instr → CodeUnit
  | .recv _ | .read .. => .lane .l
  | .write .. => .lane .s
  | .tlift .. | .tsink .. | .tdup _ | .tdrop _ | .tswap _ | .tover _ | .tpick .. | .trot .. | .trrt ..
  | .tzero .. | .tsplat .. | .tacc _ | .tseedCnt .. | .tseedStream .. | .tmma .. | .tdrain .. | .tgen ..
  | .seedfit .. | .tadd .. | .taddS .. | .taddT .. | .tsub .. | .tsubS .. | .tsubT .. | .tmul .. | .tfma ..
  | .tmin .. | .tmax .. | .tabs .. | .tneg .. | .texp2 .. | .trcp .. | .trsum .. | .trmax .. | .trmin ..
  | .tcmpeq .. | .tcmplt .. | .tcmple .. | .tsel .. | .tperm .. | .txpose .. | .tand .. | .tor .. | .txor ..
  | .tnot .. | .tshl .. | .tshr .. | .tsra .. | .tcvt .. | .tqnt .. => .lane .c
  | .xnop | .xloopImm _ | .xloopReg _ | .xend | .xli .. | .xaddi .. | .xaddr .. | .xldW .. | .xldD ..
  | .xcfg _ | .xmove .. | .xmoveB8 .. | .xmoveB16 .. | .xconv .. | .xpack .. | .xunpack .. | .xbind ..
  | .xunbind _ | .xsig .. | .xwait .. | .xhalt => .kiln
  | _ => .lane .k

end Sys2Proof
end

