-- ==== Sys2Proof/Config.lean ====
section
/-! DEFINITION. What an implementation fixes and what the manual leaves open: constants without a body, so that
no proof can see a value of one. The assumption log names each. -/

namespace Sys2Proof

/-- A 16-byte unit of HBM that is read under another key slot than it was written under, where one of the two holds no key, of which
spec/05 R101 does not speak: the unit's number, which gives the tweak of its 4 KiB block and its place there, the key it was written under, the key it is read under, and what was written
(spec/05 R101, spec/15 R339: other bytes; log 8). -/
opaque Config.otherKeyUnit : Nat → Nat → Nat → BitVec 128 → BitVec 128

/-- The fused device key, which the boot ROM loads into slot 0 (spec/15 R339; log 6). -/
opaque Config.deviceKey : BitVec 512

/-- A byte of a region whose layout is not architecture: a bedrock region (spec/04 R74) or a save region
(spec/03 R64), by address and a count of free values (log 9). -/
opaque Config.layoutByte : Nat → Nat → Byte

/-- The result of a read that overlaps a write of the same command, where the manual allows the value before
and the value after: true for after (spec/13 R289, R298; log 10). -/
opaque Config.overlapNew : Nat → Bool

/-- Whether an element after the faulting one of a command was written all the same (spec/21 R380; log 10). -/
opaque Config.lateWrite : Nat → Bool

/-- The address at which the firmware starts on a supervisor core (spec/15 R337; log 11). -/
opaque Config.firmwareStart : Nat → Word

/-- The address at which a supervisor context takes a fault (spec/20 R351; log 11). -/
opaque Config.supervisorVector : Nat → Word

/-- The physical address to which the boot ROM copies the firmware image (spec/15 R337; log 11). -/
opaque Config.firmwareBase : Nat

/-- The bytes of the firmware image that the flash holds, given the cells that are not erased (spec/15 R337 gives no
place for the length; log 12). -/
opaque Config.imageLength : List (Nat × Byte) → Nat

/-- SHAKE-256 of bytes, cut to 256 bits (spec/15 R337, R340; FIPS 202, which the manual does not restate: log 12). -/
opaque Config.shake256 : List Byte → BitVec 256

/-- The 64-byte public key in an image, whose layout the manual does not give: the image's bytes (spec/15 R337; log 12). -/
opaque Config.imageKey : List Byte → List Byte

/-- The security version in an image, 0 to 63 (spec/15 R337; log 12). -/
opaque Config.imageVersion : List Byte → Fin 64

/-- The SLH-DSA-SHAKE-256s signature in an image verifies over it (spec/15 R337; FIPS 205; log 12). -/
opaque Config.imageSigned : List Byte → Bool

/-- The fused hash of the public key (spec/15 R337; log 12). -/
opaque Config.fusedKeyHash : BitVec 256

/-- The fused counter of security versions (spec/15 R337; log 12). -/
opaque Config.fusedVersion : Fin 64

/-- Whether a read of the flash at boot succeeds; the number counts free values (spec/22 R413, BERR 5; log 12). -/
opaque Config.flashReads : Nat → Bool

/-- Whether the PCIe read of a recovery image succeeds; the number counts free values (spec/22 R413, BERR 6; log 12). -/
opaque Config.hostReads : Nat → Bool

/-- Whether the flash takes a verified image (spec/22 R413, BERR 7; log 12). -/
opaque Config.flashWrites : Nat → Bool

/-- Which check fails on the image that a failed flash write has left: BERR is this number + 1 (spec/22 R413; log 12). -/
opaque Config.brokenImage : Nat → Fin 3

/-- The key that a wrapped key holds, where it unwraps under the session's IDE key: the slot, the wrapped key (spec/15
R339; log 12). -/
opaque Config.unwrapKey : Nat → Nat → Option (BitVec 512)

/-- The signature of an attestation report under the fused attestation key: nonce, measurement, security version, life-cycle
state, mask of loaded key slots (spec/15 R340; log 12). -/
opaque Config.attestationSign : BitVec 256 → BitVec 256 → Nat → Nat → Word → List Byte

/-- The bytes with which the request area answers an attestation request, whose layout the manual does not give: nonce,
measurement, security version, life-cycle state, mask, signature (spec/15 R331, R340; log 12). -/
opaque Config.reportBytes : BitVec 256 → BitVec 256 → Nat → Nat → Word → List Byte → List Byte

/-- The place of a stack image, whose layout is not architecture, in MERR_LAST.LOC (spec/04 R74, spec/21 R394; log 9). -/
opaque Config.imageLoc : Nat → BitVec 52

/-- What a supervisor context reads in a register that belongs to a parcel or to a cluster, which it is not and in which it
does not stand: the register's number, the context (spec/01 R8, spec/03 R46, spec/05 R115; log 24). -/
opaque Config.supervisorCsr : Nat → Nat → Word

/-- Whether the host completes AtomicOps (spec/15 R327; log 13). -/
opaque Config.hostAtomics : Bool

/-- Whether a peer module accepts triggers (spec/14 R316; log 13). -/
opaque Config.peerTriggers : Nat → Bool

end Sys2Proof
end

