-- ==== Sys2Proof/Machine/State.lean ====
section
/-! DEFINITION. The state of the module as plain data, and the state right after reset.

One agent moves in a step. `turn` says which one, and carries the choices that the manual leaves open; `agenda`
lists the turns to come. Units that exist in number are tables keyed by the unit's number; an absent key stands
for the unit's reset value. Numbers of units: a cluster is 16 * die + cluster, a core 64 * cluster + core, a
context 4 * core + slot (spec/01 R8); the context of supervisor core n of die d is 16384 + 4 * d + n. -/

namespace Sys2Proof.Machine

/-! ## Who moves -/

/-- The agent that a turn lets move. -/
inductive Agent where
  /-- A lane of a context issues its next instruction (spec/03 R58). -/
  | lane (c : Nat) (ln : Lane)
  /-- The kiln of a cluster executes its next word (spec/13 R291). -/
  | kiln (cl : Nat)
  /-- A core chooses a context by spec/03 R58 and its four lanes move next. -/
  | core (n : Nat)
  /-- A part of the device takes the step that the row describes. -/
  | event (i : Instr)
  /-- The owner of host or peer memory writes `n` bytes at a physical address. -/
  | owner (a n : Nat) (v : Word)
  /-- The debugger outside asks for DBG_CTL and DBG_BP0-3 of a context at its next placement (spec/23 R415). -/
  | asks (c : Nat) (ctl : Word) (bp : Vector Word 4)
  /-- Only time passes. -/
  | idle
  deriving DecidableEq, Repr

/-- One turn: the agent, the time that passes before it moves, and the choices that the manual leaves open. -/
structure Turn where
  who : Agent
  /-- Ticks of global time that pass (spec/01 R12). -/
  dt : Nat
  /-- Cycles of the arithmetic clock that pass (spec/01 R11). -/
  dc : Nat
  /-- A scalar access misses (spec/09 R179). -/
  miss : Bool
  /-- No translation cache still holds the page (spec/05 R102). -/
  tlbMiss : Bool
  /-- Pipe A is not free, so an instruction that names no pipe takes pipe B (spec/04 R83). -/
  pipeB : Bool
  /-- The block cache serves a capture that it may serve (spec/10 R236). -/
  cached : Bool
  /-- A peer that an access reaches reports an error (spec/21 R376). -/
  peerError : Bool
  deriving DecidableEq, Repr

/-- A turn that makes no choice in favour of an exception. -/
def Turn.plain (w : Agent) : Turn := ⟨w, 1, 1, false, false, false, false, false⟩

/-! ## Memory -/

/-- Bytes by address: strictly rising addresses, and no entry equal to what an unlisted address reads as. -/
abbrev Memory := List Host.Cell

/-- One cached translation (spec/05 R102): the page and what its leaf says. -/
structure TlbEnt where
  asid : Nat
  /-- First virtual address of the page. -/
  va : Nat
  /-- log2 of the page's bytes. -/
  lg : Nat
  pa : Nat
  key : Nat
  /-- Bits [6:2] of the leaf: DEV, SUP, X, W, RD (spec/05 R97). -/
  perm : BitVec 5
  deriving DecidableEq, Repr

/-- A run of bytes in one place. -/
inductive Loc where
  | phys (a key : Nat) (dev : Bool)
  | cl (n off : Nat)
  | co (n off : Nat)
  deriving DecidableEq, Repr

/-! ## Faults that the device reports -/

/-- A fault to be taken: what the fault record will hold (spec/20 R356, R357). -/
structure Flt where
  cause : Nat
  detail : Nat
  addr : Word
  info : Word
  deriving DecidableEq, Repr

/-- A fault of an engine command or a kiln program on its way to its issuer (spec/21 R375). -/
structure EngFlt where
  flt : Flt
  /-- The context that issued it, and the issuing lane's number. -/
  c : Nat
  lane : Nat
  /-- FR_POS: the engine and the command's entry number (spec/20 R356). -/
  pos : Word
  deriving DecidableEq, Repr

/-- What one context records of a supervisor-level fault of its team (spec/20 R355, R359). -/
structure TeamRec where
  c : Nat
  flt : Flt
  pos : Word
  word : Word
  engine : Bool
  deriving DecidableEq, Repr

/-- A supervisor-level fault of a team, found at context `c`, with the records that it leaves. -/
structure TeamFlt where
  flt : Flt
  c : Nat
  lane : Nat
  recs : List TeamRec
  deriving DecidableEq, Repr

/-- A message waiting for its slot of a die's fault ring (spec/20 R359, R360). -/
structure FltMsg where
  cause : Word
  pos : Word
  word : Word
  addr : Word
  info : Word
  team : Word
  hdr : Word
  deriving DecidableEq, Repr

/-! ## The tile stack -/

/-- The value of a stack entry or of a stream tile (spec/04 R68). -/
inductive Val where
  /-- A 64-row tile: tag, payload, band. -/
  | single (f : Fmt) (payload : BitVec 32768) (band : BitVec 2048)
  /-- A 64 x 64 FP32 accumulator and its poison band. -/
  | quad (q : BitVec 131072) (poison : BitVec 4096)
  /-- A seed entry (spec/07 R140). -/
  | seed (s : BitVec 512)
  deriving DecidableEq, Repr

/-- The kind of an entry (spec/04 R68, R69). -/
inductive Kind where
  | single (f : Fmt)
  | quad
  | seed
  deriving DecidableEq, Repr

/-- Where an entry resides (spec/04 R71). A moving entry counts in the place it leaves and in the place it goes to. -/
inductive Res where
  | till
  | subsoil
  | bedrock
  /-- Rising to the till from the subsoil. -/
  | movingS
  /-- Rising to the till from the bedrock. -/
  | movingB
  /-- Sinking from the till to the subsoil, for entry `id` of context `c`, which takes the freed slots (spec/04 R73). -/
  | sinkS (c id : Nat)
  /-- Sinking from the till to the bedrock, for entry `id` of context `c`. -/
  | sinkB (c id : Nat)
  /-- Sinking from the subsoil to the bedrock (spec/04 R74). -/
  | down
  /-- Reserved by a dispatched instruction; no storage. -/
  | pending
  /-- Copied into the operand buffer by the instruction that waits at dispatch, which pops it; no storage (spec/04
  R84). -/
  | buffer
  deriving DecidableEq, Repr

/-- A stack entry. `id` names it while it is pending and while it moves. -/
structure Entry where
  id : Nat
  kind : Kind
  /-- No value while the entry is pending (spec/04 R85). -/
  val : Option Val
  res : Res
  /-- Claimed as the accumulator of a dispatched instruction (spec/04 R84). -/
  pinned : Bool
  /-- Its image met an error that cannot be corrected (spec/21 R393). -/
  damaged : Bool
  /-- Till slots that it has been given and does not yet fill: it is to rise, or to take its value (spec/04 R73, R86). -/
  got : Nat
  deriving DecidableEq, Repr

/-! ## Streams -/

/-- What an arrival entry holds (spec/05 R108, R109, spec/21 R378). -/
inductive Arr where
  /-- The load has issued; the value or the fault it obtained arrives with TILE_ARRIVAL. -/
  | flight (v : Val)
  /-- The load has met a fault; the fault mark arrives with TILE_ARRIVAL. -/
  | flightBad (f : Flt)
  | here (v : Val)
  | bad (f : Flt)
  /-- A deferred fault has been raised at this entry; its next take loads again. -/
  | retry
  deriving DecidableEq, Repr

/-- One arrival entry: the tile's index in the stream and its state. -/
structure ArrEnt where
  tile : Nat
  st : Arr
  deriving DecidableEq, Repr

/-- A stream register (spec/05 R104, R108; spec/10 R226). -/
structure Strm where
  /-- The 64-byte stream block. -/
  blk : BitVec 512
  armed : Bool
  rpos : Nat
  tpos : Nat
  wpos : Nat
  rowc : Nat
  /-- Arrival queue, head first. -/
  arr : List ArrEnt
  /-- Entries taken by dispatched instructions that have not committed (spec/04 R84). -/
  claimed : Nat
  /-- Departure queue, head first. -/
  dep : List Val
  /-- Departures reserved by dispatched TSINKs (spec/10 R230). -/
  reserved : Nat
  /-- Tile stores that have issued and not yet performed: whether the store is the last of its WRITE, the queue of
  its `sig=`, its position (spec/05 R111). -/
  storing : List (Bool × Option Nat × Word)
  deriving DecidableEq, Repr

/-- A READ whose last tile has not arrived: stream, last tile, the queue of its `sig=`, its position (spec/05
R108). -/
structure ReadSig where
  s : Nat
  tile : Nat
  q : Option Nat
  pos : Word
  deriving DecidableEq, Repr

/-! ## Lanes -/

/-- A wait in progress (spec/14 R311, R312). -/
structure Wait where
  kind : Nat
  obj : Nat
  amount : Nat
  addr : Word
  /-- The cycle at which it began. -/
  since : Nat
  /-- It is one of the waits that R311 lists. -/
  logged : Bool
  deriving DecidableEq, Repr

/-- The issue state of a lane. -/
structure LaneSt where
  /-- Address of the next instruction, or of the PARK of a parked lane. -/
  pc : Word
  /-- Head index (spec/14 R303). -/
  head : BitVec 46
  parked : Bool
  /-- Loop stack, innermost first: START and LEFT (spec/09 R199). -/
  loops : List (Word × W32)
  /-- The wait that the lane's next instruction is in. -/
  wait : Option Wait
  /-- A wait of R311 that goes on while the instruction waits for something else (spec/14 R311). -/
  tokWait : Option Wait
  /-- PARK has issued, and what the lane issued before has still to complete (spec/09 R210). -/
  parking : Bool
  /-- Tiles that a READ or WRITE stopped by a fault has still to issue (spec/05 R418). -/
  remain : Option Nat
  /-- The lane was stopped before its next instruction by a breakpoint, which does not stop it again (spec/14 R309). -/
  passBp : Bool
  /-- The lane was stopped at its next instruction, a BKPT, which is now a NOP (spec/14 R309). -/
  passBk : Bool
  /-- A tile that the WRITE in progress has stored hit a watchpoint that stops (spec/14 R319). -/
  hitStop : Bool
  deriving DecidableEq, Repr

/-- An SFU result latch (spec/09 R191). -/
structure Latch where
  val : W32
  valid : Bool
  busy : Bool
  /-- The SFU operation in flight: function (0 RCP, 1 RSQ, 2 EXP2, 3 LOG2) and operand. -/
  op : Option (Nat × W32)
  deriving DecidableEq, Repr

/-- A dispatched compute-lane instruction that has not committed: what it took, so that R88 can return it, and
what it makes, so that R86 can commit it. -/
structure Infl where
  i : Instr
  word : Word
  pc : Word
  /-- The loop stack and the tile stack just before its dispatch. -/
  loops : List (Word × W32)
  stack : List Entry
  /-- Stream tiles taken: stream, the entry, the row cursor before. -/
  took : List (Nat × ArrEnt × Nat)
  /-- Streams whose row cursor it advanced without taking the tile: stream, cursor before. -/
  cursor : List (Nat × Nat)
  /-- Tokens taken: queue, pushers. -/
  toks : List (Nat × List Word)
  /-- The count register whose ARRIVED mark it took. -/
  recv : Option Nat
  /-- The latch that it holds and what the latch held before. -/
  latch : Option (Nat × Latch)
  /-- Values of its pending entries, by id. -/
  results : List (Nat × Val)
  /-- Running maximum update (spec/11 R265). -/
  am : Option (Nat × W32)
  /-- CVT_STAT bits to set, and the new CVT_SR (spec/07 R143, R144). -/
  stat : W32
  sr : Option Word
  /-- Its departure: stream, value. -/
  dep : Option (Nat × Val)
  /-- Tokens to push: queue, count. -/
  sig : Option (Nat × Nat)
  /-- What its latch receives at commit. -/
  landing : Option W32
  /-- Till slots of the quad that it popped and pins, and the entries that it pins in place (spec/04 R84). -/
  pins : Nat
  unpin : List Nat
  /-- The fault found before or while it runs; the stream whose arrival entry carried it (spec/21 R378). -/
  flt : Option Flt
  deferred : Option Nat
  /-- The engine it runs on: 4 ME, 5 VA, 6 VB, 7 CV, 15 none (spec/14 R304). -/
  unit : Nat
  deriving DecidableEq, Repr

/-- The MONW of a K lane that waits (spec/09 R206). -/
structure Monw where
  i : Instr
  /-- The watched 64-byte block: space, unit, block number. -/
  space : Nat
  unit : Nat
  block : Nat
  /-- Global time of its last load, and the value that it read. -/
  gt : Nat
  val : Word
  /-- A write has reached the block, and who wrote. -/
  woken : Option Word
  deriving DecidableEq, Repr

/-- A barrier arrival of a K lane (spec/09 R205). -/
structure BarSt where
  level : Nat
  released : Bool
  /-- The last arriver (spec/14 R311). -/
  setter : Word
  /-- Its arrival ordinal among the parcels of its team (spec/14 R321). -/
  ord : Nat
  /-- The recording has taken note of its release (spec/14 R321). -/
  noted : Bool
  /-- In replay what the arrival's record says: the last arriver, SEQ, VALUE (spec/22 R397, R398). -/
  want : Option (Word × Nat × Word)
  deriving DecidableEq, Repr

/-- The K lane as it stood at a store that can still meet a fault, which is then precise at the store (spec/21 R377). -/
structure KUndo where
  x : Vector Word 64
  p : Vector Bool 8
  k : LaneSt
  deriving DecidableEq, Repr

/-- A store of the K lane that has issued and has still to perform, since its page, its stack or its route does not answer yet
(spec/10 R218). -/
structure HeldStore where
  addr : Word
  /-- log2 of its size. -/
  lg : Nat
  /-- FR_INFO, which holds its class. -/
  info : Word
  data : List Byte
  /-- Its position and its word. -/
  pos : Word
  word : Word
  /-- It is a release (spec/10 R219). -/
  rel : Bool
  /-- Where its bytes go, by the translation at its issue; nothing where that could not be made. -/
  place : List (Loc × Nat)
  /-- Where it can still meet a fault, what K was. -/
  undo : Option KUndo
  deriving DecidableEq, Repr

/-- A push of the compute lane that waits for room: queue, count, pusher, since when, and whether it is a SIG, whose wait is
logged (spec/04 R86, spec/14 R311). -/
structure SigPush where
  q : Nat
  n : Nat
  who : Word
  since : Nat
  sig : Bool
  deriving DecidableEq, Repr

/-- A fault that is to be taken: lane, position, word and the flags of FR_CAUSE (spec/20 R352, R356). -/
structure DueFlt where
  flt : Flt
  lane : Nat
  pos : Word
  word : Word
  precise : Bool
  deferred : Bool
  engine : Bool
  deriving DecidableEq, Repr

/-- The engine command or kiln start that a K lane is issuing and that waits: its address, the block that it has captured and
whether it read it afresh, what it found at the slab map entry with its post, and whether it has posted (spec/10 R234). -/
structure Issuing where
  pc : Word
  blk : BitVec 512
  fresh : Bool
  found : Option (BitVec 128 × Nat)
  ec : Nat
  posted : Bool
  deriving DecidableEq, Repr

/-! ## A context -/

/-- A context: a parcel, or the control lane of a supervisor core. -/
structure Ctx where
  resident : Bool
  retired : Bool
  /-- K has executed END (spec/03 R50). -/
  ended : Bool
  /-- x0-x63, p0-p7, l0-l3. -/
  x : Vector Word 64
  p : Vector Bool 8
  lat : Vector Latch 4
  k : LaneSt
  l : LaneSt
  cl : LaneSt
  sl : LaneSt
  /-- Count registers n0-n7 of L, C and S and their ARRIVED marks. -/
  n : Vector W32 24
  arrived : Vector Bool 24
  /-- The SEND that last wrote each count register (spec/14 R311, R322). -/
  sender : Vector Word 24
  /-- Token queues: the pusher of each token, oldest first. -/
  tq : Vector (List Word) 16
  /-- Who last took tokens from each queue: the setter of a SIG that stalled at 63 (spec/14 R311). -/
  taker : Vector Word 16
  strm : Vector Strm 16
  readSigs : List ReadSig
  /-- Tokens of READs whose tiles have arrived and of WRITEs whose stores have performed, which wait for room: queue,
  pusher (spec/05 R108, R111). -/
  sigDue : List (Nat × Word)
  am : Vector W32 4
  cvtCtl : W32
  cvtSr : Word
  cvtStat : W32
  discStat : Word
  perfSel : Vector W32 4
  perfCnt : Vector Word 4
  trigCtl : W32
  /-- The fault record (spec/20 R355). -/
  frCause : Word
  frPos : Word
  frWord : Word
  frAddr : Word
  frInfo : Word
  frResume : Vector Word 4
  frScr : Vector Word 4
  /-- Lanes whose resume point the handler has written (spec/05 R418). -/
  resumeWritten : Vector Bool 4
  /-- Engine faults held for the next ERET (spec/20 R354). -/
  heldFlts : List EngFlt
  /-- A fault that waits for the reply of K's outstanding access, after which it is taken (spec/20 R352). -/
  dueFlt : Option DueFlt
  /-- A fault that a debugger stop has recorded and not yet passed on: its lane, and whether it is one of the supervisor
  level (spec/20 R351). -/
  dbgFlt : Option (Flt × Nat × Bool)
  /-- Supervisor-level faults that wait behind it (spec/20 R351). -/
  dbgNext : List TeamFlt
  dbgCtl : Word
  dbgStat : Word
  dbgBp : Vector Word 4
  dbgSel : W32
  /-- The debugger has stopped the context (spec/14 R307). -/
  stopped : Bool
  /-- The scope of the stop in progress (spec/18 R346). -/
  stopSc : Nat
  /-- Instructions still to step, of lane STEPL (spec/14 R310). -/
  stepLeft : Nat
  /-- Of a step of the compute lane: instructions dispatched before it that have still to commit (spec/14 R310). -/
  stepOld : Nat
  lix : Vector W32 4
  lex : Vector W32 4
  larg : Word
  teamId : Word
  ptRoot : Word
  /-- From the kernel header: its address, TRAPOFF, the register allocation, TICKETS, SUBSOIL. -/
  hdr : Word
  trapOff : W32
  nx : Nat
  tickets : Nat
  subsoil : Nat
  /-- PASS of the context (spec/03 R58). -/
  pass : Word
  /-- The tile stack, top first. -/
  stack : List Entry
  ovfBase : Word
  ovfPtr : Word
  ovfLimit : Word
  /-- CSTK_DEPTH and CSTK_RES (spec/04 R89). -/
  cDepth : W32
  cRes : W32
  /-- Dispatched and uncommitted compute-lane instructions, oldest first. -/
  infl : List Infl
  /-- Entries that the instruction waiting at dispatch has copied and will leave in place (spec/04 R84). -/
  copied : List Nat
  /-- Entries that it has made to rise and not yet copied (spec/04 R73: being claimed). -/
  claiming : List Nat
  /-- Pushes that wait in the C lane (spec/04 R86). -/
  sigWait : List SigPush
  /-- The K lane's scalar access whose reply is outstanding (spec/09 R179). -/
  kmiss : Option Instr
  /-- K's stores that have issued and not performed, oldest first (spec/10 R218). -/
  stores : List HeldStore
  /-- The engine command or kiln start that K is issuing (spec/10 R234). -/
  issuing : Option Issuing
  /-- Launches that have not reached every home die: the LAUNCH's address, or for the host-service program the record's SEQ, the
  launch, the dies left (spec/09 R211). -/
  launching : List (Word × Nat × List Nat)
  monw : Option Monw
  bar : Option BarSt
  /-- YIELD has ended the context's issue in this cycle (spec/09 R207): the cycle. -/
  yielded : Option Nat
  deriving DecidableEq, Repr

/-! ## Engine commands and the kiln -/

/-- A cluster engine other than the kiln (spec/12 R284). -/
inductive Eng where
  | ce | sv | pf | dc
  deriving DecidableEq, Repr

/-- The commands that enter an engine's queue (spec/10 R233). -/
inductive CmdOp where
  | cpy | cpyq | cpyrel | kvapp | kvsel | kvatt | kvpre | selact
  deriving DecidableEq, Repr

/-- How far a command has come (spec/10 R234). -/
inductive Phase where
  /-- In the time-sorted buffer. -/
  | stamped
  | queued
  | running
  /-- A relocation stopped at a page that faults (spec/21 R390). -/
  | suspended
  /-- Everything is done but the push of its completion token, which waits for room (spec/10 R234). -/
  | pushing
  | done
  deriving DecidableEq, Repr

/-- One destination write that a running command has still to make. -/
structure Out where
  /-- Address with its space in bits [63:62]. -/
  addr : Word
  bytes : List Byte
  /-- Bytes that it retires from the command's post. -/
  retire : Nat
  /-- The unit it belongs to: ELEM of a fault (spec/21 R376). -/
  elem : Nat
  deriving DecidableEq, Repr

/-- An engine command. -/
structure Cmd where
  id : Nat
  /-- Entry number in its engine, from 0 at placement (spec/20 R356). -/
  no : Nat
  eng : Eng
  op : CmdOp
  /-- Issuing context, and the position of the issuing instruction. -/
  c : Nat
  pos : Word
  blk : BitVec 512
  blkAddr : Word
  ec : Nat
  /-- Completion queue, 15 for none; input queues still to be served. -/
  ts : Nat
  tws : List Nat
  phase : Phase
  /-- The slab map entry that a CPYREL read at issue (spec/10 R242), or an attention command at its start (spec/11 R273), and
  whether one has. -/
  map : BitVec 128
  mapped : Bool
  /-- A running command has read what it reads at its start. -/
  ready : Bool
  /-- Bytes of the post that remain (spec/21 R376: LEFT). -/
  left : Nat
  /-- Next element in box order, or next page. -/
  e : Nat
  /-- Source elements read from element `e` on, of a word that the next units share (spec/06 R118). -/
  ahead : List Nat
  /-- Bytes read of the next element after those, where its first bytes share such a word. -/
  part : List Byte
  /-- Writes computed at the start and not yet performed. -/
  outs : List Out
  /-- CPYQ: exponent k, running maximum, SR generator. -/
  k : Int
  mx : W32
  sr : Word
  /-- Pages that the command put into quarantine: DETAIL and FR_INFO of cause 0x2E (spec/21 R389). -/
  quar : List (Nat × Word)
  /-- The fault that ends it once `outs` has been written, and its ELEM (spec/21 R380). -/
  bad : Option (Flt × Nat)
  /-- CPYREL: the commands whose completion it waits for (spec/12 R285). -/
  readers : List Nat
  /-- Bytes of global memory read as data at the start, as addresses with lengths (spec/12 R285). -/
  data : List (Nat × Nat)
  /-- KVATT with OMODE 1: the tile to deliver. -/
  deliver : Option (Nat × Val)
  /-- When its input wait began (spec/14 R311). -/
  since : Nat
  deriving DecidableEq, Repr

/-- A kiln start in the queue (spec/10 R246). -/
structure KStart where
  /-- Order of issue among the cluster's commands (spec/09 R204). -/
  id : Nat
  blk : BitVec 512
  blkAddr : Word
  c : Nat
  pos : Word
  /-- Its input queue, 15 for none or once served; its completion queue. -/
  tw : Nat
  ts : Nat
  /-- When its input wait began (spec/14 R311). -/
  since : Nat
  deriving DecidableEq, Repr

/-- A running kiln program (spec/13 R291). -/
structure KRun where
  blkAddr : Word
  c : Nat
  pos : Word
  ts : Nat
  pc : Nat
  g : Vector Word 16
  loops : List (Nat × W32)
  cfg : Word
  sr : Word
  /-- The image load has not yet completed: words still to load (spec/10 R246). -/
  loading : Bool
  blk : BitVec 512
  wait : Option Wait
  deriving DecidableEq, Repr

/-- A cluster token counter (spec/13 R299): the pusher of each token of its own COUNT, oldest first, and the parcel
and queue that it is bound to. -/
structure Ct where
  pushers : List Word
  bind : Option (Nat × Nat)
  deriving DecidableEq, Repr

/-! ## Recording -/

/-- One recorded event (spec/14 R322). -/
structure SyncRec where
  pos : Word
  partner : Word
  kind : Nat
  seq : Nat
  value : Word
  deriving DecidableEq, Repr

/-- The recording state of a team (spec/14 R320-R324). -/
structure RecSt where
  /-- 1 record, 2 replay. -/
  mode : Nat
  seq : Nat
  hash : Word
  interval : Nat
  /-- Recorded events not yet matched, in SEQ order, and recorded hashes by interval (replay). -/
  events : List SyncRec
  hashes : List (Nat × Word)
  /-- Events of compute lanes that have been made and whose instruction has been cancelled: it takes again what it took (spec/04
  R88). -/
  undone : List Word
  /-- The team has been stopped by a divergence or a full region (spec/22 R399, R400). -/
  diverged : Bool
  deriving DecidableEq, Repr

/-! ## Teams, clusters, cores, dies -/

/-- A placed team (spec/03 R48). -/
structure Team where
  launch : Nat
  t : Nat
  home : Nat
  size : Nat
  /-- Order of placement on the die. -/
  seq : Nat
  /-- The cause that holds the team (spec/20 R361). -/
  held : Option Nat
  /-- The save region, while it is being pre-empted (spec/03 R64). -/
  saving : Option Word
  /-- Arrivals at the current team barrier: parcel, level. -/
  arrivals : List (Nat × Nat)
  /-- Die and device barriers that it has forwarded to (spec/20 R370). -/
  barOrd : Nat
  /-- It waits at a die or device barrier: level, ordinal. -/
  waiting : Option (Nat × Nat)
  recd : Option RecSt
  /-- The cycle of its last progress (spec/20 R369). -/
  lastAct : Nat
  /-- Kiln ranges that its starts loaded: OFF, LEN, PROG, context (spec/13 R302). -/
  loads : List (Nat × Nat × Word × Nat)
  deriving DecidableEq, Repr

/-- A cluster. -/
structure Cluster where
  cmem : Memory
  /-- 8-byte words that hold an error (spec/21 R393). -/
  cmemBad : List Nat
  ec : Vector W32 64
  /-- Who last decremented each escrow counter (spec/14 R311). -/
  ecBy : Vector Word 64
  /-- When each was last decremented: the cycle (spec/21 R384). -/
  ecAt : Vector Nat 64
  ct : Vector Ct 32
  imem : FMap W32
  imemBad : List Nat
  starts : List KStart
  run : Option KRun
  /-- Ranges of kiln memory that a resumed team has still to load: OFF, LEN, PROG, context (spec/13 R302). -/
  reload : List (Nat × Nat × Word × Nat)
  /-- Completion tokens of kiln programs that wait for room: context, queue, pusher (spec/10 R234, spec/13 R301). -/
  kpush : List (Nat × Nat × Word)
  /-- Commands of the sieve, prefill, decode and copy engines, in entry order. -/
  cmds : List Cmd
  nextCmd : Nat
  /-- Commands entered since placement, and heads, of CE, SV, PF, DC; kiln head (spec/14 R303). -/
  entered : Vector Nat 4
  heads : Vector Nat 4
  knHead : Nat
  /-- Block cache: address, ASID, block (spec/10 R236). -/
  bcache : List (Nat × Nat × BitVec 512)
  tlb : List TlbEnt
  fwdOld : Word
  fwdNew : Word
  fwdStat : Word
  wpBase : Vector Word 4
  wpCtl : Vector Word 4
  wpOvf : W32
  /-- Imprecise hits awaiting their records: watchpoint, address, writer, cycle of the write (spec/22 R404). -/
  hits : List (Nat × Word × Word × Nat)
  /-- Engine faults on their way (spec/21 R375). -/
  flts : List EngFlt
  team : Option Team
  deriving DecidableEq, Repr

/-- A core. -/
structure CoreSt where
  scratch : Memory
  scratchBad : List Nat
  tlb : List TlbEnt
  /-- Heads of ME, VA, VB, CV (spec/14 R303). -/
  heads : Vector Nat 4
  /-- Context slots that were ready in the previous cycle (spec/03 R58). -/
  wasReady : List Nat
  deriving DecidableEq, Repr

/-- One launch's unplaced teams in a queue: `n` teams from t = first, in steps of 4 (spec/03 R47, R52). -/
structure LqEnt where
  launch : Nat
  first : Nat
  n : Nat
  deriving DecidableEq, Repr

/-- A launch queue (spec/03 R52-R54). -/
structure LQueue where
  cfg : W32
  pass : Word
  ents : List LqEnt
  deriving DecidableEq, Repr

/-- A pre-empted team (spec/03 R64, R65). -/
structure Saved where
  team : Team
  save : Word
  /-- Saved contexts by parcel, core memories by core in the cluster. -/
  ctxs : List (Nat × Ctx)
  cores : List (Nat × CoreSt)
  cluster : Cluster
  /-- It resumes only once its barrier has released (spec/03 R62): ordinal. -/
  until_ : Option Nat
  deriving DecidableEq, Repr

/-- A die. -/
structure Die where
  gtOff : Nat
  q : Vector LQueue 16
  resumed : List Saved
  /-- Last saves of teams, kept for a die reset (spec/22 R408). -/
  lastSaves : List Saved
  brBase : Word
  brLen : Word
  /-- BRPOOL_BASE and BRPOOL_LEN as the die's last placement took them up (spec/04 R76). -/
  poolBase : Word
  poolLen : Word
  preemptCtl : Word
  /-- The cluster whose save runs. -/
  saving : Option Nat
  tlbInv : Word
  tlbInvCtl : W32
  /-- What the running invalidation captured. -/
  tlbCap : Option (Word × Nat)
  fqBase : Word
  fqLen : W32
  fltCtl : W32
  msgs : List FltMsg
  /-- Messages written since reset. -/
  msgN : Nat
  /-- Global time since which the next message has found no free slot (spec/22 R414). -/
  fqFull : Option Nat
  sbufCtl : Word
  sbufBase : Word
  sbufLen : W32
  sbufWr : W32
  sbufRd : W32
  sbufDrop : Word
  lastSample : Nat
  recCtl : Word
  recBase : Word
  recLen : W32
  recWr : W32
  /-- The recording region is full (spec/22 R400). -/
  recFull : Bool
  trigLast : Word
  trigStat : W32
  /-- Capture ends at this global time (spec/14 R317). -/
  capEnd : Option Nat
  /-- Triggers of the module on their way to this die: origin, origin GT, ID (spec/14 R317). -/
  trigIn : List (Word × Nat × Nat)
  /-- Triggers of peers that the die has taken and that could still come again: origin, origin GT, ID (spec/22 R405). -/
  trigSeen : List (Word × Nat × Nat)
  /-- Triggers sent to peers whose time to acknowledge runs: link, peer, origin GT, and whether the peer was reached
  (spec/22 R405). -/
  trigOut : List (Nat × Nat × Nat × Bool)
  merrCnt : Word
  merrLast : Word
  /-- The outstanding pre-emption request: cluster, cycle (spec/03 R62). -/
  request : Option (Nat × Nat)
  /-- The last cause 0x12: cluster, cycle (spec/20 R371). -/
  noPre : Option (Nat × Nat)
  placeSeq : Nat
  /-- The cycle of its last placement: one at most in a cycle (spec/03 R54). -/
  placedAt : Option Nat
  /-- The last team that it took from a queue: the cycle, the queue's die, the queue (spec/03 R57). -/
  took : Option (Nat × Nat × Nat)
  inReset : Bool
  inService : Bool
  /-- Global time at which its reset began (spec/22 R406). -/
  resetAt : Nat
  /-- Launches to be treated at its return: launch, teams lost (spec/22 R408). -/
  lost : List (Nat × Nat)
  deriving DecidableEq, Repr

/-- A barrier of a launch at die or device level (spec/03 R60, spec/20 R370). -/
structure Bar where
  level : Nat
  /-- Teams that have arrived, as t; the position of the last arriving K lane. -/
  arrived : List Nat
  last : Word
  released : Bool
  /-- Home dies whose die barrier has released. -/
  dies : List Nat
  /-- The cycle of its first arrival, and the lowest team that forwarded its level in that cycle (spec/20 R370). -/
  cyc : Nat
  by_ : Nat
  deriving DecidableEq, Repr

/-- A launch (spec/03 R45-R51). -/
structure Launch where
  hdrAddr : Word
  hdr : BitVec 512
  arg : Word
  ptRoot : Word
  die : Nat
  queue : Nat
  root : Nat
  teams : Nat
  /-- Its barriers at die and device level, by ordinal. -/
  bars : List Bar
  /-- The cause that ends it FAILED (spec/20 R362). -/
  failed : Option Nat
  reported : Bool
  deriving DecidableEq, Repr

/-! ## Links and the host interface -/

/-- A Rhaold link (spec/22 R410). -/
structure Link where
  trained : Bool
  /-- The module that it reaches, or last reached; 4096 before its first training. -/
  peer : Nat
  /-- Global time since which it has been down. -/
  since : Nat
  deriving DecidableEq, Repr

/-- The life-cycle states (spec/15 R341). -/
inductive Life where
  | manufacture | production | decommissioned
  deriving DecidableEq, Repr

/-- An accepted journal record (spec/15 R335): its image, its state, the launch made for it. -/
structure JRec where
  seq : Nat
  rec_ : BitVec 512
  state : Nat
  launch : Option Nat
  deriving DecidableEq, Repr

/-- An attestation report: nonce, measurement of the running image, security version, life-cycle state, mask of loaded key
slots, signature (spec/15 R340). -/
structure Report where
  nonce : BitVec 256
  measurement : BitVec 256
  version : Nat
  life : Nat
  mask : Word
  signature : List Byte
  deriving DecidableEq, Repr

/-- The service mailbox, the host-service program and what the host sees (spec/15 R329-R342). -/
structure Svc where
  boot : Nat
  berr : Nat
  jbase : BitVec 40
  nrec : BitVec 18
  sbase : BitVec 40
  jen : Bool
  next : Word
  img : BitVec 40
  imglen : BitVec 26
  /-- Mailbox bytes 0x200-0x3FF. -/
  req : Memory
  /-- The journal mirror in HBM: accepted records not yet done. -/
  mirror : List JRec
  /-- Entries of the flash journal log without a final status, with their STATE (spec/22 R412). -/
  logged : List (BitVec 512 × Nat)
  /-- Records that the commit of a hold-up has still to write, and entries that it has written (spec/22 R411). -/
  commit : List JRec
  commitAt : Nat
  /-- The running image: its measurement and its security version (spec/15 R340). -/
  image : Option (BitVec 256 × Nat)
  /-- The last attestation report. -/
  report : Option Report
  ide : Bool
  /-- What the last access from outside was answered: nothing for a write or a refusal. -/
  reply : Option Word
  deriving DecidableEq, Repr

/-- An XTS key slot: the 512-bit key that it holds, where one has been loaded (spec/15 R339). -/
structure KeySlot where
  key : Option (BitVec 512)
  deriving DecidableEq, Repr

/-- A key has been loaded into the slot. -/
def KeySlot.loaded (k : KeySlot) : Bool := k.key.isSome

/-- An HBM stack (spec/22 R409). -/
inductive StackSt where
  | up | retraining | out
  deriving DecidableEq, Repr

/-! ## The module -/

/-- The state of the module (model fields: DESIGN CHOICE, log 2). -/
structure State where
  turn : Turn
  agenda : List Turn
  /-- Counts the free values that steps have drawn. -/
  fresh : Nat
  /-- Bytes of global memory that the command which is being prepared has read so far; empty between steps (the model's own). -/
  reads : List (Nat × Nat)
  gt : Nat
  cycle : Nat
  mem : Memory
  /-- The key that each 16-byte unit of HBM was last written under, as the key's number + 1, or 0 for a region whose
  layout is not architecture. -/
  tags : FMap Nat
  /-- Poisoned 64-byte blocks of HBM. -/
  poisoned : List Nat
  keys : Vector KeySlot 64
  hbmStacks : Vector StackSt 8
  ctxs : FMap Ctx
  cores : FMap CoreSt
  clusters : FMap Cluster
  dies : Vector Die 4
  launches : FMap Launch
  nextLaunch : Nat
  nextId : Nat
  /-- Link `l` is port `l % 8` of die `l / 8` (spec/01 R7). -/
  links : Vector Link 32
  modId : Nat
  /-- Peers that a switch has removed, and peers that no trained link has reached for 1 ms. -/
  removed : List Nat
  noRoute : List Nat
  /-- Peers that some link has reached and none reaches: the peer, global time since then (spec/22 R410). -/
  unreached : List (Nat × Nat)
  svc : Svc
  flash : Memory
  /-- A write of a verified image has failed, which leaves the flash without a valid one (spec/22 R413). -/
  flashBad : Bool
  life : Life
  holdUp : Bool
  /-- DBG_CTL and DBG_BP0-3 that the debugger outside has asked for at a context's next placement (spec/23 R415). -/
  asked : FMap (Word × Vector Word 4)
  deriving DecidableEq, Repr

/-- Why a step stops. -/
inductive Fault where
  /-- The turn names a unit that the part does not have, or an instruction reached `exec` outside a lane or a kiln.
  Raised by step and by every instruction of a lane or of the kiln. Safe: no agent of the hardware makes it. -/
  | noUnit
  /-- An instruction that names a unit of a cluster reached the control lane of a supervisor core, which stands in no
  cluster (spec/01 R6); the manual says nothing of it. Raised by the engine commands and the escrow instructions.
  Safe: nothing is claimed of it. -/
  | noCluster
  deriving DecidableEq, Repr

/-- Why an instruction has no meaning. -/
inductive Refusal where
  /-- The instruction is not modelled. Safe: nothing is claimed of it. -/
  | notModelled (mnemonic : String)
  deriving DecidableEq, Repr

/-! ## Reset -/

/-- A lane that has not started. -/
def LaneSt.init : LaneSt := ⟨0, 0, false, [], none, none, false, none, false, false, false⟩

/-- A disarmed stream (spec/03 R49). -/
def Strm.init : Strm := ⟨0, false, 0, 0, 0, 0, [], 0, [], 0, []⟩

/-- A context in which no parcel has been placed: every register at the value spec/03 R49 gives. -/
def Ctx.init : Ctx where
  resident := false
  retired := false
  ended := false
  x := Vector.replicate 64 0
  p := (Vector.replicate 8 false).set 0 true
  lat := Vector.replicate 4 ⟨0, false, false, none⟩
  k := LaneSt.init
  l := LaneSt.init
  cl := LaneSt.init
  sl := LaneSt.init
  n := Vector.replicate 24 0
  arrived := Vector.replicate 24 false
  sender := Vector.replicate 24 0
  tq := Vector.replicate 16 []
  taker := Vector.replicate 16 0
  strm := Vector.replicate 16 Strm.init
  readSigs := []
  sigDue := []
  am := Vector.replicate 4 0
  cvtCtl := 0xAA
  cvtSr := 0
  cvtStat := 0
  discStat := 0
  perfSel := Vector.replicate 4 0
  perfCnt := Vector.replicate 4 0
  trigCtl := 0
  frCause := 0
  frPos := 0
  frWord := 0
  frAddr := 0
  frInfo := 0
  frResume := Vector.replicate 4 0
  frScr := Vector.replicate 4 0
  resumeWritten := Vector.replicate 4 false
  heldFlts := []
  dueFlt := none
  dbgFlt := none
  dbgNext := []
  dbgCtl := 0
  dbgStat := 0
  dbgBp := Vector.replicate 4 0
  dbgSel := 0
  stopped := false
  stopSc := 0
  stepLeft := 0
  stepOld := 0
  lix := Vector.replicate 4 0
  lex := Vector.replicate 4 0
  larg := 0
  teamId := 0
  ptRoot := 0
  hdr := 0
  trapOff := 0
  nx := 64
  tickets := 16
  subsoil := 0
  pass := 0
  stack := []
  ovfBase := 0
  ovfPtr := 0
  ovfLimit := 0
  cDepth := 0
  cRes := 0
  infl := []
  copied := []
  claiming := []
  sigWait := []
  kmiss := none
  stores := []
  issuing := none
  launching := []
  monw := none
  bar := none
  yielded := none

/-- A cluster without a team. -/
def Cluster.init : Cluster where
  cmem := []
  cmemBad := []
  ec := Vector.replicate 64 0
  ecBy := Vector.replicate 64 (BitVec.ofNat 64 (15 * 2 ^ 60))
  ecAt := Vector.replicate 64 0
  ct := Vector.replicate 32 ⟨[], none⟩
  imem := []
  imemBad := []
  starts := []
  run := none
  reload := []
  kpush := []
  cmds := []
  nextCmd := 0
  entered := Vector.replicate 4 0
  heads := Vector.replicate 4 0
  knHead := 0
  bcache := []
  tlb := []
  fwdOld := 0
  fwdNew := 0
  fwdStat := 0
  wpBase := Vector.replicate 4 0
  wpCtl := Vector.replicate 4 0
  wpOvf := 0
  hits := []
  flts := []
  team := none

/-- A core without a team. -/
def CoreSt.init : CoreSt := ⟨[], [], [], Vector.replicate 4 0, []⟩

/-- A die right after reset: LQ_CFG 16 (spec/03 R53), every other register 0
(where the manual gives no value: DESIGN CHOICE, log 5). -/
def Die.init : Die where
  gtOff := 0
  q := Vector.replicate 16 ⟨16, 0, []⟩
  resumed := []
  lastSaves := []
  brBase := 0
  brLen := 0
  poolBase := 0
  poolLen := 0
  preemptCtl := 0
  saving := none
  tlbInv := 0
  tlbInvCtl := 0
  tlbCap := none
  fqBase := 0
  fqLen := 0
  fltCtl := 0
  msgs := []
  msgN := 0
  fqFull := none
  sbufCtl := 0
  sbufBase := 0
  sbufLen := 0
  sbufWr := 0
  sbufRd := 0
  sbufDrop := 0
  lastSample := 0
  recCtl := 0
  recBase := 0
  recLen := 0
  recWr := 0
  recFull := false
  trigLast := 0
  trigStat := 0
  capEnd := none
  trigIn := []
  trigSeen := []
  trigOut := []
  merrCnt := 0
  merrLast := 0
  request := none
  noPre := none
  placeSeq := 0
  placedAt := none
  took := none
  inReset := false
  inService := true
  resetAt := 0
  lost := []

/-- The mailbox right after reset: BOOT 0, the boot ROM (spec/15 R331). -/
def Svc.init : Svc := ⟨0, 0, 0, 0, 0, false, 1, 0, 0, [], [], [], [], 0, none, none, false, none⟩

/-- No slot is loaded: slots 1 to 63 are wiped (spec/15 R341), and the boot ROM loads slot 0 (R339) (slot 0 at reset:
DESIGN CHOICE, log 6). -/
def keysInit : Vector KeySlot 64 := Vector.replicate 64 ⟨none⟩

/-- The module right after reset (spec/15 R341, spec/01 R12). -/
def State.reset : State where
  turn := Turn.plain .idle
  agenda := []
  fresh := 0
  reads := []
  gt := 0
  cycle := 0
  mem := []
  tags := []
  poisoned := []
  keys := keysInit
  hbmStacks := Vector.replicate 8 .up
  ctxs := []
  cores := []
  clusters := []
  dies := Vector.replicate 4 Die.init
  launches := []
  nextLaunch := 0
  nextId := 0
  links := Vector.replicate 32 ⟨false, 4096, 0⟩
  modId := 0
  removed := []
  noRoute := []
  unreached := []
  svc := Svc.init
  flash := []
  flashBad := false
  life := .manufacture
  holdUp := false
  asked := []

end Sys2Proof.Machine
end

