-- ==== Sys2Proof/Machine/Mem.lean ====
section
/-! DEFINITION. Byte memories in canonical form: addresses strictly rising, no entry equal to what an unlisted
address reads as, which is zero (scratchpads and cluster memory read as zero at placement, spec/03 R49, spec/05
R93; for HBM a DESIGN CHOICE, log 4). -/

namespace Sys2Proof.Machine

/-- What an unlisted address reads as. -/
def unlisted : Byte := 0

/-- The byte at an address. -/
def Memory.byte : Memory → Nat → Byte
  | [], _ => unlisted
  | (k, v) :: r, a => if k = a then v else Memory.byte r a

/-- The addresses rise strictly from `lo` and no entry holds the unlisted value. -/
def Memory.wfFrom : Nat → Memory → Bool
  | _, [] => true
  | lo, (k, v) :: r => decide (lo ≤ k) && v != unlisted && Memory.wfFrom (k + 1) r

/-- The canonical form. -/
def Memory.wf (m : Memory) : Bool := Memory.wfFrom 0 m

/-- The `n` bytes from `a` of a memory that lists nothing below `a`. -/
def Memory.take : Memory → Nat → Nat → List Byte
  | _, _, 0 => []
  | [], a, n + 1 => unlisted :: Memory.take [] (a + 1) n
  | (k, v) :: r, a, n + 1 =>
    if k = a then v :: Memory.take r (a + 1) n else unlisted :: Memory.take ((k, v) :: r) (a + 1) n

/-- The `n` bytes from `a`. -/
def Memory.load (m : Memory) (a n : Nat) : List Byte := Memory.take (m.dropWhile fun e => e.1 < a) a n

/-- The cells of bytes laid down from `a`, without those that hold the unlisted value. -/
def cellsFrom : Nat → List Byte → Memory
  | _, [] => []
  | a, b :: r => if b = unlisted then cellsFrom (a + 1) r else (a, b) :: cellsFrom (a + 1) r

/-- The memory with bytes stored from `a`. -/
def Memory.store (m : Memory) (a : Nat) (bs : List Byte) : Memory :=
  m.takeWhile (fun e => e.1 < a) ++ cellsFrom a bs ++ m.dropWhile (fun e => e.1 < a + bs.length)

/-- The memory with every byte from `a` below `b` reset to the unlisted value. -/
def Memory.wipe (m : Memory) (a b : Nat) : Memory := m.filter fun e => e.1 < a || b ≤ e.1

/-- The table with `v` at every key from `lo` below `lo + n`. -/
def FMap.insertRange {α : Type} (m : FMap α) (lo n : Nat) (v : α) : FMap α :=
  m.takeWhile (fun e => e.1 < lo) ++ (List.range n).map (fun i => (lo + i, v)) ++
    m.dropWhile (fun e => e.1 < lo + n)

end Sys2Proof.Machine
end

