-- ==== Sys2Proof/Machine/Cipher.lean ====
section
/-! DEFINITION. AES-256-XTS, by which the HBM base die encrypts every HBM access (spec/05 R101). The manual names the cipher and
its tweak; the cipher itself is that of FIPS 197 and IEEE 1619 (PRESUMED, log 8). -/

namespace Sys2Proof.Machine

/-- The S-box, 16 entries a row, the first least significant. -/
def sboxRows : List Nat := [
  0x76ABD7FE2B670130C56F6BF27B777C63, 0xC072A49CAFA2D4ADF04759FA7DC982CA,
  0x1531D871F1E5A534CCF73F362693FDB7, 0x75B227EBE28012079A059618C323C704,
  0x842FE329B3D63B52A05A6E1B1A2C8309, 0xCF584C4A39BECB6A5BB1FC20ED00D153,
  0xA89F3C507F02F94585334D43FBAAEFD0, 0xD2F3FF1021DAB6BCF5389D928F40A351,
  0x73195D643D7EA7C41744975FEC130CCD, 0xDB0B5EDE14B8EE4688902A22DC4F8160,
  0x79E4959162ACD3C25C2406490A3A32E0, 0x08AE7A65EAF4566CA94ED58D6D37C8E7,
  0x8A8BBD4B1F74DDE8C6B4A61C2E2578BA, 0x9E1DC186B95735610EF6034866B53E70,
  0xDF2855CEE9871E9B948ED9691198F8E1, 0x16BB54B00F2D99416842E6BF0D89A18C]

/-- The inverse S-box. -/
def invSboxRows : List Nat := [
  0xFBD7F3819EA340BF38A53630D56A0952, 0xCBE9DEC444438E3487FF2F9B8239E37C,
  0x4EC3FA420B954CEE3D23C2A632947B54, 0x25D18B6D49A25B76B224D92866A12E08,
  0x92B6655DCC5CA4D41698688664F6F872, 0x849D8DA75746155EDAB9EDFD5048706C,
  0x0645B3B80558E4F70AD3BC8C00ABD890, 0x6B8A130103BDAFC1020F3FCA8F1E2CD0,
  0x73E6B4F0CECFF297EADC674F4111913A, 0x6EDF751CE837F9E28535ADE72274AC96,
  0x1BBE18AA0E62B76F89C5291D711AF147, 0xF45ACD78FEC0DB9A2079D2C64B3E56FC,
  0x5FEC8027591012B131C7078833A8DD1F, 0xEF9CC9939F7AE52D0D4AB519A97F5160,
  0x619953833CBBEBC8B0F52AAE4D3BE0A0, 0x7D0C2155631469E126D677BA7E042B17]

/-- The entry of an S-box for a byte. -/
def boxEntry (rows : List Nat) (b : Byte) : Byte :=
  BitVec.ofNat 8 (bits (nth rows (b.toNat / 16) 0) (8 * (b.toNat % 16)) 8)

/-- Multiplication by x in the field of 256 elements. -/
def fieldTwice (b : Byte) : Byte := if bitAt b 7 then (b <<< 1) ^^^ 0x1B else b <<< 1

/-- The product of a byte with the low `n` bits of another. -/
def fieldMul : Nat → Byte → Nat → Byte
  | 0, _, _ => 0
  | n + 1, b, m => (if m % 2 = 1 then b else 0) ^^^ fieldMul n (fieldTwice b) (m / 2)

/-- Bytes added in the field, one by one. -/
def xorBytes (a b : List Byte) : List Byte := List.zipWith (fun x y => x ^^^ y) a b

/-- The rows of a block rotate by `n` times their number. -/
def shiftRows (n : Nat) (l : List Byte) : List Byte := (List.range 16).map fun k => nth l ((k + 4 * n * (k % 4)) % 16) 0

/-- The columns of a block multiplied by the circulant matrix whose first row is `m`. -/
def mixColumns (m : List Nat) (l : List Byte) : List Byte :=
  (List.range 16).map fun k => (List.range 4).foldl
    (fun v j => v ^^^ fieldMul 4 (nth l (k / 4 * 4 + j) 0) (nth m ((j + 4 - k % 4) % 4) 0)) 0

/-- The next word of the key schedule of a 256-bit key, as four bytes. -/
def nextKeyWord (l : List (List Byte)) : List (List Byte) :=
  let i := l.length
  let last := nth l (i - 1) []
  let sub := fun w : List Byte => w.map (boxEntry sboxRows)
  let rcon : List Byte := [BitVec.ofNat 8 (2 ^ (i / 8 - 1)), 0, 0, 0]
  let t := if i % 8 = 0 then xorBytes (sub (last.drop 1 ++ last.take 1)) rcon else if i % 8 = 4 then sub last else last
  l ++ [xorBytes (nth l (i - 8) []) t]

/-- The key schedule: 60 words. -/
def keyWords (key : BitVec 256) : List (List Byte) :=
  let bs := leBytes 32 key.toNat
  (List.range 52).foldl (fun l _ => nextKeyWord l) ((List.range 8).map fun k => (bs.drop (4 * k)).take 4)

/-- The key of round `r`. -/
def roundKey (ks : List (List Byte)) (r : Nat) : List Byte := ((ks.drop (4 * r)).take 4).flatten

/-- AES-256 encrypts a block. -/
def aesEncrypt (key : BitVec 256) (b : List Byte) : List Byte :=
  let ks := keyWords key
  (List.range 14).foldl (fun l r =>
    let l := shiftRows 1 (l.map (boxEntry sboxRows))
    xorBytes (if r < 13 then mixColumns [2, 3, 1, 1] l else l) (roundKey ks (r + 1))) (xorBytes b (roundKey ks 0))

/-- AES-256 decrypts a block. -/
def aesDecrypt (key : BitVec 256) (b : List Byte) : List Byte :=
  let ks := keyWords key
  (List.range 14).foldl (fun l r =>
    let l := xorBytes ((shiftRows 3 l).map (boxEntry invSboxRows)) (roundKey ks (13 - r))
    if r < 13 then mixColumns [14, 11, 13, 9] l else l) (xorBytes b (roundKey ks 14))

/-- Multiplication by x in the field of 2^128 elements. -/
def tweakTwice (t : BitVec 128) : BitVec 128 := if bitAt t 127 then (t <<< 1) ^^^ 0x87 else t <<< 1

/-- The tweak of 16-byte unit `n` of HBM: its 4 KiB block encrypted under the key's second half, multiplied by x for each unit
before it in the block. -/
def unitTweak (key : BitVec 512) (n : Nat) : BitVec 128 :=
  let t := leNat (aesEncrypt (BitVec.ofNat 256 (key.toNat >>> 256)) (leBytes 16 (n / 256)))
  (List.range (n % 256)).foldl (fun t _ => tweakTwice t) (BitVec.ofNat 128 t)

/-- A unit as the stack holds it. -/
def xtsEncrypt (key : BitVec 512) (n : Nat) (u : BitVec 128) : BitVec 128 :=
  let t := unitTweak key n
  t ^^^ BitVec.ofNat 128 (leNat (aesEncrypt (key.truncate 256) (leBytes 16 (u ^^^ t).toNat)))

/-- The unit that an access reads of what the stack holds. -/
def xtsDecrypt (key : BitVec 512) (n : Nat) (u : BitVec 128) : BitVec 128 :=
  let t := unitTweak key n
  t ^^^ BitVec.ofNat 128 (leNat (aesDecrypt (key.truncate 256) (leBytes 16 (u ^^^ t).toNat)))

end Sys2Proof.Machine
end

