-- ==== Sys2Proof/Machine/Access.lean ====
section
/-! DEFINITION. The units of the module by number, device physical memory with its keys, translation, and the
checks that every access of memory passes (spec/05 R92-R103, spec/15 R327, spec/21 R419). -/

namespace Sys2Proof.Machine

/-! ## Units by number -/

/-- The context of a supervisor core (spec/01 R6). -/
def isSup (c : Nat) : Bool := 16384 ≤ c

/-- The core, the cluster, the die of a context (spec/01 R8); a supervisor context has only a die. -/
def coreOf (c : Nat) : Nat := c / 4
/-- The cluster of a context. -/
def clusterOf (c : Nat) : Nat := c / 256
/-- The die of a context. -/
def dieOf (c : Nat) : Nat := if isSup c then (c - 16384) / 4 % 4 else c / 4096
/-- The die of a cluster. -/
def dieOfCluster (cl : Nat) : Nat := cl / 16
/-- The parcel that a context slot holds: 64 * slot + core (spec/03 R48). -/
def parcelOf (c : Nat) : Nat := c % 4 * 64 + c / 4 % 64
/-- The context of a parcel of the team on a cluster (spec/03 R48). -/
def ctxOfParcel (cl p : Nat) : Nat := (64 * cl + p % 64) * 4 + p / 64

/-- A context. -/
def State.ctx (s : State) (c : Nat) : Ctx := FMap.find s.ctxs c Ctx.init
/-- The state with a context replaced. -/
def State.setCtx (s : State) (c : Nat) (x : Ctx) : State := { s with ctxs := FMap.insert s.ctxs c x }
/-- The state with a context changed. -/
def State.modCtx (s : State) (c : Nat) (f : Ctx → Ctx) : State := s.setCtx c (f (s.ctx c))
/-- A core. -/
def State.core (s : State) (n : Nat) : CoreSt := FMap.find s.cores n CoreSt.init
/-- The state with a core replaced. -/
def State.setCore (s : State) (n : Nat) (x : CoreSt) : State := { s with cores := FMap.insert s.cores n x }
/-- A cluster. -/
def State.cluster (s : State) (n : Nat) : Cluster := FMap.find s.clusters n Cluster.init
/-- The state with a cluster replaced. -/
def State.setCluster (s : State) (n : Nat) (x : Cluster) : State :=
  { s with clusters := FMap.insert s.clusters n x }
/-- The state with a cluster changed. -/
def State.modCluster (s : State) (n : Nat) (f : Cluster → Cluster) : State := s.setCluster n (f (s.cluster n))
/-- A die. -/
def State.die (s : State) (d : Nat) : Die := vget s.dies d Die.init
/-- The state with a die replaced. -/
def State.setDie (s : State) (d : Nat) (x : Die) : State := { s with dies := vput s.dies d x }
/-- The state with a die changed. -/
def State.modDie (s : State) (d : Nat) (f : Die → Die) : State := s.setDie d (f (s.die d))

/-- The global time that a die reads (spec/01 R12, R13). -/
def State.gtOf (s : State) (d : Nat) : Nat := s.gt + (s.die d).gtOff

/-! ## Device physical memory -/

/-- The first address above HBM (spec/05 R94, spec/15 R327). -/
def hbmEnd : Nat := 2 ^ 39

/-- The tag of data written under a key slot: its key's number + 1. An access under a slot that is not loaded faults
(spec/21 R376). -/
def keyTag (s : State) (slot : Nat) : Nat :=
  match (vget s.keys slot ⟨none⟩).key with
  | some k => k.toNat + 1
  | none => 2 ^ 512 + 1

/-- The key that a tag names, where one was loaded. -/
def keyOfTag (u : Nat) : Option (BitVec 512) := if 0 < u && u ≤ 2 ^ 512 then some (BitVec.ofNat 512 (u - 1)) else none

/-- What a read under key slot `key` makes of 16-byte unit `n` that was written under another tag: decryption under the one key
of what the other has encrypted; a free value where one of the two slots holds no key (spec/05 R101; log 8). -/
def otherKey (s : State) (key n u : Nat) (unit : BitVec 128) : BitVec 128 :=
  match keyOfTag u, (vget s.keys key ⟨none⟩).key with
  | some w, some r => xtsDecrypt r n (xtsEncrypt w n unit)
  | _, _ => Config.otherKeyUnit n u (keyTag s key) unit

/-- The byte that a read under `key` returns at a physical address (spec/05 R101, spec/15 R339). -/
def physByte (s : State) (key a : Nat) (b : Byte) : Byte :=
  if a < hbmEnd then
    let t := keyTag s key
    let u := FMap.find s.tags (a / 16) t
    if u = t then b
    else if u = 0 then Config.layoutByte a s.fresh
    else
      let unit := BitVec.ofNat 128 (leNat (s.mem.load (a / 16 * 16) 16))
      BitVec.ofNat 8 ((otherKey s key (a / 16) u unit).toNat / 2 ^ (8 * (a % 16)))
  else b

/-- Pass bytes read from `a` through the decryption of their units. -/
def physBytes (s : State) (key : Nat) : Nat → List Byte → List Byte
  | _, [] => []
  | a, b :: r => physByte s key a b :: physBytes s key (a + 1) r

/-- The `n` bytes at a physical address under a key. -/
def readPhys (s : State) (key a n : Nat) : List Byte := physBytes s key a (s.mem.load a n)

/-- The 16-byte unit at `a` was last written under this key, or never. -/
def unitOk (s : State) (key a : Nat) : Bool :=
  FMap.find s.tags (a / 16) (keyTag s key) == keyTag s key

/-- The state with bytes written at a physical address under a key. HBM is encrypted by 16-byte units: a unit
of another key that is written in part is first read under this key (spec/05 R101). A write of a whole aligned
64-byte block clears its poison mark (spec/21 R393). -/
def writePhys (s : State) (key a : Nat) (bs : List Byte) : State :=
  if a < hbmEnd then
    let e := a + bs.length
    let lo := a / 16 * 16
    let hi := (e + 15) / 16 * 16
    let pre := if unitOk s key a then [] else readPhys s key lo (a - lo)
    let post := if unitOk s key (e - 1) then [] else readPhys s key e (hi - e)
    { s with
      mem := s.mem.store (a - pre.length) (pre ++ bs ++ post)
      tags := FMap.insertRange s.tags (a / 16) (hi / 16 - a / 16) (keyTag s key)
      poisoned := s.poisoned.filter fun b => !(decide (a ≤ 64 * b) && decide (64 * b + 64 ≤ e)) }
  else { s with mem := s.mem.store a bs }

/-- A bedrock pool from the values of BRPOOL_BASE and BRPOOL_LEN: base and end (spec/04 R76). -/
def poolOf (base len : Word) : Nat × Nat :=
  let b := bits base.toNat 16 36 * 65536
  (b, b + bits len.toNat 0 20 * 2 ^ 20)

/-- The size of a bedrock region: BEDROCK and SUBSOIL of the kernel header (spec/04 R77). -/
def regionSize (bedrock subsoil : Nat) : Nat := (bedrock + 4352 * subsoil + 69632 + 4095) / 4096 * 4096

/-- The bedrock regions of the team on a cluster: base and end. They follow each other from parcel 0's (spec/04 R77). -/
def regionsOf (s : State) (e : Nat × Cluster) : Option (Nat × Nat) :=
  e.2.team.map fun t =>
    let hdr := (FMap.find s.launches t.launch ⟨0, 0, 0, 0, 0, 0, 0, 0, [], none, true⟩).hdr.toNat
    let b := (s.ctx (ctxOfParcel e.1 0)).ovfBase.toNat
    (b, b + t.size * regionSize (bits hdr 96 32) (bits hdr 24 7))

/-- The physical range meets the bedrock pool of some die as its last placement took it up, or the region of a placed
team (spec/04 R76, R79). -/
def inPool (s : State) (a n : Nat) : Bool :=
  (s.dies.toList.map (fun x => poolOf x.poolBase x.poolLen) ++ s.clusters.filterMap (regionsOf s)).any fun (b, e) =>
    decide (b < a + n) && decide (a < e)

/-- What lies at a physical address (spec/15 R327). -/
inductive Target where
  | hbm
  | host
  | peer (m : Nat)
  | reserved
  deriving DecidableEq, Repr

/-- The target of a 52-bit physical address (spec/15 R327). -/
def targetOf (a : Nat) : Target :=
  if a < 2 ^ 39 then .hbm
  else if a < 2 ^ 40 then .reserved
  else if a < 2 ^ 41 then .host
  else if a < 2 ^ 51 then .reserved
  else if a < 2 ^ 52 then .peer ((a - 2 ^ 51) / 2 ^ 39)
  else .reserved

/-! ## Faults of an access -/

/-- An access as the checks see it: the issuing context, its KIND (spec/21 R376), the bytes' alignment as log2,
the permissions it needs (spec/05 R99), whether it is an atomic, and the FR_INFO of its layout. -/
structure Acc where
  c : Nat
  kind : Nat
  align : Nat
  rd : Bool
  wr : Bool
  ex : Bool
  info : Word
  deriving DecidableEq, Repr

/-- A load, a store, a read and write, a fetch of a context. -/
def Acc.load (c kind align : Nat) (info : Word) : Acc := ⟨c, kind, align, true, false, false, info⟩
/-- A store. -/
def Acc.store (c kind align : Nat) (info : Word) : Acc := ⟨c, kind, align, false, true, false, info⟩
/-- An atomic or CAS. -/
def Acc.rmw (c align : Nat) (info : Word) : Acc := ⟨c, 2, align, true, true, false, info⟩
/-- An instruction fetch. -/
def Acc.fetch (c : Nat) : Acc := ⟨c, 3, 2, false, false, true, 0⟩

/-- The fault of an access: cause, SUB, address (spec/21 R376). -/
def Acc.flt (a : Acc) (cause sub : Nat) (addr : Word) : Flt := ⟨cause, a.kind + 16 * sub, addr, a.info⟩

/-! ## Translation -/

/-- The fields of a page-table entry (spec/05 R97). -/
structure Pte where
  raw : Nat
  deriving DecidableEq, Repr

/-- The five levels: the lowest VA bit indexed and the number of index bits (spec/05 R96). -/
def levels : List (Nat × Nat) := [(48, 4), (39, 9), (30, 9), (21, 9), (12, 9)]

/-- A pointer entry whose reserved bits are zero (spec/05 R97). -/
def pointerOk (e : Nat) : Bool := bits e 2 6 == 0 && bits e 8 4 == 0 && bits e 52 12 == 0

/-- The 16 entries of a 64 KiB page are alike but for PA, which runs in order over an aligned range (spec/05
R98). -/
def groupOk : List Nat → Nat → Bool
  | [], _ => true
  | e :: r, want => e == want && groupOk r (want + 2 ^ 12)

/-- The entries of 8 bytes each in a list of bytes. -/
def entries8 : Nat → List Byte → List Nat
  | 0, _ => []
  | n + 1, bs => leNat (bs.take 8) :: entries8 n (bs.drop 8)

/-- A leaf that obeys spec/05 R97 and R98 at a level whose lowest VA bit is `sh`; `grp` holds the 16 entries of
its 64 KiB group. -/
def leafOk (e sh : Nat) (grp : List Nat) : Bool :=
  bits e 8 4 == 0 && bits e 58 6 == 0 &&
  (if bits e 7 1 = 1 then
    sh == 12 && groupOk grp ((nth grp 0 0)) && bits (nth grp 0 0) 12 4 == 0 && bits (nth grp 0 0) 1 1 == 1 &&
      bits (nth grp 0 0) 0 1 == 1
   else bits e 12 40 % 2 ^ (sh - 12) == 0)

/-- What a walk finds. -/
inductive Walk where
  | leaf (t : TlbEnt)
  | flt (f : Flt)
  /-- The walk waits for a stack or a die to return. -/
  | wait
  deriving DecidableEq, Repr

/-- Whether an access to a physical address can be made now by the hardware: 0 yes, 1 it waits, 2 the stack is
out of service (spec/22 R406, R409). -/
def stackState (s : State) (a : Nat) : Nat :=
  let k := a / 2 ^ 36
  if (s.die (k / 2)).inReset then 1
  else match vget s.hbmStacks k .up with
    | .up => 0
    | .retraining => 1
    | .out => 2

/-- A range meets a list of marked blocks of `g` bytes. -/
def marked (l : List Nat) (g a n : Nat) : Bool :=
  l.any fun b => decide (g * b < a + n) && decide (a < g * b + g)

/-- Whether some trained link reaches a peer (spec/22 R410). -/
def reaches (s : State) (m : Nat) : Bool := s.links.toList.any fun k => k.trained && k.peer == m

/-- What the checks of a physical address and its target say of an access. -/
inductive Phys where
  | go
  /-- The access waits: for a stack, a die or a route. -/
  | wait
  | flt (f : Flt)
  deriving DecidableEq, Repr

/-- The checks of the physical address and its target (spec/21 R419, items 6 and 7; a link's and a stack's, which that rule
does not place: DEDUCED, log 53). A peer that reports an error is a choice of the turn. A faulted write that has performed at the
peer all the same (spec/22 R410) is a write of its owner, whose turn an agenda may hold. -/
def checkPhys (s : State) (a : Acc) (va : Word) (pa n key : Nat) : Phys :=
  match targetOf pa with
  | .reserved => .flt (a.flt 0x20 3 va)
  | .host => .go
  | .peer m =>
    if m = s.modId then .flt ⟨0x27, 3, va, a.info⟩
    else if s.removed.contains m then .flt ⟨0x42, 2, va, a.info⟩
    else if s.noRoute.contains m then .flt ⟨0x42, 1, va, a.info⟩
    else if !reaches s m then .wait
    else if s.turn.peerError then .flt ⟨0x27, 4, va, a.info⟩
    else .go
  | .hbm =>
    if inPool s pa n then .flt (a.flt 0x23 3 va)
    else if stackState s pa = 1 then .wait
    else if stackState s pa = 2 then .flt ⟨0x41, 2, va, a.info⟩
    else if !(vget s.keys key ⟨none⟩).loaded then .flt ⟨0x25, a.kind, va ||| wd (key * 2 ^ 58), a.info⟩
    else if (a.rd || a.ex) && marked s.poisoned 64 pa n then .flt (a.flt 0x2F 0 va)
    else .go

/-- A read of a page-table entry on behalf of an access (spec/21 R376, KIND 10). -/
def Acc.table (a : Acc) : Acc := { a with kind := 10, rd := true, wr := false, ex := false }

/-- Walk the tables from `tbl` down the levels (spec/05 R96-R98). Table reads are made under key slot 0 (PRESUMED,
log 14). `lv` counts the levels passed. -/
def walkFrom (s : State) (a : Acc) (asid va : Nat) : List (Nat × Nat) → Nat → Nat → Walk
  | [], lv, _ => .flt (a.flt 0x21 lv (wd va))
  | (sh, n) :: rest, lv, tbl =>
    let ea := tbl + 8 * bits va sh n
    match checkPhys s a.table (wd va) ea 8 0 with
    | .wait => .wait
    | .flt f => .flt f
    | .go =>
      let e := leNat (readPhys s 0 ea 8)
      if bits e 0 1 = 0 then .flt (a.flt 0x21 lv (wd va))
      else if bits e 1 1 = 0 then
        if pointerOk e && !rest.isEmpty then walkFrom s a asid va rest (lv + 1) (bits e 12 40 * 4096)
        else .flt (a.flt 0x21 lv (wd va))
      else
        let wide := bits e 7 1 = 1
        let grp := if wide then entries8 16 (readPhys s 0 (ea / 128 * 128) 128) else []
        let lg := if wide then 16 else sh
        match (if wide then checkPhys s a.table (wd va) (ea / 128 * 128) 128 0 else .go) with
        | .wait => .wait
        | .flt f => .flt f
        | .go =>
          if 2 ≤ lv && leafOk e sh grp then
            .leaf ⟨asid, va / 2 ^ lg * 2 ^ lg, lg, bits e 12 40 * 4096 / 2 ^ lg * 2 ^ lg, bits e 52 6,
              BitVec.ofNat 5 (bits e 2 5)⟩
          else .flt (a.flt 0x21 lv (wd va))

/-- The walk for a context (spec/05 R95). -/
def walk (s : State) (a : Acc) (va : Nat) : Walk :=
  let root := (s.ctx a.c).ptRoot.toNat
  walkFrom s a (bits root 0 12) va levels 0 (bits root 12 40 * 4096)

/-- A cached translation serves the address (spec/05 R102). -/
def TlbEnt.hits (t : TlbEnt) (asid va : Nat) : Bool :=
  t.asid == asid && decide (t.va ≤ va) && decide (va < t.va + 2 ^ t.lg)

/-- Add to the counters of a context that select an event (spec/14 R313). -/
def perfAdd (x : Ctx) (ev n : Nat) : Ctx :=
  if x.stopped then x
  else
    { x with perfCnt := Vector.ofFn fun i : Fin 4 =>
        let sel := (x.perfSel[i]).toNat
        if bits sel 0 8 = ev then x.perfCnt[i] + wd n else x.perfCnt[i] }

/-- The permission that the access lacks first (spec/05 R99): SUB of spec/21 R376, 0 for none. -/
def lacks (a : Acc) (perm : BitVec 5) : Nat :=
  if bitAt perm 3 && !isSup a.c then 4
  else if a.rd && !bitAt perm 0 then 1
  else if a.wr && !bitAt perm 1 then 2
  else if a.ex && !bitAt perm 2 then 3
  else 0

/-- The translation that a cache holds for an access: one whose permissions do not suffice serves no access, so that a corrected
entry takes effect without an invalidation (spec/05 R102). -/
def cachedFor (s : State) (a : Acc) (l : List TlbEnt) (va : Nat) : Option TlbEnt :=
  if isSup a.c || s.turn.tlbMiss then none
  else l.find? fun t => t.hits (bits (s.ctx a.c).ptRoot.toNat 0 12) va && lacks a t.perm == 0

/-- An access of an engine or the kiln of a cluster, which uses no core's micro-TLB (spec/05 R102, spec/21 R376). -/
def Acc.ofEngine (a : Acc) : Bool := a.kind == 6 || a.kind == 7 || a.kind == 8 || a.kind == 11

/-- The micro-TLB's entry for an access of a core. -/
def microHit (s : State) (a : Acc) (va : Nat) : Option TlbEnt :=
  if a.ofEngine then none else cachedFor s a (s.core (coreOf a.c)).tlb va

/-- The cluster TLB's entry for an access. -/
def clusterHit (s : State) (a : Acc) (va : Nat) : Option TlbEnt := cachedFor s a (s.cluster (clusterOf a.c)).tlb va

/-- Count a miss of the micro-TLB (spec/14 R313, event 8). -/
def countMiss (s : State) (a : Acc) (va : Nat) : State :=
  if isSup a.c || a.ofEngine || (microHit s a va).isSome then s else s.modCtx a.c fun x => perfAdd x 8 1

/-- Keep in the caches a translation that was not in them; `far` says that the cluster TLB held it. -/
def fillTlb (s : State) (a : Acc) (t : TlbEnt) (far : Bool) : State :=
  let co := s.core (coreOf a.c)
  let cl := s.cluster (clusterOf a.c)
  let s := if a.ofEngine then s else s.setCore (coreOf a.c) { co with tlb := (t :: co.tlb).take 32 }
  if far then s else s.setCluster (clusterOf a.c) { cl with tlb := (t :: cl.tlb).take 2048 }

/-- Translate an address, by a cache where one still holds the page, else by a walk, which fills the caches unless the entry
gives a permission fault (spec/05 R102). -/
def translate (s : State) (a : Acc) (va : Nat) : State × Walk :=
  match microHit s a va with
  | some t => (s, .leaf t)
  | none =>
    let far := clusterHit s a va
    let w := match far with
      | some t => Walk.leaf t
      | none => walk s a va
    let s := countMiss s a va
    match w with
    | .leaf t => (if isSup a.c || lacks a t.perm != 0 then s else fillTlb s a t far.isSome, w)
    | .flt _ | .wait => (s, w)

/-! ## Where an access goes -/

/-- The outcome of an access's checks. -/
inductive Resolved where
  /-- The pieces of the access, in ascending address order. -/
  | ok (s : State) (ps : List (Loc × Nat))
  /-- The fault, with the state in which the caches' misses are counted. -/
  | flt (s : State) (f : Flt)
  /-- The access waits: for a page under relocation, a stack, a die or a route. -/
  | wait
  deriving DecidableEq, Repr

/-- Put a piece in front of what the rest of the access resolves to. -/
def Resolved.cons (p : Loc × Nat) : Resolved → Resolved
  | .ok s ps => .ok s (p :: ps)
  | r => r

/-- Where the relocation of the cluster sends a global access of one of its agents (spec/05 R116): the address,
or nothing while the access waits. -/
def forward (x : Cluster) (va : Nat) : Option Nat :=
  let st := x.fwdStat.toNat
  let old := x.fwdOld.toNat
  let stride := bits st 0 32
  if bits st 63 1 = 0 || va < old || old + 2 ^ bits st 49 5 * stride ≤ va then some va
  else
    let pg := (va - old) / stride
    let moved := bits st 32 17
    if pg < moved then some (x.fwdNew.toNat + (va - old))
    else if pg = moved then none
    else some va

/-- The bytes from `va` that lie in one 4 KiB page and, in the old slab, in one slab page: at least 1. -/
def runLength (x : Cluster) (va n : Nat) : Nat :=
  let st := x.fwdStat.toNat
  let old := x.fwdOld.toNat
  let stride := bits st 0 32
  let page := 4096 - va % 4096
  let slab :=
    if bits st 63 1 = 0 || stride = 0 then n
    else if va < old then old - va
    else if va < old + 2 ^ bits st 49 5 * stride then stride - (va - old) % stride
    else n
  min n (min page slab)

/-- Resolve the global bytes from `va`, run by run in ascending order (spec/21 R419, items 4 to 7). `fuel` bounds
the number of runs. -/
def resolveGlobal (a : Acc) (routed : Bool) : Nat → State → Nat → Nat → Resolved
  | 0, s, _, _ => .ok s []
  | fuel + 1, s, va, n =>
    if n = 0 then .ok s []
    else
      let x := s.cluster (clusterOf a.c)
      let run := if isSup a.c || !routed then min n (4096 - va % 4096) else runLength x va n
      match (if isSup a.c || !routed then some va else forward x va) with
      | none => .wait
      | some va' =>
        match translate s a va' with
        | (t, .flt f) => .flt t f
        | (_, .wait) => .wait
        | (s', .leaf t) =>
          match lacks a t.perm with
          | 0 =>
            let pa := t.pa + (va' - t.va)
            let run := min run (4096 - va' % 4096)
            match checkPhys s' a (wd va') pa run t.key with
            | .wait => .wait
            | .flt f => .flt (countMiss s a va') f
            | .go => Resolved.cons (.phys pa t.key (bitAt t.perm 4), run)
              (resolveGlobal a routed fuel s' (va + run) (n - run))
          | sub => .flt s' (a.flt 0x22 sub (wd va'))

/-- Context slots that a team of `size` parcels occupies on core `k` of its cluster at placement (spec/03 R48, spec/04
R75). -/
def slotsOn (size k : Nat) : Nat := (size + 63 - k) / 64

/-- The size of the core space on a core of which a team occupies `slots` contexts (spec/04 R75). -/
def coreSpace (slots subsoil : Nat) : Nat := 524288 - slots * (4352 * subsoil)

/-- The cluster-memory bytes of a team, from its kernel header (spec/03 R40). -/
def cmemOf (s : State) (t : Team) : Nat :=
  bits (FMap.find s.launches t.launch ⟨0, 0, 0, 0, 0, 0, 0, 0, [], none, true⟩).hdr.toNat 64 25

/-- The valid bytes of cluster space and of core space for a context (spec/05 R93); a supervisor context has neither
(spec/01 R6). -/
def localSize (s : State) (c : Nat) (core : Bool) : Nat :=
  match (s.cluster (clusterOf c)).team with
  | some t =>
    if isSup c then 0 else if core then coreSpace (slotsOn t.size (coreOf c % 64)) (s.ctx c).subsoil else cmemOf s t
  | none => 0

/-- The bits of an address below its zero part (spec/05 R92). -/
def addrBits (sp : Nat) : Nat := if sp = 0 then 52 else if sp = 1 then 24 else 19

/-- The check of the address itself: its space, its zero part (spec/21 R419, item 1). -/
def spaceFault (a : Acc) (addr : Word) : Option Flt :=
  let v := addr.toNat
  let sp := bits v 62 2
  if sp = 3 then some (a.flt 0x20 1 addr)
  else if bits v (addrBits sp) (62 - addrBits sp) ≠ 0 then some (a.flt 0x20 2 addr)
  else none

/-- The check of alignment (spec/21 R419, item 2). -/
def alignFault (a : Acc) (addr : Word) : Option Flt :=
  if addr.toNat % 2 ^ a.align ≠ 0 then some (a.flt 0x24 a.align addr) else none

/-- The check of the range: of a local space its size, of the global one its end (spec/21 R419, item 3). -/
def rangeFault (s : State) (a : Acc) (addr : Word) (n : Nat) : Option Flt :=
  let v := addr.toNat
  let sp := bits v 62 2
  if sp = 0 then (if 2 ^ 52 < v + n then some (a.flt 0x20 2 addr) else none)
  else if localSize s a.c (sp == 2) < bits v 0 (addrBits sp) + n then some (a.flt 0x23 sp addr)
  else none

/-- The checks of an access before its pages: the address itself, the alignment, the range of a local space (spec/21 R419,
items 1 to 3). -/
def addrFault (s : State) (a : Acc) (addr : Word) (n : Nat) : Option Flt :=
  match spaceFault a addr with
  | some f => some f
  | none => match alignFault a addr with
    | some f => some f
    | none => rangeFault s a addr n

/-- Resolve `n` bytes at an address of spec/05 R92, in the order of spec/21 R419. `routed` is false only for a
relocation's own copy (spec/05 R116). -/
def resolveBy (routed : Bool) (s : State) (a : Acc) (addr : Word) (n : Nat) : Resolved :=
  let v := addr.toNat
  let cl := clusterOf a.c
  match addrFault s a addr n with
  | some f => .flt s f
  | none =>
    match bits v 62 2 with
    | 0 => resolveGlobal a routed (2 * n + 2) s v n
    | 1 =>
      let off := bits v 0 24
      if (a.rd || a.ex) && marked (s.cluster cl).cmemBad 8 off n then .flt s (a.flt 0x2F 3 addr)
      else .ok s [(.cl cl off, n)]
    | _ =>
      let off := bits v 0 19
      if (a.rd || a.ex) && marked (s.core (coreOf a.c)).scratchBad 8 off n then .flt s (a.flt 0x2F 2 addr)
      else .ok s [(.co (coreOf a.c) off, n)]

/-- Resolve an access of any agent but a relocation. -/
def resolve (s : State) (a : Acc) (addr : Word) (n : Nat) : Resolved := resolveBy true s a addr n

/-! ## Performing an access -/

/-- The bytes of one piece. -/
def readPiece (s : State) : Loc × Nat → List Byte
  | (.phys a key _, n) => readPhys s key a n
  | (.cl k off, n) => (s.cluster k).cmem.load off n
  | (.co k off, n) => (s.core k).scratch.load off n

/-- The bytes of an access. -/
def readPieces (s : State) : List (Loc × Nat) → List Byte
  | [] => []
  | p :: r => readPiece s p ++ readPieces s r

/-- Clear the marks of the 8-byte words that a write covers whole (spec/21 R393). -/
def clearMarks (l : List Nat) (g a n : Nat) : List Nat :=
  l.filter fun b => !(decide (a ≤ g * b) && decide (g * b + g ≤ a + n))

/-- Write bytes to one place. -/
def writePiece (s : State) (l : Loc) (bs : List Byte) : State :=
  match l with
  | .phys a key _ => writePhys s key a bs
  | .cl k off =>
    s.modCluster k fun x =>
      { x with cmem := x.cmem.store off bs, cmemBad := clearMarks x.cmemBad 8 off bs.length }
  | .co k off =>
    let x := s.core k
    s.setCore k { x with scratch := x.scratch.store off bs, scratchBad := clearMarks x.scratchBad 8 off bs.length }

/-- The 64-byte block that holds a place: space, unit, block number (spec/09 R206). -/
def Loc.block : Loc → Nat × Nat × Nat
  | .phys a _ _ => (0, 0, a / 64)
  | .cl k off => (1, k, off / 64)
  | .co k off => (2, k, off / 64)

/-- A write of `n` bytes at `l` reaches the block that a MONW watches (spec/09 R206). -/
def reachesBlock (m : Monw) (l : Loc) (n : Nat) : Bool :=
  let (sp, u, b) := l.block
  let last := match l with
    | .phys a _ _ => (a + n - 1) / 64
    | .cl _ off | .co _ off => (off + n - 1) / 64
  m.space == sp && m.unit == u && decide (b ≤ m.block) && decide (m.block ≤ last)

/-- Wake the MONWs that watch a block that `who` writes. -/
def wakeMonw (s : State) (l : Loc) (n : Nat) (who : Word) : State :=
  { s with ctxs := s.ctxs.map fun (k, x) =>
      (k, match x.monw with
        | some m => if reachesBlock m l n then { x with monw := some { m with woken := some who } } else x
        | none => x) }

/-- Write the bytes of an access piece by piece; `who` is the writer's position. -/
def writePieces (s : State) (who : Word) : List (Loc × Nat) → List Byte → State
  | [], _ => s
  | (l, n) :: r, bs => writePieces (wakeMonw (writePiece s l (bs.take n)) l n who) who r (bs.drop n)

/-- Some byte among the `n` global bytes from `va` lies on a device-type page, as far as the pages are mapped (spec/05 R100,
R108). -/
def touchesDevice (a : Acc) : Nat → State → Nat → Nat → Bool
  | 0, _, _, _ => false
  | fuel + 1, s, va, n =>
    if n = 0 || 2 ^ 52 ≤ va then false
    else
      let x := s.cluster (clusterOf a.c)
      let run := if isSup a.c then min n (4096 - va % 4096) else runLength x va n
      match (if isSup a.c then some va else forward x va) with
      | none => touchesDevice a fuel s (va + run) (n - run)
      | some va' =>
        let run := min run (4096 - va' % 4096)
        (match translate s a va' with
          | (_, .leaf t) => bitAt t.perm 4
          | (_, .flt _) | (_, .wait) => false) ||
        touchesDevice a fuel s (va + run) (n - run)

/-- Some byte of the access lies on a device-type page (spec/05 R100). -/
def anyDevice (ps : List (Loc × Nat)) : Bool :=
  ps.any fun (l, _) => match l with
    | .phys _ _ d => d
    | _ => false

/-! ## Fetching -/

/-- What a fetch gives. -/
inductive Fetched where
  | word (s : State) (w : Nat)
  | flt (s : State) (f : Flt)
  | wait
  deriving DecidableEq, Repr

/-- Fetch the instruction word at an address (spec/08 R153, spec/06 R129). -/
def fetchWord (s : State) (c : Nat) (pc : Word) : Fetched :=
  match resolve s (Acc.fetch c) pc 4 with
  | .ok s ps => .word s (leNat (readPieces s ps))
  | .flt s f => .flt s f
  | .wait => .wait

end Sys2Proof.Machine
end

