-- ==== Sys2Proof/Machine/Fatal.lean ====
section
/-! DEFINITION. The checksums of the journal, the flash, and the fatal error of the module (spec/22 R411-R414). -/

namespace Sys2Proof.Machine

/-! ## Checksums -/

/-- One bit of the reflected CRC-32 of IEEE 802.3. -/
def crc32Bit (c : BitVec 32) : BitVec 32 := if bitAt c 0 then (c >>> 1) ^^^ 0xEDB88320 else c >>> 1

/-- `n` steps of `f`. -/
def iter {α : Type} (f : α → α) : Nat → α → α
  | 0, a => a
  | n + 1, a => iter f n (f a)

/-- The CRC-32 of IEEE 802.3 of a list of bytes. -/
def crc32 (bs : List Byte) : BitVec 32 :=
  ~~~ (bs.foldl (fun c b => iter crc32Bit 8 (c ^^^ b.zeroExtend 32)) 0xFFFFFFFF)

/-- One bit of the CRC-64 of spec/14 R323, most significant bit first. -/
def crc64Bit (c : BitVec 64) : BitVec 64 := if bitAt c 63 then (c <<< 1) ^^^ 0x42F0E1EBA9EA3693 else c <<< 1

/-- The CRC-64 of spec/14 R323 continued over bytes. -/
def crc64 (c : BitVec 64) (bs : List Byte) : BitVec 64 :=
  bs.foldl (fun c b => iter crc64Bit 8 (c ^^^ BitVec.ofNat 64 (b.toNat * 2 ^ 56))) c

/-! ## Flash -/

/-- The flash holds the complement of each byte, so that an unlisted address reads as erased, 0xFF (DESIGN CHOICE,
log 5). -/
def flashRead (s : State) (a n : Nat) : List Byte := (s.flash.load a n).map fun b => ~~~ b

/-- The state with bytes written to the flash. -/
def flashWrite (s : State) (a : Nat) (bs : List Byte) : State :=
  { s with flash := s.flash.store a (bs.map fun b => ~~~ b) }

/-- Where the journal region of the flash begins (spec/15 R342, spec/22 R411). -/
def journalBase : Nat := 32 * 2 ^ 20

/-- One entry of the journal log (spec/22 R411). -/
def logEntry (r : BitVec 512) (state : Nat) : List Byte :=
  let body := leBytes 64 r.toNat ++ leBytes 8 (state % 256) ++ List.replicate 52 (0 : Byte)
  body ++ leBytes 4 (crc32 body).toNat

/-- Write log entries from entry `k` on. -/
def writeLog (s : State) : Nat → List JRec → State
  | _, [] => s
  | k, r :: rest => writeLog (flashWrite s (journalBase + 128 * k) (logEntry r.rec_ r.state)) (k + 1) rest

/-- The journal region of the flash is erased (spec/22 R411, R412). -/
def eraseLog (s : State) : State := { s with flash := s.flash.wipe journalBase (journalBase + 32 * 2 ^ 20) }

/-- Insert a record in SEQ order. -/
def bySeq (r : JRec) : List JRec → List JRec
  | [] => [r]
  | e :: l => if r.seq < e.seq then r :: e :: l else e :: bySeq r l

/-- Accepted records that are not COMPLETED or FAILED, in SEQ order: those of the mirror, and those of the log of an earlier
power loss that have not been treated (spec/22 R411, R412). -/
def openRecords (s : State) : List JRec :=
  let old := s.svc.logged.filterMap fun r =>
    let n := bits r.1.toNat 0 64
    if s.svc.mirror.any fun e => e.seq == n then none else some ⟨n, r.1, r.2, none⟩
  (s.svc.mirror.filter fun r => r.state == 1 || r.state == 5).foldl (fun l r => bySeq r l) old

/-- Commit the journal to flash whole (spec/22 R411, R414). -/
def commitJournal (s : State) : State := writeLog (eraseLog s) 0 (openRecords s)

/-! ## Wiping and the fatal error -/

/-- Unload slots 1 to 63 (spec/15 R341). -/
def wipeKeys (ks : Vector KeySlot 64) : Vector KeySlot 64 := (Vector.replicate 64 ⟨none⟩).set 0 (ks[0])

/-- Wipe HBM, every SRAM and key slots 1 to 63 (spec/15 R341). -/
def wipeAll (s : State) : State :=
  { s with
    mem := s.mem.wipe 0 hbmEnd
    tags := []
    poisoned := []
    ctxs := []
    cores := []
    clusters := []
    keys := wipeKeys s.keys }

/-- The fatal error of a code (spec/22 R414): every die stops, the journal is committed, BOOT is 3 and BERR the
code, the memories and keys are wiped, and with them the journal mirror. -/
def fatal (s : State) (code : Nat) : State :=
  let s := wipeAll (commitJournal s)
  { s with svc := { s.svc with boot := 3, berr := code, mirror := [], logged := [], commit := [] } }

end Sys2Proof.Machine
end

