-- ==== Sys2Proof/Machine/Trace.lean ====
section
/-! DEFINITION. Positions (spec/14 R304), records (R314, R315), waits (R311), recording and replay (R321-R324),
stops (R307), fault messages (spec/20 R359) and barriers (spec/03 R60, spec/20 R370). -/

namespace Sys2Proof.Machine

/-- What a meaning answers. -/
abbrev Out3 := Host.Outcome State Fault Refusal

/-! ## Positions -/

/-- A position as POS (spec/14 R304). -/
def mkPos (unit die cluster core ctx head : Nat) : Word :=
  wd (unit * 2 ^ 60 + die * 2 ^ 58 + cluster * 2 ^ 54 + core * 2 ^ 48 + ctx * 2 ^ 46 + head % 2 ^ 46)

/-- UNIT 15: outside the device, or none (spec/14 R304). -/
def noPos : Word := wd (15 * 2 ^ 60)

/-- The lane of a context. -/
def Ctx.lane (x : Ctx) : Lane → LaneSt
  | .k => x.k
  | .l => x.l
  | .c => x.cl
  | .s => x.sl

/-- The context with a lane replaced. -/
def Ctx.setLane (x : Ctx) (ln : Lane) (y : LaneSt) : Ctx :=
  match ln with
  | .k => { x with k := y }
  | .l => { x with l := y }
  | .c => { x with cl := y }
  | .s => { x with sl := y }

/-- The position of a lane's next instruction (spec/14 R304); a supervisor lane is UNIT 13. -/
def posOf (s : State) (c : Nat) (ln : Lane) : Word :=
  let h := ((s.ctx c).lane ln).head.toNat
  if isSup c then mkPos 13 (dieOf c) 0 (c % 4) 0 h
  else mkPos ln.num (dieOf c) (clusterOf c % 16) (coreOf c % 64) (c % 4) h

/-- The position of a lane's next instruction to issue: in the compute lane it stands behind the dispatched ones. -/
def posNext (s : State) (c : Nat) (ln : Lane) : Word :=
  if ln = .c then posOf s c ln + wd (s.ctx c).infl.length else posOf s c ln

/-- The position of an entry of a cluster engine: UNIT 8 CE, 9 KN, 10 SV, 11 PF, 12 DC. -/
def posEng (cl unit no : Nat) : Word := mkPos unit (dieOfCluster cl) (cl % 16) 0 0 no

/-- The UNIT of a cluster engine. -/
def Eng.unit : Eng → Nat
  | .ce => 8
  | .sv => 10
  | .pf => 11
  | .dc => 12

/-- The index of an engine among the counters of a cluster. -/
def Eng.idx : Eng → Nat
  | .ce => 0
  | .sv => 1
  | .pf => 2
  | .dc => 3

/-- Positions are compared by UNIT, CORE, CTX and HEAD (spec/14 R324). -/
def posKey (p : Word) : Nat × Nat × Nat × Nat :=
  (bits p.toNat 60 4, bits p.toNat 48 6, bits p.toNat 46 2, bits p.toNat 0 46)

/-! ## The sample ring -/

/-- A record's header (spec/14 R315). -/
def recHeader (s : State) (d units typ : Nat) : Word :=
  wd (1 + (units - 1) * 2 + typ * 2 ^ 4 + s.gtOf d % 2 ^ 48 * 2 ^ 16)

/-- Saturating addition of 1 in a field of `n` bits at `lo`. -/
def satInc {w : Nat} (v : BitVec w) (lo n : Nat) : BitVec w :=
  let f := bits v.toNat lo n
  if f + 1 < 2 ^ n then putField v lo n (f + 1) else v

/-- Write a record of `units` units to a die's sample ring; `body` follows the header (spec/14 R314, spec/22
R401). -/
def ringWrite (s : State) (d units typ : Nat) (body : List Byte) : State :=
  let x := s.die d
  let open_ := match x.capEnd with
    | some g => decide (s.gtOf d ≤ g)
    | none => true
  if bits x.sbufCtl.toNat 0 1 = 0 || !open_ then s
  else
    let wr := x.sbufWr.toNat
    let len := x.sbufLen.toNat
    let pad := if len < wr + 32 * units then (len - wr) / 32 else 0
    if len < 64 || len - 32 < (wr + len - x.sbufRd.toNat) % len + 32 * (units + pad) then
      let first := bits x.sbufDrop.toNat 0 32 = 0
      let y := satInc x.sbufDrop 0 32
      s.setDie d { x with sbufDrop := if first then putField y 32 32 (s.gtOf d) else y }
    else
      let base := bits x.sbufBase.toNat 12 40 * 4096
      let key := bits x.sbufBase.toNat 0 6
      let s := if pad = 0 then s else
        writePhys s key (base + wr) (leBytes 8 (recHeader s d pad 0).toNat ++ List.replicate (32 * pad - 8) (0 : Byte))
      let at_ := if pad = 0 then wr else 0
      let bytes := (leBytes 8 (recHeader s d units typ).toNat ++ body ++ List.replicate (32 * units) (0 : Byte)).take
        (32 * units)
      let s := writePhys s key (base + at_) bytes
      s.modDie d fun x => { x with sbufWr := BitVec.ofNat 32 ((at_ + 32 * units) % len) }

/-- A wait record (spec/14 R312). -/
def waitRecord (s : State) (d : Nat) (waiter setter : Word) (w : Wait) (value : Word) (done : Bool) : State :=
  let cyc := min (s.cycle - w.since) (2 ^ 32 - 1)
  let q := cyc + w.kind * 2 ^ 32 + (if done then 2 ^ 36 else 0) + w.obj % 256 * 2 ^ 40
  ringWrite s d 2 1 (leBytes 8 waiter.toNat ++ leBytes 8 setter.toNat ++ leBytes 8 q ++ leBytes 8 0 ++
    leBytes 8 w.addr.toNat ++ leBytes 8 value.toNat ++ leBytes 8 (if w.kind = 8 then 0 else w.amount))

/-- A wait has lasted long enough to be recorded (spec/14 R311). -/
def waitCounts (s : State) (d : Nat) (w : Wait) : Bool :=
  let ctl := (s.die d).sbufCtl.toNat
  w.logged && bits ctl 1 1 == 1 && decide (2 ^ bits ctl 3 5 ≤ s.cycle - w.since)

/-- Log the end of a wait, or that a fault has cut it off with `done` false (spec/14 R311). -/
def logWait (s : State) (d : Nat) (waiter setter : Word) (o : Option Wait) (value : Word) (done : Bool) : State :=
  match o with
  | none => s
  | some w => if waitCounts s d w then waitRecord s d waiter setter w value done else s

/-- Log a wait that a stop finds in progress, however long it has lasted (spec/14 R311, spec/20 R369). -/
def logStands (s : State) (d : Nat) (waiter : Word) (o : Option Wait) (value : Word) : State :=
  match o with
  | none => s
  | some w => if w.logged && bits (s.die d).sbufCtl.toNat 1 1 == 1 then waitRecord s d waiter noPos w value false else s

/-! ## Stops -/

/-- The wait record of a SIG of the compute lane that has found no room (spec/14 R312, KIND 7). -/
def sigPushWait (w : SigPush) : Wait := ⟨7, w.q, w.n, 0, w.since, w.sig⟩

/-- The contexts of the team on a cluster that hold a parcel of it. -/
def teamCtxs (s : State) (cl : Nat) : List Nat :=
  (FMap.keys s.ctxs).filter fun c => !isSup c && clusterOf c == cl && (s.ctx c).resident

/-- The clusters on which teams of a launch run. -/
def launchClusters (s : State) (n : Nat) : List Nat :=
  (FMap.keys s.clusters).filter fun cl => match (s.cluster cl).team with
    | some t => t.launch == n
    | none => false

/-- The contexts in the DBG_CTL scope of a context (spec/14 R308). -/
def scopeOf (s : State) (c scope : Nat) : List Nat :=
  if isSup c then [c]
  else match scope, (s.cluster (clusterOf c)).team with
    | 1, _ => teamCtxs s (clusterOf c)
    | 2, some t => ((launchClusters s t.launch).map fun cl => teamCtxs s cl).flatten
    | _, _ => [c]

/-- The input wait of an engine command or a kiln start (spec/14 R312, KIND 5). -/
def inputWait (q since : Nat) : Wait := ⟨5, q, 1, 0, since, true⟩

/-- The engine input waits and the XWAIT of a context that stand at a stop (spec/14 R311). -/
def engineWaits (x : Cluster) (cl c : Nat) : List (Word × Wait) :=
  (x.cmds.filterMap fun k => match k.tws with
    | q :: _ => if k.c = c && k.phase == .queued then some (posEng cl k.eng.unit k.no, inputWait q k.since) else none
    | [] => none) ++
  (x.starts.filterMap fun k =>
    if k.c = c && k.tw != 15 then some (posEng cl 9 x.knHead, inputWait k.tw k.since) else none) ++
  (match x.run with
    | some r => match r.wait with
      | some w => if r.c = c then [(posEng cl 9 x.knHead, w)] else []
      | none => []
    | none => [])

/-- The value that a standing wait of a lane shows: a MONW's last one read (spec/14 R312). -/
def standingValue (x : Ctx) (ln : Lane) : Word := if ln = .k then (x.monw.map (·.val)).getD 0 else 0

/-- Log the waits of a context that stand at a stop: its lanes', its pushes', its commands' and its kiln program's (spec/14
R311). -/
def logStanding (s : State) (c : Nat) : State :=
  let s := [Lane.k, .l, .c, .s].foldl
    (fun s ln =>
      let y := (s.ctx c).lane ln
      let v := standingValue (s.ctx c) ln
      logStands (logStands s (dieOf c) (posNext s c ln) y.tokWait v) (dieOf c) (posNext s c ln) y.wait v) s
  let s := (s.ctx c).sigWait.foldl (fun s w => logStands s (dieOf c) w.who (some (sigPushWait w)) 0) s
  if isSup c then s
  else (engineWaits (s.cluster (clusterOf c)) (clusterOf c) c).foldl
    (fun s w => logStands s (dieOf c) w.1 (some w.2) 0) s

/-- The lowest link of `l` to each peer that none of `seen` names. -/
def linksTo (s : State) (trained : Bool) (seen : List (Nat × Nat)) : List (Nat × Nat) :=
  (List.range 32).foldl (fun l k =>
    let y := vget s.links k ⟨false, 4096, 0⟩
    if y.trained != trained || 4096 ≤ y.peer || l.any (fun e => e.2 == y.peer) then l else l ++ [(k, y.peer)]) seen

/-- The peers, each with the lowest trained link that reaches it, or where none does the lowest that did (spec/14 R316,
spec/22 R405). -/
def peerLinks (s : State) : List (Nat × Nat) := linksTo s false (linksTo s true [])

/-- A peer acknowledges a trigger: a trained link reaches it, its switch has not removed it, and it accepts triggers (spec/22
R405, R410). -/
def acknowledges (s : State) (m : Nat) : Bool := reaches s m && !s.removed.contains m && Config.peerTriggers m

/-- Send a trigger of a context to every die in service and, with REACH, to every peer (spec/14 R316, spec/22
R405). A trigger that a peer must acknowledge is noted on the firing die. -/
def sendTrigger (s : State) (c : Nat) : State :=
  let ctl := (s.ctx c).trigCtl.toNat
  let d := dieOf c
  let org := s.gtOf d
  let s := { s with dies := s.dies.map fun x =>
    if x.inReset || !x.inService then x
    else { x with trigIn := x.trigIn ++ [(posOf s c .k, org, bits ctl 4 8)] } }
  if bits ctl 1 1 = 1 then
    s.modDie d fun x => { x with trigOut := x.trigOut ++ (peerLinks s).map fun e => (e.1, e.2, org, acknowledges s e.2) }
  else s

/-- A stopped context is stepping: REASON reads 0 until the step ends (spec/14 R308, R310). -/
def stepping (x : Ctx) : Bool := x.stopped && bits x.dbgStat.toNat 0 4 == 0

/-- The stepped lane of a stopped context may issue (spec/14 R310). -/
def steps (x : Ctx) (ln : Lane) : Bool :=
  x.stopped && ln.num == bits x.dbgCtl.toNat 20 2 &&
    (if ln = .c then decide (x.infl.length < x.stepLeft + x.stepOld) else decide (0 < x.stepLeft))

/-- Stop one context with a REASON (spec/14 R308), a stepping one included; FORMING reads 1 until STOP_FORMED, and ONSTOP
fires a trigger (R316). The stop keeps its scope (spec/18 R346). -/
def stopCtx (s : State) (c scope reason code : Nat) : State :=
  if (s.ctx c).stopped && !stepping (s.ctx c) then s
  else
    let s := logStanding s c
    let s := s.modCtx c fun x =>
      { x with
        stopped := true, stopSc := scope, stepLeft := 0, stepOld := 0, dbgStat := wd (reason + 2 ^ 6 + code % 256 * 2 ^ 8) }
    if bitAt (s.ctx c).trigCtl 2 then sendTrigger s c else s

/-- Stop the DBG_CTL scope of a context: that context with `reason`, the others with REASON 8 (spec/14 R307). -/
def stopScope (s : State) (c reason code : Nat) : State :=
  let scope := bits (s.ctx c).dbgCtl.toNat 16 2
  let s := stopCtx s c scope reason code
  (scopeOf s c scope).foldl (fun s k => if k = c then s else stopCtx s k scope 8 0) s

/-! ## Recording and replay -/

/-- The recording state of the team that runs a context. -/
def recOf (s : State) (cl : Nat) : Option RecSt :=
  match (s.cluster cl).team with
  | some t => t.recd
  | none => none

/-- The state with the recording state of a cluster's team replaced. -/
def setRec (s : State) (cl : Nat) (r : Option RecSt) : State :=
  s.modCluster cl fun x => { x with team := x.team.map fun t => { t with recd := r } }

/-- The last 56 bytes of a sync record (spec/14 R322). -/
def syncBody (team : Nat) (r : SyncRec) : List Byte :=
  leBytes 8 r.pos.toNat ++ leBytes 8 r.partner.toNat ++ leBytes 8 (team % 2 ^ 24 + r.kind * 2 ^ 24) ++ leBytes 8 0 ++
    leBytes 8 r.seq ++ leBytes 8 r.value.toNat ++ leBytes 8 0

/-- A position with DIE and CLUSTER zero (spec/14 R323). -/
def blindPos (p : Word) : Word := putField p 54 6 0

/-- The bytes of a sync record over which the interval hash runs: GT, DIE and CLUSTER zero (spec/14 R323). -/
def hashBytes (team : Nat) (r : SyncRec) : List Byte :=
  leBytes 8 (1 + 2 + 5 * 16) ++ syncBody team { r with pos := blindPos r.pos, partner := blindPos r.partner }

/-- Append a record of `units` units to a die's recording region; nothing where it would pass REC_LEN (spec/14
R320, spec/22 R400). -/
def regionWrite (s : State) (d units typ : Nat) (body : List Byte) : Option State :=
  let x := s.die d
  let wr := x.recWr.toNat
  if x.recFull || x.recLen.toNat < wr + 32 * units then none
  else
    let bytes := (leBytes 8 (recHeader s d units typ).toNat ++ body ++ List.replicate (32 * units) (0 : Byte)).take
      (32 * units)
    let s := writePhys s (bits x.recBase.toNat 0 6) (bits x.recBase.toNat 12 40 * 4096 + wr) bytes
    some (s.modDie d fun x => { x with recWr := BitVec.ofNat 32 (wr + 32 * units) })

/-- Whether a queue has reached a recorded partner position: its head is past it, or, for the last arriver of a
barrier, at it (spec/14 R324). -/
def partnerReached (s : State) (cl kind : Nat) (p : Word) : Bool :=
  let u := bits p.toNat 60 4
  let h := bits p.toNat 0 46
  let c := (64 * cl + bits p.toNat 48 6) * 4 + bits p.toNat 46 2
  let x := s.cluster cl
  match u with
  | 0 => decide (h < (s.ctx c).k.head.toNat + (if kind = 3 then 1 else 0)) || (s.ctx c).retired
  | 1 => decide (h < (s.ctx c).l.head.toNat)
  | 2 => decide (h < (s.ctx c).cl.head.toNat)
  | 3 => decide (h < (s.ctx c).sl.head.toNat)
  | 8 => decide (h < vget x.heads 0 0) || x.cmds.any fun k => k.no == h && k.eng == .ce && k.phase == .done
  | 9 => decide (h < x.knHead)
  | 10 => decide (h < vget x.heads 1 0) || x.cmds.any fun k => k.no == h && k.eng == .sv && k.phase == .done
  | 11 => decide (h < vget x.heads 2 0) || x.cmds.any fun k => k.no == h && k.eng == .pf && k.phase == .done
  | 12 => decide (h < vget x.heads 3 0) || x.cmds.any fun k => k.no == h && k.eng == .dc && k.phase == .done
  | _ => true

/-- What replay says of an event that a queue is about to make (spec/14 R324, spec/22 R398). -/
inductive Gate where
  /-- Make the event; a KIND 6 read returns the recorded value where there is one. -/
  | go (value : Option Word)
  | hold
  | diverge (detail : Nat) (seq : Nat) (value : Word)
  deriving DecidableEq, Repr

/-- The queue of a position: all but its head (spec/14 R303). -/
def sameQueue (p q : Word) : Bool :=
  let a := posKey p
  let b := posKey q
  a.1 == b.1 && a.2.1 == b.2.1 && a.2.2.1 == b.2.2.1

/-- Whether an event may be made now. A recorded partner of another team, at a die or device barrier, is waited for by the
barrier itself (DEDUCED, log 30). `partner` is the partner it would have, UNIT 15 where there is none or it is
not known before the event. -/
def recGate (s : State) (cl : Nat) (pos partner : Word) (kind : Nat) : Gate :=
  match recOf s cl with
  | none => .go none
  | some r =>
    if r.mode ≠ 2 then .go none
    else if r.diverged then .hold
    else match r.events.find? fun e => sameQueue e.pos pos with
      | none => .diverge 5 r.seq 0
      | some e =>
        if e.kind ≠ kind then .diverge 1 e.seq e.value
        else if posKey e.pos ≠ posKey pos then .diverge 2 e.seq e.value
        else if r.seq < e.seq then .hold
        else if kind < 4 && bits e.partner.toNat 54 6 == bits e.pos.toNat 54 6 && !partnerReached s cl kind e.partner then
          .hold
        else if kind < 4 && posKey partner ≠ posKey e.partner then .diverge 3 e.seq e.value
        else .go (if kind = 6 then some e.value else none)

/-! ## Fault messages and holding a team -/

/-- Queue a message on a die's fault ring (spec/20 R359). -/
def pushMsg (s : State) (d : Nat) (m : FltMsg) : State := s.modDie d fun x => { x with msgs := x.msgs ++ [m] }

/-- TEAM_ID of a team (spec/03 R46). -/
def teamIdOf (t : Team) : Word := wd (t.home * 2 ^ 24 + t.t % 2 ^ 24)

/-- A launch of the table; an absent one reads as nothing. -/
def State.launch (s : State) (n : Nat) : Launch :=
  FMap.find s.launches n ⟨0, 0, 0, 0, 0, 0, 0, 0, [], none, true⟩

/-- The state with a launch changed. -/
def State.modLaunch (s : State) (n : Nat) (f : Launch → Launch) : State :=
  { s with launches := FMap.insert s.launches n (f (s.launch n)) }

/-- The context is in handler state (spec/20 R352). -/
def inHandler (x : Ctx) : Bool := bitAt x.frCause 18

/-- A lane's resume point: its next instruction, or the address of its PARK with bit 0 set, also where what the lane issued
before has still to complete (spec/20 R353). -/
def resumeOf (y : LaneSt) : Word := if y.parked || y.parking then y.pc ||| 1 else y.pc

/-- Set every resume point of a context from its lanes. -/
def setResumes (x : Ctx) : Ctx :=
  { x with
    frResume := #v[resumeOf x.k, resumeOf x.l, resumeOf x.cl, resumeOf x.sl]
    resumeWritten := Vector.replicate 4 false }

/-- A command that K was issuing has not issued: it retires what it has posted, and captures again when it is reissued (spec/10
R234; DEDUCED, log 38). -/
def dropIssue (s : State) (c : Nat) : State :=
  match (s.ctx c).issuing with
  | none => s
  | some j =>
    let n := match j.found with
      | some (_, n) => if j.posted then n else 0
      | none => 0
    (s.modCluster (clusterOf c) fun x =>
      { x with ec := vput x.ec j.ec (BitVec.ofNat 32 ((vget x.ec j.ec 0).toNat - n)) }).modCtx c fun x => { x with issuing := none }

/-- Hold a team at a cause: it stops as a stop of team scope does, and the resume points of its contexts that are not in
handler state are set from the cut (spec/20 R361; DEDUCED, log 21). -/
def holdTeam (s : State) (cl cause : Nat) : State :=
  let s := (teamCtxs s cl).foldl (fun s c =>
    (dropIssue (logStanding s c) c).modCtx c fun x => if inHandler x then x else setResumes x) s
  s.modCluster cl fun x => { x with team := x.team.map fun t => { t with held := some cause } }

/-- The message that carries a context's record (spec/20 R360). -/
def msgOf (s : State) (c : Nat) : FltMsg :=
  let x := s.ctx c
  let tm := (s.cluster (clusterOf c)).team
  let clu := if isSup c then 0xFF else clusterOf c
  ⟨x.frCause, x.frPos, x.frWord, x.frAddr, x.frInfo, (tm.map teamIdOf).getD 0,
    putField (putField x.hdr 52 12 0) 52 8 clu⟩

/-- FR_CAUSE of a fault (spec/20 R356). -/
def causeWord (f : Flt) (lane : Nat) (precise deferred handler pending engine : Bool) : Word :=
  wd (f.cause % 256 + f.detail % 256 * 2 ^ 8 + (if precise then 2 ^ 16 else 0) + (if deferred then 2 ^ 17 else 0) +
    (if handler then 2 ^ 18 else 0) + (if pending then 2 ^ 19 else 0) + lane % 4 * 2 ^ 20 +
    (if engine then 2 ^ 22 else 0))

/-- Write a supervisor-level fault into the record of one context (spec/20 R355). -/
def recordTeam (lane : Nat) (s : State) (r : TeamRec) : State :=
  s.modCtx r.c fun x =>
    { setResumes x with
      frCause := causeWord r.flt lane false false (inHandler x) (!x.heldFlts.isEmpty) r.engine
      frPos := r.pos, frWord := r.word, frAddr := r.flt.addr, frInfo := r.flt.info }

/-- The context whose record the message of a supervisor-level fault carries: that of the fault, or for a barrier mismatch
the lowest-numbered parcel's (spec/20 R359, R370). -/
def carrier (s : State) (c : Nat) (f : Flt) : Nat :=
  if f.cause ≠ 0x0D then c
  else (((List.range 256).map (ctxOfParcel (clusterOf c))).find? fun k =>
    (s.ctx k).resident && !(s.ctx k).retired && bits (s.ctx k).frCause.toNat 0 8 == 0x0D).getD c

/-- A recorded supervisor-level fault goes to the supervisor: its message, and the hold (spec/20 R351, R359, R361). -/
def superviseFault (s : State) (c : Nat) (f : Flt) : State :=
  holdTeam (pushMsg s (dieOf c) (msgOf s (carrier s c f))) (clusterOf c) f.cause

/-- A debugger that is armed for faults stops the scope of a context before a recorded fault goes on (spec/20 R351). -/
def stopsFaults (x : Ctx) : Bool := bitAt x.dbgCtl 0 && bitAt x.dbgCtl 8

/-- A supervisor-level fault of a team is recorded, and taken by the debugger of one of the contexts that record it, or goes to the
supervisor. Where one of them holds a fault that a debugger stop has recorded and not yet passed on, it waits behind that one
(spec/20 R351). -/
def takeTeamFault (s : State) (t : TeamFlt) : State :=
  let cs := t.recs.map (·.c)
  match cs.find? fun k => (s.ctx k).dbgFlt.isSome with
  | some k => s.modCtx k fun x => { x with dbgNext := x.dbgNext ++ [t] }
  | none =>
    let s := t.recs.foldl (recordTeam t.lane) s
    match cs.find? fun k => stopsFaults (s.ctx k) with
    | some k => stopScope (s.modCtx k fun x => { x with dbgFlt := some (t.flt, t.lane, true) }) k 7 0
    | none => superviseFault s t.c t.flt

/-- A supervisor-level fault of a team, found at one context (spec/20 R351, R359, R361). -/
def teamFault (s : State) (c lane : Nat) (f : Flt) (pos word : Word) : State :=
  takeTeamFault s ⟨f, c, lane, [⟨c, f, pos, word, false⟩]⟩

/-- The word of a lane's next instruction with its literal, as FR_WORD holds them; 0 where its word, and its bits [63:32] where
the literal, cannot be fetched (spec/20 R355). -/
def wordAtLane (s : State) (c : Nat) (ln : Lane) : Word :=
  let pc := ((s.ctx c).lane ln).pc
  match fetchWord s c pc with
  | .flt .. | .wait => 0
  | .word s w =>
    if ln = .k && hasLiteral w then
      match fetchWord s c (pc + 4) with
      | .word _ l => wd (w + l * 2 ^ 32)
      | .flt .. | .wait => wd w
    else wd w

/-- The word of a context's next K instruction. -/
def wordAt (s : State) (c : Nat) : Word := wordAtLane s c .k

/-- The word that FR_WORD shows for a fault at a position: that of the lane's instruction, 0 for an engine (spec/20
R355). -/
def wordOfPos (s : State) (c : Nat) (pos : Word) : Word :=
  match bits pos.toNat 60 4 with
  | 0 | 13 => wordAtLane s c .k
  | 1 => wordAtLane s c .l
  | 2 => wordAtLane s c .c
  | 3 => wordAtLane s c .s
  | _ => 0

/-- Stop a team for a replay that parts from its recording, or for a full recording region, at an event of position `pos` whose
instruction is `word` (spec/22 R399, R400). It parts once: no later event of the team is recorded or matched. -/
def divergeWord (s : State) (c lane : Nat) (pos word : Word) (cause detail seq : Nat) (value : Word) : State :=
  let s := setRec s (clusterOf c) ((recOf s (clusterOf c)).map fun r => { r with diverged := true })
  teamFault s c lane ⟨cause, detail, wd seq, value⟩ pos word

/-- Stop a team at an event that has not been made: its lane still stands at it. -/
def divergeAt (s : State) (c lane : Nat) (pos : Word) (cause detail seq : Nat) (value : Word) : State :=
  divergeWord s c lane pos (wordOfPos s c pos) cause detail seq value

/-- The recording state once an event has been matched in replay. -/
def matched (r : RecSt) (pos : Word) : RecSt :=
  match pickFirst (fun e => sameQueue e.pos pos) r.events with
  | some (_, rest) => { r with events := rest }
  | none => r

/-- Note a synchronising event that a queue of context `c` has made with the instruction `word`, which has completed (spec/14
R321-R323): where this stops the team, the event is not made again (spec/22 R399, R400). -/
def syncWord (s : State) (c lane : Nat) (pos word partner : Word) (kind : Nat) (value : Word) : State :=
  let cl := clusterOf c
  if isSup c then s
  else match recOf s cl, (s.cluster cl).team with
  | some r, some t =>
    let d := dieOf c
    let e : SyncRec := ⟨pos, partner, kind, r.seq, value⟩
    let last := r.seq % 2 ^ 20 == 2 ^ 20 - 1
    if r.diverged then s else
    let hash := crc64 r.hash (hashBytes t.t e)
    let next : RecSt :=
      { r with
        seq := r.seq + 1
        hash := if last then 0 else hash
        interval := if last then r.interval + 1 else r.interval }
    if r.mode = 1 then
      let full := fun s : State =>
        let s := s.modDie d fun x => { x with recFull := true }
        divergeWord s c lane pos word 0x44 0 (s.die d).recWr.toNat ((s.die d).recLen.zeroExtend 64)
      match regionWrite s d 2 5 (syncBody t.t e) with
      | none => full (setRec s cl (some next))
      | some s =>
        let s := setRec s cl (some next)
        if last then
          match regionWrite s d 1 6 (leBytes 8 (t.t % 2 ^ 24) ++ leBytes 8 r.interval ++ leBytes 8 hash.toNat) with
          | some s => s
          | none => full s
        else s
    else
      let want := r.events.find? fun e => sameQueue e.pos pos
      let s := setRec s cl (some (matched next pos))
      match want with
      | some w =>
        if (kind = 4 || kind = 5) && w.value ≠ value then divergeWord s c lane pos word 0x43 4 w.seq w.value
        else if last && (r.hashes.any fun h => h.1 == r.interval && h.2 ≠ hash) then
          divergeWord s c lane pos word 0x43 8 r.seq (((r.hashes.find? fun h => h.1 == r.interval).map (·.2)).getD 0)
        else s
      | none => s
  | _, _ => s

/-- Note a synchronising event of an engine, or of a lane that still stands at its instruction. -/
def syncEvent (s : State) (c lane : Nat) (pos partner : Word) (kind : Nat) (value : Word) : State :=
  if (recOf s (clusterOf c)).isSome then syncWord s c lane pos (wordOfPos s c pos) partner kind value else s

/-- Note a synchronising event whose instruction has completed since `before`, where its lane stood at it. -/
def syncAfter (before s : State) (c lane : Nat) (pos partner : Word) (kind : Nat) (value : Word) : State :=
  if (recOf s (clusterOf c)).isSome then syncWord s c lane pos (wordOfPos before c pos) partner kind value else s

/-- A queue parks, retires or ends: in replay its recorded events must all have been made (spec/22 R398, 6). -/
def queueEnds (s : State) (c lane : Nat) (pos : Word) : State :=
  match recOf s (clusterOf c) with
  | some r =>
    if r.mode = 2 && !r.diverged && !isSup c then
      match r.events.find? fun e => sameQueue e.pos pos with
      | some e => divergeAt s c lane pos 0x43 6 e.seq e.value
      | none => s
    else s
  | none => s

/-! ## A lane goes on -/

/-- Count one completed instruction of a lane (event 0x03, spec/14 R313). -/
def perfInstr (x : Ctx) (ln : Lane) : Ctx :=
  if x.stopped then x
  else
    { x with perfCnt := Vector.ofFn fun i : Fin 4 =>
        let sel := (x.perfSel[i]).toNat
        if bits sel 0 8 = 3 && bits sel (8 + ln.num) 1 = 1 then x.perfCnt[i] + 1 else x.perfCnt[i] }

/-- The lane's next instruction completes and the lane goes to `pc` (spec/14 R303). -/
def goto (s : State) (c : Nat) (ln : Lane) (pc : Word) : State :=
  s.modCtx c fun x =>
    let y := x.lane ln
    perfInstr (x.setLane ln { y with
      pc := pc, head := y.head + 1, wait := none, tokWait := none, remain := none, passBp := false, passBk := false
      hitStop := false }) ln

/-- The lane's next instruction, of `len` bytes, completes. -/
def advance (s : State) (c : Nat) (ln : Lane) (len : Nat) : State :=
  goto s c ln (((s.ctx c).lane ln).pc + wd len)

/-- A lane waits for another one, or for an agent outside it: not for its own fetch, a pending operand or a move of an entry,
which end by themselves and have KIND 15 here (spec/14 R310). -/
def LaneSt.waitsPartner (y : LaneSt) : Bool := y.tokWait.isSome || y.wait.any fun w => w.kind != 15

/-- After the stepped lane of a stopped context has moved: count the instruction that has completed, or show that it waits for a
partner (spec/14 R310). -/
def noteStep (before : State) (c : Nat) (ln : Lane) (s : State) : State :=
  let x := s.ctx c
  if ln.num != bits x.dbgCtl.toNat 20 2 then s
  else if !(before.ctx c).stopped || !x.stopped || x.stepLeft = 0 then s
  else
    let y := x.lane ln
    let moved := y.head != ((before.ctx c).lane ln).head
    s.setCtx c { x with
      stepLeft := if moved && ln != .c then x.stepLeft - 1 else x.stepLeft
      dbgStat := putField x.dbgStat 7 1 (if y.waitsPartner then 1 else 0) }

/-- The lane's wait, if any, has ended: log it with the setter that ended it (spec/14 R311). -/
def endWait (s : State) (c : Nat) (ln : Lane) (setter value : Word) : State :=
  let y := (s.ctx c).lane ln
  let s := logWait s (dieOf c) (posNext s c ln) setter y.tokWait value true
  let s := logWait s (dieOf c) (posNext s c ln) setter y.wait value true
  s.modCtx c fun x => x.setLane ln { x.lane ln with wait := none, tokWait := none }

/-- The team of a context is held by a fault (spec/20 R361). -/
def teamHeld (s : State) (c : Nat) : Bool :=
  !isSup c && match (s.cluster (clusterOf c)).team with
    | some t => t.held.isSome
    | none => false

/-- Set the resume points of a context that its handler or the supervisor has not written. -/
def refreshResumes (x : Ctx) : Ctx :=
  { x with frResume := Vector.ofFn fun i : Fin 4 =>
      if x.resumeWritten[i] then x.frResume[i] else (setResumes x).frResume[i] }

/-- What a context of a held team had dispatched has completed: its resume points are those of the cut (spec/20 R353,
R361). -/
def recut (s : State) (c : Nat) : State :=
  if teamHeld s c then s.modCtx c fun x => if inHandler x then x else refreshResumes x else s

/-! ## Barriers -/

/-- The team on a cluster, changed. -/
def modTeam (s : State) (cl : Nat) (f : Team → Team) : State :=
  s.modCluster cl fun x => { x with team := x.team.map f }

/-- The home die of team t of a launch (spec/03 R47). -/
def homeOf (l : Launch) (t : Nat) : Nat := (t + l.die) % 4

/-- Home dies of a launch: those with at least one team (spec/03 R47). -/
def homeDies (l : Launch) : List Nat :=
  [0, 1, 2, 3].filter fun h => decide ((h + 4 - l.die % 4) % 4 < l.teams)

/-- Unplaced teams of a launch that are homed on a die wait in some queue, or for its LAUNCH to append them (spec/09 R211). -/
def unplacedHome (s : State) (n h : Nat) : Bool :=
  (s.ctxs.any fun e => e.2.launching.any fun k => k.2.1 == n && k.2.2.contains h) ||
  s.dies.toList.any fun d => d.q.toList.any fun q => q.ents.any fun e =>
    e.launch == n && decide (0 < e.n) && homeOf (s.launch n) e.first == h

/-- Placed and pre-empted teams of a launch, and those lost with a die that has not returned, as (t, home). -/
def liveTeams (s : State) (n : Nat) : List (Nat × Nat) :=
  (s.clusters.filterMap fun (_, x) => match x.team with
    | some t => if t.launch = n then some (t.t, t.home) else none
    | none => none) ++
  (s.dies.toList.map fun d => d.resumed.filterMap fun v =>
    if v.team.launch = n then some (v.team.t, v.team.home) else none).flatten ++
  (s.dies.toList.map fun d => d.lost.filterMap fun e =>
    if e.1 = n then some (e.2, homeOf (s.launch n) e.2) else none).flatten

/-- Every team of the launch with this home die has arrived at a barrier or ended (spec/03 R60). -/
def homeArrived (s : State) (n h : Nat) (b : Bar) : Bool :=
  !unplacedHome s n h && (liveTeams s n).all fun (t, h') => h' ≠ h || b.arrived.contains t

/-- Release the K lanes of a context that wait at a barrier. -/
def freeBar (setter : Word) (x : Ctx) : Ctx :=
  { x with bar := x.bar.map fun b => if b.released then b else { b with released := true, setter := setter } }

/-- The contexts of a team whose barrier has released and whose arrival the recording has still to note, in the order of
their arrivals. -/
def barsToNote (s : State) (cl : Nat) : List (Nat × BarSt) :=
  let l := (teamCtxs s cl).filterMap fun c => (s.ctx c).bar.map fun b => (c, b)
  (List.range 256).filterMap fun k => l.find? fun e => e.2.released && !e.2.noted && e.2.ord == k

/-- The recording takes note of one arrival once its barrier has released, when its partner, the last arriver, is known (spec/14
R321; DEDUCED, log 30); a replay has made the event at the arrival. -/
def noteBar (s : State) (e : Nat × BarSt) : State :=
  let (c, b) := e
  let s := s.modCtx c fun x => { x with bar := some { b with noted := true } }
  if b.want.isNone then syncEvent s c 0 (posOf s c .k) b.setter 3 (wd b.ord) else s

/-- In a replay, the first arrival of a team at a barrier that is about to release whose record names another last arriver than
`setter`: its context, SEQ and VALUE (spec/22 R397, R398). `open_` says that the barrier has released while the team was saved, and
that its bars name the last arriver. -/
def wrongLast (s : State) (cl : Nat) (open_ : Bool) (setter : Word) : Option (Nat × Nat × Word) :=
  match recOf s cl with
  | some r =>
    if r.diverged then none
    else
      let l := (teamCtxs s cl).filterMap fun c => match (s.ctx c).bar with
        | some b =>
          if b.released != open_ || b.noted then none
          else b.want.bind fun w =>
            if posKey w.1 = posKey (if open_ then b.setter else setter) then none else some (b.ord, c, w.2.1, w.2.2)
        | none => none
      (List.range 256).findSome? fun k => (l.find? fun e => e.1 == k).map (·.2)
  | none => none

/-- A K lane whose barrier `b` has released goes past its BAR (spec/09 R205). -/
def barDone (s : State) (c : Nat) (b : BarSt) : State :=
  let s := endWait s c .k b.setter 0
  advance (s.modCtx c fun x => { x with bar := none }) c .k 4

/-- A K lane that waits at a barrier which has released goes past its BAR, of a held team too; one in handler state does so after its
return (spec/20 R352, R361). -/
def passBar (s : State) (c : Nat) : State :=
  match (s.ctx c).bar with
  | some b => if b.released && !inHandler (s.ctx c) then recut (noteStep s c .k (barDone s c b)) c else s
  | none => s

/-- The recording of a team takes note of the arrivals of a barrier that has released. -/
def noteBars (s : State) (cl : Nat) : State :=
  if (recOf s cl).isSome then (barsToNote s cl).foldl noteBar s else s

/-- A barrier releases the K lanes of the team on a cluster, which all go past it at once: no stop finds one of them before its BAR
and another past it (spec/14 R306). -/
def openBars (s : State) (cl : Nat) (setter : Word) : State :=
  let s := noteBars ((teamCtxs s cl).foldl (fun s c => s.modCtx c (freeBar setter)) s) cl
  (teamCtxs s cl).foldl passBar s

/-- A barrier whose last arriver is not the one that a parcel's record names is not released: the parcel's arrival, the divergent
event, is taken back, and those of the others stand (spec/22 R397, R399). `lost` is what the team forgets with it. -/
def refuseBar (s : State) (cl : Nat) (open_ : Bool) (e : Nat × Nat × Word) (lost : Team → Team) : State :=
  let (c, n, v) := e
  let here := (teamCtxs s cl).filterMap fun d => (s.ctx d).bar.bind fun b =>
    if d = c || b.released != open_ || b.noted then none else some (d, b)
  let others := (List.range 256).filterMap fun k => (here.find? fun e => e.2.ord == k).map fun e => (parcelOf e.1, e.2.level)
  let s := here.foldl (fun s e => s.modCtx e.1 fun x => { x with bar := some { e.2 with released := false } }) s
  let s := modTeam (s.modCtx c fun x => { x with bar := none }) cl fun t => lost { t with arrivals := others }
  divergeAt s c 0 (posOf s c .k) 0x43 3 n v

/-- A team has come back whose barrier released while it was saved: its K lanes go past it (spec/03 R65). -/
def openSaved (s : State) (cl : Nat) : State :=
  match wrongLast s cl true 0 with
  | some e => refuseBar s cl true e fun t => { t with barOrd := t.barOrd - 1 }
  | none => (teamCtxs s cl).foldl passBar (noteBars s cl)

/-- The need that a die's requests named for a cluster is over (spec/03 R62, spec/20 R371). -/
def dropNeed (s : State) (cl : Nat) : State :=
  let other := fun o : Option (Nat × Nat) => o.bind fun e => if e.1 = cl then none else some e
  s.modDie (dieOfCluster cl) fun x => { x with request := other x.request, noPre := other x.noPre }

/-- Release a pre-empted team that waits at barrier `ord` of a launch: it may resume (spec/03 R65). -/
def freeSaved (n ord : Nat) (hs : List Nat) (setter : Word) (v : Saved) : Saved :=
  if v.team.launch == n && hs.contains v.team.home && (v.team.waiting.map (·.2)) == some ord then
    { v with
      team := { v.team with waiting := none }
      ctxs := v.ctxs.map fun (p, x) => (p, freeBar setter x)
      until_ := none }
  else v

/-- Release the teams of a launch that wait at barrier `ord` and whose home die is in `hs` (spec/03 R60). -/
def releaseTeams (s : State) (n ord : Nat) (hs : List Nat) (setter : Word) : State :=
  let cyc := s.cycle
  let s := (launchClusters s n).foldl (fun s cl =>
    match (s.cluster cl).team with
    | some t =>
      if hs.contains t.home && (t.waiting.map (·.2)) == some ord then
        match wrongLast s cl false setter with
        | some e => refuseBar s cl false e fun t => { t with waiting := none, barOrd := ord }
        | none => openBars (dropNeed (modTeam s cl fun t => { t with waiting := none, lastAct := cyc }) cl) cl setter
      else s
    | none => s) s
  { s with dies := s.dies.map fun d => { d with resumed := d.resumed.map (freeSaved n ord hs setter) } }

/-- Release what can be released of one barrier of a launch; a team that arrives again after a die reset finds it released
(spec/03 R60, spec/22 R408). In the cycle of its first arrival it releases nothing, since a team that forwards in the same cycle
may still name its level (spec/20 R370; DEDUCED, log 56). -/
def checkBar (s : State) (n ord : Nat) : State :=
  match (s.launch n).bars[ord]? with
  | none => s
  | some b =>
    let l := s.launch n
    let s := releaseTeams s n ord (if b.released then homeDies l else b.dies) b.last
    if b.released || s.cycle = b.cyc then s
    else
      let ready := (homeDies l).filter fun h => homeArrived s n h b
      let put := fun (s : State) (b : Bar) => s.modLaunch n fun l => { l with bars := l.bars.set ord b }
      if b.level = 1 then
        let fresh := ready.filter fun h => !b.dies.contains h
        if fresh.isEmpty then s
        else
          let dies := b.dies ++ fresh
          let s := put s { b with dies := dies, released := (homeDies l).all dies.contains }
          releaseTeams s n ord fresh b.last
      else if ready.length = (homeDies l).length then
        releaseTeams (put s { b with released := true, dies := ready }) n ord ready b.last
      else s

/-- Release what can be released of every barrier of a launch. -/
def checkBars (s : State) (n : Nat) : State :=
  (List.range (s.launch n).bars.length).foldl (fun s k => checkBar s n k) s

/-- A barrier mismatch: no BAR of the arriving parcels has had its effect, their records hold the mismatch at their K
positions, and one message carries the lowest-numbered parcel's (spec/20 R370). -/
def barMismatch (s : State) (cl : Nat) (arr : List (Nat × Nat)) : State :=
  let s := arr.foldl (fun s e => s.modCtx (ctxOfParcel cl e.1) fun x => { x with bar := none }) s
  takeTeamFault s ⟨⟨0x0D, 0, 0, 0⟩, ctxOfParcel cl ((arr.map (·.1)).headD 0), 0, arr.map fun e =>
    let c := ctxOfParcel cl e.1
    ⟨c, ⟨0x0D, e.2, 0, 0⟩, posOf s c .k, wordAt s c, false⟩⟩

/-- A team of a launch that has forwarded to barrier `ord` names the other level: it does not count as arrived (spec/20
R370). -/
def barMismatchTeam (n ord : Nat) (arrived : List Nat) (s : State) (cl : Nat) : State :=
  match (s.cluster cl).team with
  | none => s
  | some t =>
    if t.launch = n && arrived.contains t.t then
      let arr := (teamCtxs s cl).filterMap fun c => (s.ctx c).bar.map fun b => (parcelOf c, b.level)
      barMismatch (modTeam s cl fun t => { t with barOrd := ord, waiting := none }) cl arr
    else s

/-- Forward a team's completed barrier to its launch's barrier of the next ordinal. The first team to forward names the
level, among teams of one cycle that of the lowest t (spec/20 R370). -/
def forwardBar (s : State) (cl level : Nat) (setter : Word) (arr : List (Nat × Nat)) : State :=
  match (s.cluster cl).team with
  | none => s
  | some t =>
    let ord := t.barOrd
    let l := s.launch t.launch
    let b := (l.bars[ord]?).getD ⟨level, [], 0, false, [], s.cycle, t.t⟩
    let first := decide (s.cycle = b.cyc) && decide (t.t < b.by_)
    if b.level ≠ level && !first then barMismatch s cl arr
    else
      let s := if b.level = level then s else (FMap.keys s.clusters).foldl (barMismatchTeam t.launch ord b.arrived) s
      let b := if b.level = level then b else { b with level := level, arrived := [] }
      let b := { b with arrived := b.arrived ++ [t.t], last := setter, by_ := if first then t.t else b.by_ }
      let s := s.modLaunch t.launch fun l =>
        { l with bars := if ord < l.bars.length then l.bars.set ord b else l.bars ++ [b] }
      let s := modTeam s cl fun t => { t with barOrd := ord + 1, waiting := some (level, ord) }
      checkBar s t.launch ord

/-- Complete the team barrier where every parcel that has not retired has arrived (spec/03 R60, spec/20 R370). -/
def checkTeamBar (s : State) (cl : Nat) : State :=
  match (s.cluster cl).team with
  | none => s
  | some t =>
    let live := (teamCtxs s cl).filter fun c => !(s.ctx c).retired
    if t.arrivals.isEmpty || t.held.isSome || !(live.all fun c => t.arrivals.any fun a => a.1 == parcelOf c) then s
    else
      let arr := t.arrivals
      let level := (arr.head?.map (·.2)).getD 0
      let setter := (arr.getLast?.map fun a => posOf s (ctxOfParcel cl a.1) .k).getD noPos
      let s := modTeam s cl fun t => { t with arrivals := [] }
      if arr.any (fun a => a.2 ≠ level) then barMismatch s cl arr
      else if level = 0 then
        match wrongLast s cl false setter with
        | some e => refuseBar s cl false e id
        | none => openBars s cl setter
      else forwardBar s cl level setter arr

/-! ## Sizes of stack entries -/

/-- Bytes of an entry's image (spec/04 R68). -/
def Kind.image : Kind → Nat
  | .single _ => 4352
  | .quad => 16896
  | .seed => 64

/-- Till slots of an entry (spec/04 R68). -/
def Kind.slots : Kind → Nat
  | .quad => 4
  | .single _ | .seed => 1

/-- The kind of a value. -/
def Val.kind : Val → Kind
  | .single f _ _ => .single f
  | .quad _ _ => .quad
  | .seed _ => .seed

/-- An entry counts in the till: it resides there, rises to it or sinks from it (spec/04 R71). -/
def Res.inTill : Res → Bool
  | .till | .movingS | .movingB | .sinkS .. | .sinkB .. => true
  | .subsoil | .bedrock | .down | .pending | .buffer => false

/-- An entry counts in the subsoil (spec/04 R71). -/
def Res.inSubsoil : Res → Bool
  | .subsoil | .movingS | .sinkS .. | .down => true
  | .till | .bedrock | .movingB | .sinkB .. | .pending | .buffer => false

/-- An entry counts in the bedrock (spec/04 R71). -/
def Res.inBedrock : Res → Bool
  | .bedrock | .movingB | .sinkB .. | .down => true
  | .till | .subsoil | .movingS | .sinkS .. | .pending | .buffer => false

/-- Where a move of an entry ends (spec/04 R71); an entry that does not move stays. -/
def Res.settled : Res → Res
  | .movingS | .movingB => .till
  | .sinkS .. => .subsoil
  | .sinkB .. | .down => .bedrock
  | .till => .till
  | .subsoil => .subsoil
  | .bedrock => .bedrock
  | .pending => .pending
  | .buffer => .buffer

/-- Till slots of the entries of a stack whose residence satisfies a condition. -/
def slotsIn (p : Res → Bool) (l : List Entry) : Nat := (l.filter fun e => p e.res).foldl (fun n e => n + e.kind.slots) 0

/-- Image bytes of the entries of a stack whose residence satisfies a condition. -/
def bytesIn (p : Res → Bool) (l : List Entry) : Nat := (l.filter fun e => p e.res).foldl (fun n e => n + e.kind.image) 0

/-- Till slots that a context holds: its entries in the till (spec/04 R71), the slots given to entries that are still to
fill them (spec/04 R73), and the popped quads that dispatched instructions still pin (spec/04 R84). -/
def tillHeld (x : Ctx) : Nat :=
  slotsIn Res.inTill x.stack + x.stack.foldl (fun n e => n + e.got) 0 + x.infl.foldl (fun n j => n + j.pins) 0

/-- Subsoil bytes that a context holds (spec/04 R74). -/
def subsoilHeld (x : Ctx) : Nat := bytesIn Res.inSubsoil x.stack

/-- Bedrock bytes that a context holds (spec/04 R78). -/
def bedrockHeld (x : Ctx) : Nat := bytesIn Res.inBedrock x.stack

/-- Set OVF_PTR from the bedrock images held (spec/04 R78). -/
def setOvf (x : Ctx) : Ctx := { x with ovfPtr := wd (x.ovfBase.toNat + bedrockHeld x) }

/-- CSTK_DEPTH and CSTK_RES after a commit (spec/04 R89): `depth` entries. -/
def setStackRegs (x : Ctx) (depth : Nat) : Ctx :=
  { x with
    cDepth := BitVec.ofNat 32 depth
    cRes := BitVec.ofNat 32 (subsoilHeld x % 2 ^ 19 * 2 ^ 8 + tillHeld x % 32) }

end Sys2Proof.Machine
end

