-- ==== Sys2Proof/Machine/Stack.lean ====
section
/-! DEFINITION. The tile stack's storage (spec/04 R71-R82), the commit of compute-lane instructions (R86, R417),
their unwinding (R88), and the retirement of a parcel (spec/03 R50). -/

namespace Sys2Proof.Machine

/-! ## Residence -/

/-- Contexts whose slots are occupied on a core (spec/04 R72). -/
def occupied (s : State) (core : Nat) : List Nat :=
  [4 * core, 4 * core + 1, 4 * core + 2, 4 * core + 3].filter fun c =>
    (s.ctx c).resident && !(s.ctx c).retired

/-- Free till slots of a core. -/
def tillFree (s : State) (core : Nat) : Nat :=
  16 - (occupied s core).foldl (fun n c => n + tillHeld (s.ctx c)) 0

/-- Slots that the other contexts of the core must still be able to reach (spec/04 R72). -/
def owed (s : State) (c : Nat) : Nat :=
  ((occupied s (coreOf c)).filter fun k => k ≠ c).foldl (fun n k => n + (4 - tillHeld (s.ctx k))) 0

/-- Context `c` may take one more free slot (spec/04 R72). -/
def mayTake (s : State) (c : Nat) : Bool :=
  let free := tillFree s (coreOf c)
  decide (0 < free) && (decide (tillHeld (s.ctx c) < 4) || decide (owed s c < free))

/-- Slots that a context may hold as the others now stand: its own 4, and those that it has or may take beyond them (spec/04 R72). -/
def tillReach (s : State) (c : Nat) : Nat := max 4 (tillHeld (s.ctx c) + (tillFree s (coreOf c) - owed s c))

/-- Change the entries of a stack that carry an id. -/
def onEntry (id : Nat) (f : Entry → Entry) (l : List Entry) : List Entry := replaceWhere (fun e => e.id == id) f l

/-- The deepest entry that satisfies a condition. -/
def deepest (p : Entry → Bool) (l : List Entry) : Option Entry := l.reverse.find? p

/-- The sink frees slots for an entry of a context; for any of its entries where no id is given. -/
def Res.sinksFor (c : Nat) (id : Option Nat) : Res → Bool
  | .sinkS k e | .sinkB k e => k == c && id.all (· == e)
  | .till | .subsoil | .bedrock | .movingS | .movingB | .down | .pending | .buffer => false

/-- The entry sinks from the till. -/
def Res.sinking : Res → Bool
  | .sinkS .. | .sinkB .. => true
  | .till | .subsoil | .bedrock | .movingS | .movingB | .down | .pending | .buffer => false

/-- The entry sinks from the till to the subsoil. -/
def Res.toSubsoil : Res → Bool
  | .sinkS .. => true
  | .till | .subsoil | .bedrock | .movingS | .movingB | .sinkB .. | .down | .pending | .buffer => false

/-- Slots that sinks of the core are freeing for an entry of a context, or for all its entries. -/
def promised (s : State) (c : Nat) (id : Option Nat) : Nat :=
  (occupied s (coreOf c)).foldl (fun n k => n + slotsIn (Res.sinksFor c id) (s.ctx k).stack) 0

/-- Slots that a context will hold once the sinks of its core have ended. -/
def soonHeld (s : State) (c : Nat) : Nat :=
  tillHeld (s.ctx c) - slotsIn Res.sinking (s.ctx c).stack + promised s c none

/-- The slots given to an entry. -/
def gotOf (x : Ctx) (id : Nat) : Nat := ((x.stack.find? fun e => e.id == id).map (·.got)).getD 0

/-- Bytes of the overflow part of a bedrock region (spec/04 R77). -/
def overflowPart (x : Ctx) : Nat := x.ovfLimit.toNat - x.ovfBase.toNat

/-- Where an image goes that is stored below the till (spec/04 R74). -/
inductive Dest where
  | subsoil
  | bedrock
  /-- Where room is being made, or is made by sinking a subsoil entry first. -/
  | after (id : Option Nat)
  /-- There is no room. -/
  | none_
  deriving DecidableEq, Repr

/-- The bedrock takes an image: it has room, or a rise makes room (spec/04 R78). -/
def bedrockDest (x : Ctx) (img : Nat) : Dest :=
  if bedrockHeld x + img ≤ overflowPart x then .bedrock
  else if bedrockHeld x - bytesIn (· == .movingB) x.stack + img ≤ overflowPart x then .after none
  else .none_

/-- Where an image of `img` bytes goes that is stored below the till: the subsoil where it has room or can be given
room by sinking its deepest entries at depth `least` or more, else the bedrock (spec/04 R74, R78, spec/20 R366). An entry that is
on its way to the subsoil is one of those, once it is there. Where the overflow part has no room for the deepest, the image itself
goes there if it fits (DEDUCED, log 15). -/
def sinkDest (x : Ctx) (img least : Nat) : Dest :=
  if 4352 * x.subsoil < img then bedrockDest x img
  else if subsoilHeld x + img ≤ 4352 * x.subsoil then .subsoil
  else if subsoilHeld x - bytesIn (fun r => r == .movingS || r == .down) x.stack + img ≤ 4352 * x.subsoil then .after none
  else match deepest (fun e => e.res == .subsoil || e.res.toSubsoil) (x.stack.drop least) with
    | none => .none_
    | some d => match bedrockDest x d.kind.image with
      | .bedrock => if d.res.toSubsoil then .after none else .after (some d.id)
      | .after o => .after o
      | .subsoil | .none_ => bedrockDest x img

/-! ## Layouts -/

/-- The sum of a list of sizes. -/
def sumOf (l : List Nat) : Nat := l.foldl (· + ·) 0

/-- The quads of a list of kinds, its singles, and its seeds. -/
def kindCounts (l : List Kind) : Nat × Nat × Nat :=
  let q := (l.filter fun k => k == .quad).length
  let d := (l.filter fun k => k == .seed).length
  (q, l.length - q - d, d)

/-- Bytes that `t` quads in the till and `a` in the subsoil leave in the subsoil and in the overflow part for singles and seeds
(spec/20 R366). -/
def layoutRooms (x : Ctx) (q t a : Nat) : Nat × Nat :=
  (4352 * x.subsoil - 16896 * a, overflowPart x - 16896 * (q - t - a))

/-- The till slots in which a context's entries are laid out: under a SUBSOIL of 1 to 3 the four guaranteed ones (spec/20 R366), under
another as many as the context may hold (spec/04 R72; DEDUCED, log 15). -/
def layoutSlots (s : State) (c : Nat) : Nat :=
  if 0 < (s.ctx c).subsoil && (s.ctx c).subsoil < 4 then 4 else tillReach s c

/-- Entries of these counts can be laid out with `t` quads in the `all` till slots, `a` in the subsoil and the others in the overflow
part, and the singles and seeds in whatever room remains (spec/20 R366). -/
def layoutFits (x : Ctx) (all : Nat) (n : Nat × Nat × Nat) (t a : Nat) : Bool :=
  let (q, m, d) := n
  let (low, deep) := layoutRooms x q t a
  let slots := all - 4 * t
  decide (t + a ≤ q) && decide (4 * t ≤ all) && decide (16896 * a ≤ 4352 * x.subsoil) && decide (16896 * (q - t - a) ≤ overflowPart x) &&
    decide (m - slots ≤ low / 4352 + deep / 4352) && decide (4352 * (m - slots) + 64 * (d - (slots - m)) ≤ low + deep)

/-- The quads that a subsoil can hold: a quad image never fits a SUBSOIL of 3 or less (spec/04 R74). -/
def subsoilQuads (x : Ctx) : Nat := 4352 * x.subsoil / 16896

/-- A layout of entries in `all` till slots, where there is one: the quads in the till, at least `least` of them, and in the subsoil
(spec/20 R366). -/
def layoutOf (x : Ctx) (all : Nat) (n : Nat × Nat × Nat) (least : Nat) : Option (Nat × Nat) :=
  (((List.range (all / 4 + 1)).reverse.filter (least ≤ ·)).flatMap fun t =>
    (List.range (subsoilQuads x + 1)).map fun a => (t, a)).find? fun l => layoutFits x all n l.1 l.2

/-- Give residences to entries, in order. -/
def assign (es : List Entry) (rs : List Res) (l : List Entry) : List Entry :=
  (es.zip rs).foldl (fun l p => onEntry p.1.id (fun e => { e with res := p.2, got := 0 }) l) l

/-- Count the moves between two placings of the same entries: those sunk, those lifted, and the bytes moved to or from the bedrock
(spec/14 R313). -/
def countMoves (before : List Entry) (x : Ctx) : Ctx :=
  before.foldl (fun x e =>
    let was := e.res.settled
    let now := ((x.stack.find? fun a => a.id == e.id).map (·.res)).getD was
    let x := if was == .till && now != .till then perfAdd x 4 1 else x
    let x := if (was == .subsoil || was == .bedrock) && now == .till then perfAdd x 5 1 else x
    if (was == .bedrock) != (now == .bedrock) then perfAdd x 6 e.kind.image else x) x

/-- The entries of a context that have storage, with entry `id`, take the places of a layout in `all` till slots, the shallower ones
first and pinned ones in the till; `firm` keeps what is pinned in the till. Nothing where there is no such layout. -/
def layOut (x : Ctx) (all id : Nat) (firm : Bool) : Option Ctx :=
  let es := x.stack.filter fun e => e.id == id || (e.res != .pending && e.res != .buffer)
  let n := kindCounts (es.map (·.kind))
  let held := firm && x.infl.any fun j => decide (0 < j.pins)
  let pinned := firm && es.any fun e => e.pinned
  let all := if held then all - 4 else all
  match layoutOf x all n (if pinned then 1 else 0) with
  | none => none
  | some (t, a) =>
    let (q, m, d) := n
    let low := (layoutRooms x q t a).1
    let slots := all - 4 * t
    let lowS := min (m - slots) (low / 4352)
    let lowD := (low - 4352 * lowS) / 64
    let places := fun (up mid all : Nat) =>
      (List.replicate up Res.till ++ List.replicate mid Res.subsoil ++ List.replicate all Res.bedrock).take all
    let quads := es.filter fun e => e.kind == .quad
    let stack := assign (quads.filter (·.pinned) ++ quads.filter fun e => !e.pinned) (places t a q) x.stack
    let stack := assign (es.filter fun e => e.kind != .quad && e.kind != .seed) (places (min slots m) lowS m) stack
    let stack := assign (es.filter fun e => e.kind == .seed) (places (slots - m) lowD d) stack
    some (setOvf (countMoves x.stack { x with stack := stack }))

/-! ## Moves -/

/-- A subsoil entry begins to sink to the bedrock, where one is named (spec/04 R74). -/
def beginDown (s : State) (c : Nat) (id : Option Nat) : State :=
  match id with
  | none => s
  | some id => s.modCtx c fun x =>
    let img := ((x.stack.find? fun e => e.id == id).map (·.kind.image)).getD 0
    setOvf (perfAdd { x with stack := onEntry id (fun e => { e with res := .down }) x.stack } 6 img)

/-- An entry of the till begins to sink. -/
def beginSink (s : State) (c : Nat) (e : Entry) (r : Res) : State :=
  s.modCtx c fun x =>
    let x := setOvf (perfAdd { x with stack := onEntry e.id (fun e => { e with res := r }) x.stack } 4 1)
    if r.inBedrock then perfAdd x 6 e.kind.image else x

/-- An entry that may sink: resident, neither pinned nor being claimed (spec/04 R73). -/
def sinkable (x : Ctx) (e : Entry) : Bool := e.res == .till && !e.pinned && !x.claiming.contains e.id

/-- The entry that R73 sinks, and where to: the deepest resident one at depth `least` or more that is neither pinned nor
being claimed; one for which there is no room below is passed over (spec/20 R366; DEDUCED, log 15). -/
def victim (x : Ctx) (least : Nat) : Option (Entry × Dest) :=
  ((x.stack.drop least).reverse.filter (sinkable x)).findSome? fun e =>
    match sinkDest x e.kind.image least with
    | .none_ => none
    | d => some (e, d)

/-- The other context of the core that holds most slots, the higher slot on a tie (spec/04 R73). -/
def fullest (s : State) (c : Nat) : Option Nat :=
  ((occupied s (coreOf c)).filter fun k => k ≠ c).foldl (fun b k => match b with
    | none => some k
    | some j => if soonHeld s j ≤ soonHeld s k then some k else b) none

/-- What an entry that needs till slots is answered. -/
inductive SlotAns where
  /-- It has them. -/
  | have_ (s : State)
  /-- Sinks are under way that will give them. -/
  | soon (s : State)
  /-- No slot can be had. -/
  | none_
  deriving DecidableEq, Repr

/-- Get `need` till slots for entry `id` of a context by spec/04 R73; for a lift by spec/04 R80. `fuel` bounds the
steps. -/
def getSlotsFrom (c id need : Nat) (lift : Bool) : Nat → State → SlotAns
  | 0, _ => .none_
  | fuel + 1, s =>
    let got := gotOf (s.ctx c) id
    if need ≤ got then .have_ s
    else if need ≤ got + promised s c (some id) then .soon s
    else if mayTake s c then
      getSlotsFrom c id need lift fuel (s.modCtx c fun x => { x with stack := onEntry id (fun e => { e with got := e.got + 1 }) x.stack })
    else match (if lift || 4 ≤ soonHeld s c then some c else fullest s c) with
      | none => .none_
      | some y => match victim (s.ctx y) (if lift then 4 else 0) with
        | none => .none_
        | some (e, .subsoil) => getSlotsFrom c id need lift fuel (beginSink s y e (.sinkS c id))
        | some (e, .bedrock) => getSlotsFrom c id need lift fuel (beginSink s y e (.sinkB c id))
        | some (_, .after d) => .soon (beginDown s y d)
        | some (_, .none_) => .none_

/-- Get `need` till slots for an entry (spec/04 R73, R80). -/
def getSlots (s : State) (c id need : Nat) (lift : Bool) : SlotAns := getSlotsFrom c id need lift 64 s

/-- An entry below the till wants slots: a result that commits or returns, an entry that an instruction has named, or one
that anticipation lifts (spec/04 R73, R80, R86). -/
def wantsSlots (x : Ctx) (id : Nat) (e : Entry) : Bool :=
  match e.res with
  | .pending | .buffer => true
  | .subsoil | .bedrock | .down => e.pinned || x.claiming.contains id || (x.stack.take 4).any fun a => a.id == id
  | .till | .movingS | .movingB | .sinkS .. | .sinkB .. => false

/-- The slots that a sink has freed go to the entry that it was made for, as far as it wants them; others are free. -/
def grant (s : State) (c id n : Nat) : State :=
  s.modCtx c fun x =>
    { x with stack := onEntry id (fun e => if wantsSlots x id e then { e with got := min e.kind.slots (e.got + n) } else e) x.stack }

/-- The move of an entry ends (spec/04 R71). -/
def endMove (c : Nat) (s : State) (id : Nat) : State :=
  match (s.ctx c).stack.find? fun e => e.id == id with
  | none => s
  | some e =>
    let s := s.modCtx c fun x => setOvf { x with stack := onEntry id (fun e => { e with res := e.res.settled }) x.stack }
    match e.res with
    | .sinkS k i | .sinkB k i => grant s k i e.kind.slots
    | .till | .subsoil | .bedrock | .movingS | .movingB | .down | .pending | .buffer => s

/-- Every move of a core ends. -/
def settleCore (s : State) (core : Nat) : State :=
  (occupied s core).foldl (fun s c => ((s.ctx c).stack.map (·.id)).foldl (endMove c) s) s

/-- Get till slots for an entry where every move ends at once (log 15). -/
def getSlotsNow (c id need : Nat) (lift : Bool) : Nat → State → Option State
  | 0, _ => none
  | fuel + 1, s => match getSlots s c id need lift with
    | .have_ s => some s
    | .soon s => getSlotsNow c id need lift fuel (settleCore s (coreOf c))
    | .none_ => none

/-- An entry fills a place, and the slots it was given. -/
def putIn (c : Nat) (s : State) (id : Nat) (r : Res) : State :=
  s.modCtx c fun x => setOvf { x with stack := onEntry id (fun e => { e with res := r, got := 0 }) x.stack }

/-- The entries of a context are laid out anew, with entry `id` of an image of `img` bytes, as R366 says that they can be: those that
are pinned stay where a layout lets them (spec/20 R366; DEDUCED, log 15). -/
def storeAnew (c id img : Nat) (s : State) : State :=
  match layOut (s.ctx c) (layoutSlots s c) id true with
  | some x => s.setCtx c x
  | none => match layOut (s.ctx c) (layoutSlots s c) id false with
    | some x => s.setCtx c x
    | none => (putIn c s id .bedrock).modCtx c fun x => perfAdd x 6 img

/-- Store an entry below the till, where every move ends at once (spec/04 R74); where there is no room below, the entries are laid
out anew. -/
def storeBelow (c id img : Nat) : Nat → State → State
  | 0, s => storeAnew c id img s
  | fuel + 1, s => match sinkDest (s.ctx c) img 0 with
    | .subsoil => putIn c s id .subsoil
    | .after d => storeBelow c id img fuel (settleCore (beginDown s c d) (coreOf c))
    | .bedrock => (putIn c s id .bedrock).modCtx c fun x => perfAdd x 6 img
    | .none_ => storeAnew c id img s

/-- Give storage to an entry that has none: a till slot where R73 gives one, else the subsoil or the bedrock (spec/04
R86, R88; log 15). -/
def giveStorage (c : Nat) (s : State) (e : Entry) : State :=
  match getSlotsNow c e.id e.kind.slots false 64 s with
  | some s => putIn c s e.id .till
  | none => storeBelow c e.id e.kind.image 64 s

/-- Begin the rise of an entry for which slots have been had (spec/04 R71, R82). -/
def beginRise (s : State) (c id : Nat) : State :=
  match (s.ctx c).stack.find? fun e => e.id == id with
  | none => s
  | some e => match e.res with
    | .subsoil => (putIn c s id .movingS).modCtx c fun x => perfAdd x 5 1
    | .bedrock => (putIn c s id .movingB).modCtx c fun x => perfAdd (perfAdd x 5 1) 6 e.kind.image
    | .till | .movingS | .movingB | .sinkS .. | .sinkB .. | .down | .pending | .buffer => s

/-- Pin an entry. -/
def pinEntry (e : Entry) : Entry := { e with pinned := true }

/-- An entry that rises for an instruction that waits at dispatch is claimed by it: a quad is pinned, a single or a seed
entry is being claimed until it has been copied (spec/04 R73, R84). -/
def wanted (e : Entry) (x : Ctx) : Ctx :=
  if e.kind = .quad then { x with stack := onEntry e.id pinEntry x.stack }
  else if x.claiming.contains e.id then x else { x with claiming := e.id :: x.claiming }

/-- Make a named entry rise by R73 (spec/04 R81). -/
def rise (s : State) (c : Nat) (e : Entry) : State :=
  let s := s.modCtx c (wanted e)
  match getSlots s c e.id e.kind.slots false with
  | .have_ s => beginRise s c e.id
  | .soon s => s
  | .none_ => s

/-- The entries among depths 0 to 3 that anticipation would lift, shallowest first (spec/04 R80). -/
def toLift (x : Ctx) : List Entry := (x.stack.take 4).filter fun e => e.res == .subsoil || e.res == .bedrock

/-- An entry that no instruction has named gives back slots that it has been given. -/
def leaveSlots (c id : Nat) (s : State) : State :=
  s.modCtx c fun x =>
    if x.claiming.contains id then x
    else { x with stack := onEntry id (fun e => if e.pinned then e else { e with got := 0 }) x.stack }

/-- Lift the first of these entries that can get its slots; one that cannot is passed over (spec/04 R80). -/
def liftFirst (c : Nat) : List Entry → State → State
  | [], s => s
  | e :: r, s =>
    if (getSlotsNow c e.id e.kind.slots true 64 s).isSome then
      match getSlots s c e.id e.kind.slots true with
      | .have_ s => beginRise s c e.id
      | .soon s => s
      | .none_ => s
    else liftFirst c r (leaveSlots c e.id s)

/-- Entries deeper than 3 give back the slots that a lift had for them. -/
def leaveDeep (s : State) (c : Nat) : State :=
  (((s.ctx c).stack.drop 4).filter fun e => e.res == .subsoil || e.res == .bedrock).foldl (fun s e => leaveSlots c e.id s) s

/-! ## Retiring a parcel -/

/-- Where each lane of a context stands. -/
def allParked (x : Ctx) : Bool := x.k.parked && x.l.parked && x.cl.parked && x.sl.parked

/-- The parcel retires: its entries and its token queues are gone (spec/03 R50, spec/04 R72), and it counts as
arrived at the barriers of its team (spec/03 R60). Accesses of K that have issued still perform. -/
def retireParcel (s : State) (c : Nat) : State :=
  let s := s.modCtx c fun x =>
    { x with
      retired := true, stack := [], infl := [], sigWait := [], tq := Vector.replicate 16 []
      strm := Vector.replicate 16 Strm.init, readSigs := [], sigDue := [], dueFlt := none, monw := none, bar := none }
  let s := [Lane.k, .l, .c, .s].foldl (fun s ln => queueEnds s c ln.num (posOf s c ln)) s
  let s := modTeam s (clusterOf c) fun t => { t with arrivals := t.arrivals.filter fun a => a.1 ≠ parcelOf c }
  checkTeamBar s (clusterOf c)

/-- Nothing that the parcel has dispatched is still to complete. -/
def nothingOpen (x : Ctx) : Bool :=
  x.infl.isEmpty && x.readSigs.isEmpty && x.stores.isEmpty && x.strm.toList.all fun t => t.storing.isEmpty

/-- The parcel retires once its four lanes are parked and what they dispatched has completed: in handler state only by END, and not
while a fault of it is to be taken (spec/03 R50, spec/20 R353). -/
def maybeRetire (s : State) (c : Nat) : State :=
  let x := s.ctx c
  if x.resident && !x.retired && allParked x && nothingOpen x && (x.ended || (!inHandler x && x.dueFlt.isNone)) && !isSup c then
    retireParcel s c
  else s

/-- A lane's PARK has completed (spec/09 R210). -/
def markParked (s : State) (c : Nat) (ln : Lane) : State :=
  let pos := posOf s c ln
  let s := s.modCtx c fun x =>
    let y := x.lane ln
    perfInstr (x.setLane ln { y with parked := true, parking := false, head := y.head + 1, wait := none, tokWait := none }) ln
  queueEnds s c ln.num pos

/-- A lane has parked (spec/09 R210). -/
def parkLane (s : State) (c : Nat) (ln : Lane) : State := maybeRetire (markParked s c ln) c

/-- END: K retires the parcel; no lane issues any more (spec/03 R50). A READ or WRITE that stands partway through its run has
dispatched the tiles issued so far, which complete; its remaining count and its `sig=` token are dropped (DESIGN CHOICE, log 60). -/
def endLanes (s : State) (c : Nat) : State :=
  let s := s.modCtx c fun x =>
    let stop := fun y : LaneSt => { y with parked := true, parking := false, wait := none, tokWait := none, remain := none }
    perfInstr { x with
      ended := true
      k := { stop x.k with head := x.k.head + 1 }
      l := stop x.l
      cl := stop x.cl
      sl := stop x.sl } .k
  maybeRetire s c

/-! ## Commit -/

/-- Tokens of a queue that dispatched instructions have claimed (spec/04 R84). -/
def heldTokens (x : Ctx) (q : Nat) : Nat :=
  x.infl.foldl (fun n j => n + (j.toks.filter fun t => t.1 == q).foldl (fun m t => m + t.2.length) 0) 0

/-- A push of `n` tokens finds room (spec/09 R203). -/
def tokenRoom (x : Ctx) (q n : Nat) : Bool := decide ((vget x.tq q []).length + heldTokens x q + n ≤ 63)

/-- Push `n` tokens. -/
def pushTokens (x : Ctx) (q n : Nat) (who : Word) : Ctx :=
  { x with tq := vput x.tq q (vget x.tq q [] ++ List.replicate n who) }

/-- Give an entry its value in a stack, and unpin it. -/
def setVal (id : Nat) (v : Val) (l : List Entry) : List Entry :=
  onEntry id (fun e => { e with val := some v, kind := v.kind, pinned := false }) l

/-- A pending result of the stack takes its storage: a till slot by R73, else below (spec/04 R86). -/
def placeResult (s : State) (c : Nat) (id : Nat) : State :=
  match (s.ctx c).stack.find? fun e => e.id == id with
  | none => s
  | some e => if e.res ≠ .pending then s else giveStorage c s e

/-- What the oldest dispatched instruction pins is pinned no more, as at its commit (spec/04 R86). -/
def release (x : Ctx) : Ctx :=
  match x.infl with
  | [] => x
  | j :: rest =>
    { x with infl := rest, stack := j.unpin.foldl (fun l id => onEntry id (fun e => { e with pinned := false }) l) x.stack }

/-- Get the storage of one pending result before its commit: till slots by R73, or room below where R73 gives none; where there is
none below, it waits unless the entries can be laid out anew beside what is pinned (spec/20 R366; DEDUCED, log 15). The answer says whether nothing must be waited for any more (spec/04 R86). -/
def prepResult (c : Nat) (r : State × Bool) (id : Nat) : State × Bool :=
  match (r.1.ctx c).stack.find? fun e => e.id == id with
  | none => r
  | some e =>
    if e.res ≠ .pending then r
    else match getSlots r.1 c id e.kind.slots false with
      | .have_ s => (s, r.2)
      | .soon s => (s, false)
      | .none_ => match sinkDest (r.1.ctx c) e.kind.image 0 with
        | .after d => (beginDown r.1 c d, false)
        | .none_ => if (layOut (release (r.1.ctx c)) (layoutSlots r.1 c) id true).isSome then r else (r.1, false)
        | .subsoil | .bedrock => r

/-- Make a result entry a value, in the stack and in the snapshots of later instructions (spec/04 R86). -/
def commitResult (c : Nat) (s : State) (r : Nat × Val) : State :=
  let s := s.modCtx c fun x =>
    { x with
      stack := setVal r.1 r.2 x.stack
      infl := x.infl.map fun j => { j with stack := setVal r.1 r.2 j.stack } }
  placeResult s c r.1

/-- The larger of two magnitude patterns (spec/07 R151). -/
def maxW (a b : W32) : W32 := if a.toNat < b.toNat then b else a

/-- The effects of a committing instruction on the registers of its context (spec/04 R86). -/
def commitRegs (j : Infl) (x : Ctx) : Ctx :=
  let x := match j.am with
    | some (v, m) => { x with am := vput x.am v (maxW (vget x.am v 0) m) }
    | none => x
  let x := { x with cvtStat := x.cvtStat ||| j.stat, cvtSr := j.sr.getD x.cvtSr }
  let x := match j.latch, j.landing with
    | some (k, _), some v => { x with lat := vput x.lat k ⟨v, true, false, none⟩ }
    | _, _ => x
  let x := match j.dep with
    | some (k, v) =>
      let t := vget x.strm k Strm.init
      { x with strm := vput x.strm k { t with dep := t.dep ++ [v], reserved := t.reserved - 1 } }
    | none => x
  let x := j.took.foldl (fun x (k, _, _) =>
    let t := vget x.strm k Strm.init
    { x with strm := vput x.strm k { t with claimed := t.claimed - 1 } }) x
  { x with stack := j.unpin.foldl (fun l id => onEntry id (fun e => { e with pinned := false }) l) x.stack }

/-- The registers of R89 after a commit: the entries are those after the committed instruction, each where it now
resides. -/
def stackRegs (x : Ctx) : Ctx :=
  match x.infl with
  | [] => setStackRegs x x.stack.length
  | j :: _ =>
    let now := j.stack.map fun e => (x.stack.find? fun a => a.id == e.id).getD e
    let y := setStackRegs { x with stack := now, infl := [] } j.stack.length
    { x with cDepth := y.cDepth, cRes := y.cRes }

/-- The instruction is a SIG. -/
def isSig : Instr → Bool
  | .sig .. => true
  | _ => false

/-- Count a completed instruction of a core engine (spec/14 R303). -/
def countEngine (s : State) (core unit : Nat) : State :=
  if 4 ≤ unit && unit ≤ 7 then
    let x := s.core core
    s.setCore core { x with heads := vput x.heads (unit - 4) (vget x.heads (unit - 4) 0 + 1) }
  else s

/-- Commit the oldest dispatched instruction of a context, which has met no fault (spec/04 R86, R417). -/
def commitOldest (s : State) (c : Nat) : State :=
  match (s.ctx c).infl with
  | [] => s
  | j :: rest =>
    let pos := posOf s c .c
    let s := s.modCtx c fun x => { x with infl := rest }
    let s := j.results.foldl (commitResult c) s
    let s := s.modCtx c (commitRegs j)
    let s := countEngine s (coreOf c) j.unit
    let s := match j.sig with
      | none => s
      | some (q, n) => s.modCtx c fun x =>
        if x.sigWait.isEmpty && tokenRoom x q n then pushTokens x q n pos
        else { x with sigWait := x.sigWait ++ [SigPush.mk q n pos s.cycle (isSig j.i)] }
    let s := s.modCtx c stackRegs
    match j.i with
    | .park _ => parkLane s c .c
    | _ => maybeRetire (s.modCtx c fun x => perfInstr { x with cl := { x.cl with head := x.cl.head + 1 } } .c) c

/-! ## Unwinding -/

/-- Undo what a dispatched instruction took (spec/04 R88). -/
def undo (x : Ctx) (j : Infl) : Ctx :=
  let x := j.took.reverse.foldl (fun x (k, e, r) =>
    let t := vget x.strm k Strm.init
    let t := { t with arr := e :: t.arr, tpos := t.tpos - 1, rowc := r, claimed := t.claimed - 1 }
    { x with strm := vput x.strm k t }) x
  let x := j.cursor.foldl (fun x (k, r) =>
    { x with strm := vput x.strm k { vget x.strm k Strm.init with rowc := r } }) x
  let x := j.toks.foldl (fun x (q, ps) => { x with tq := vput x.tq q (ps ++ vget x.tq q []) }) x
  let x := match j.recv with
    | some k => { x with arrived := vput x.arrived k true }
    | none => x
  let x := match j.latch with
    | some (k, l) => { x with lat := vput x.lat k l }
    | none => x
  match j.dep with
  | some (k, _) =>
    { x with strm := vput x.strm k { vget x.strm k Strm.init with reserved := (vget x.strm k Strm.init).reserved - 1 } }
  | none => x

/-- A quad is pinned by the instruction that waits at dispatch: it has its value, and no dispatched one pins it. -/
def pinnedWaiting (x : Ctx) (e : Entry) : Bool :=
  e.pinned && e.val.isSome && !(x.infl.any fun j => j.unpin.contains e.id)

/-- The quad that the instruction waiting at dispatch has pinned is pinned no more. -/
def unpinWaiting (x : Ctx) : Ctx :=
  { x with stack := replaceWhere (pinnedWaiting x) (fun e => { e with pinned := false }) x.stack }

/-- The slots given to entries below the till are free again. -/
def freeGot (e : Entry) : Entry := if e.res = .pending then e else { e with got := 0 }

/-- The instruction that waits at dispatch gives up what it has claimed: its entries take storage again. -/
def giveBack (s : State) (c : Nat) : State :=
  let l := (s.ctx c).stack.filter fun e => e.res == .buffer
  l.foldl (giveStorage c) (s.modCtx c fun x =>
    let x := unpinWaiting x
    { x with copied := [], claiming := [], stack := x.stack.map freeGot })

/-- A restored entry that stands on the stack keeps the residence it now has; another takes storage again. -/
def restoreEntry (c : Nat) (now : List Entry) (s : State) (e : Entry) : State :=
  if now.any fun a => a.id == e.id && a.res != .pending then s else giveStorage c s e

/-- Cancelled instructions of the compute lane that have made an event will make it no second time: an event counts once, however
often a trap or a pre-emption cancels its instruction (spec/14 R325; DEDUCED, log 61). -/
def keepMade (s : State) (c : Nat) : State :=
  let l := (s.ctx c).infl
  let made := (List.range l.length).filterMap fun k => l[k]?.bind fun j =>
    if j.toks.isEmpty && j.recv.isNone then none else some (posOf s c .c + wd k)
  setRec s (clusterOf c) ((recOf s (clusterOf c)).map fun r => { r with undone := r.undone ++ made })

/-- Cancel every dispatched instruction from the oldest on and restore the state before it (spec/04 R88). -/
def unwindAll (s : State) (c : Nat) : State :=
  match (s.ctx c).infl with
  | [] => s
  | j :: _ =>
    let s := if (recOf s (clusterOf c)).isSome then keepMade s c else s
    let x := s.ctx c
    let now := x.stack
    let x := x.infl.reverse.foldl undo x
    let back := j.stack.map fun e => ((now.find? fun a => a.id == e.id).map fun a => { a with pinned := false, val := e.val, got := 0 }).getD
      { e with res := .pending, pinned := false, got := 0 }
    let s := s.setCtx c { x with
      infl := [], stack := back, copied := [], claiming := [], stepOld := 0, cl := { x.cl with pc := j.pc, loops := j.loops, wait := none, tokWait := none } }
    let s := j.stack.foldl (restoreEntry c now) s
    s.modCtx c fun x => setStackRegs x x.stack.length

/-- Commit the dispatched instructions of a context in order, up to the first that has met a fault: what a stop of the
context does for its compute lane (spec/14 R307, spec/20 R352, R358). -/
def commitsFrom (c : Nat) : Nat → State → State
  | 0, s => s
  | n + 1, s => match (s.ctx c).infl with
    | [] => s
    | j :: _ => if j.flt.isSome then s else commitsFrom c n (commitOldest s c)

/-- The instruction of the compute lane that waits at dispatch starts over, and those dispatched commit up to the first
that has met a fault. -/
def commitsToTrap (s : State) (c : Nat) : State :=
  let s := giveBack s c
  commitsFrom c (s.ctx c).infl.length s

/-- Drain the compute lane of a context: what has met a fault and all later instructions are cancelled. -/
def drain (s : State) (c : Nat) : State := unwindAll (commitsToTrap s c) c

end Sys2Proof.Machine
end

