-- ==== Sys2Proof/Machine/Ops.lean ====
section
/-! DEFINITION. The named operations of the machine over lanes and registers, and TAKING A FAULT (spec/20 R351-R362,
spec/21 R375) with the return from one. -/

namespace Sys2Proof.Machine

/-! ## Waits -/

/-- The lane waits for something: the wait begins where none for the same object is in progress. A wait of R311 goes on while the
instruction waits for something else: an operand at dispatch, its turn in replay, a stack (spec/14 R311). -/
def LaneSt.waitFor (y : LaneSt) (w : Wait) : LaneSt :=
  let tok := match y.wait with
    | some v => if v.logged then some v else y.tokWait
    | none => y.tokWait
  if w.logged then
    { y with wait := some ((tok.filter fun v => v.kind == w.kind && v.obj == w.obj).getD w), tokWait := none }
  else match y.wait with
    | some v => if v.kind = w.kind && v.obj = w.obj then y else { y with wait := some w, tokWait := tok }
    | none => { y with wait := some w, tokWait := tok }

/-- A lane's next instruction waits (spec/14 R311). -/
def blockLane (s : State) (c : Nat) (ln : Lane) (kind obj amount : Nat) (addr : Word) (logged : Bool) : State :=
  s.modCtx c fun x => x.setLane ln ((x.lane ln).waitFor ⟨kind, obj, amount, addr, s.cycle, logged⟩)

/-- A wait that R311 does not list and that ends by itself. -/
def blockQuiet (s : State) (c : Nat) (ln : Lane) : State := blockLane s c ln 15 0 0 0 false

/-- A wait that R311 does not list, for a partner that a stop may hold up (spec/14 R310). -/
def blockPartner (s : State) (c : Nat) (ln : Lane) : State := blockLane s c ln 13 0 0 0 false

/-- A wait that R311 does not list and that only the team itself can end (spec/20 R369). -/
def blockTeam (s : State) (c : Nat) (ln : Lane) : State := blockLane s c ln 14 0 0 0 false

/-! ## Taking a fault -/

/-- The state with a context's fault record written, and its resume points set from its lanes (spec/20 R352,
R355). -/
def writeFault (s : State) (c : Nat) (f : Flt) (cause pos word : Word) : State :=
  s.modCtx c fun x =>
    { setResumes x with frCause := cause, frPos := pos, frWord := word, frAddr := f.addr, frInfo := f.info }

/-- The kernel of a context names a trap vector; a supervisor context has the firmware's (spec/20 R351; log 11). -/
def hasHandler (x : Ctx) (c : Nat) : Bool := isSup c || x.trapOff != 0

/-- The waits of a context's lanes are broken off: one that has lasted long enough is recorded as not done (spec/14 R311). -/
def breakWaits (s : State) (c : Nat) : State :=
  [Lane.k, .l, .c, .s].foldl (fun s ln =>
    let y := (s.ctx c).lane ln
    let v := standingValue (s.ctx c) ln
    let s := logWait (logWait s (dieOf c) (posNext s c ln) noPos y.tokWait v false) (dieOf c) (posNext s c ln) noPos y.wait v false
    s.modCtx c fun x => x.setLane ln { x.lane ln with wait := none, tokWait := none }) s

/-- Enter the handler: only K issues, from the trap vector (spec/20 R352). A parked K lane runs the handler too, as does one whose
PARK has issued behind a store that has still to perform; its resume point keeps that it has parked (spec/20 R353). -/
def enterHandler (s : State) (c : Nat) : State :=
  let s := if (s.ctx c).k.parking then markParked s c .k else s
  (breakWaits (dropIssue s c) c).modCtx c fun x =>
    let v := if isSup c then Config.supervisorVector c else x.hdr + x.trapOff.zeroExtend 64
    { x with k := { x.k with pc := v, parked := false, passBp := false, passBk := false, hitStop := false }, monw := none }

/-- Steps 2 and 3 of R351: the handler, or the supervisor, with a fault met in handler state recorded as a double
fault, whose DETAIL is the cause within (R356) and which fills no other field (R357). A double fault of a supervisor context is fatal (spec/22 R414). -/
def passFault (s : State) (c lane : Nat) (f : Flt) (pos word : Word) (precise deferred engine : Bool) : State :=
  let x := s.ctx c
  let pending := !x.heldFlts.isEmpty
  if hasHandler x c && !inHandler x then
    enterHandler (writeFault s c f (causeWord f lane precise deferred true pending engine) pos word) c
  else if isSup c then fatal s 0x82
  else
    let g := if inHandler x then ⟨0x11, f.cause, 0, 0⟩ else f
    let s := writeFault s c g (causeWord g lane precise deferred (inHandler x) pending engine) pos word
    holdTeam (pushMsg s (dieOf c) (msgOf s c)) (clusterOf c) g.cause

/-- Take a fault of a context by the first of the debugger, the handler and the supervisor that applies (spec/20
R351). -/
def takeNow (s : State) (c lane : Nat) (f : Flt) (pos word : Word) (precise deferred engine : Bool) : State :=
  let x := s.ctx c
  if stopsFaults x then
    let s := writeFault s c f (causeWord f lane precise deferred (inHandler x) (!x.heldFlts.isEmpty) engine) pos word
    stopScope (s.modCtx c fun x => { x with dbgFlt := some (f, lane, false) }) c 7 0
  else passFault s c lane f pos word precise deferred engine

/-- The marked entry of a stream becomes a retry entry (spec/21 R378). -/
def markRetry : List ArrEnt → List ArrEnt
  | [] => []
  | e :: r => match e.st with
    | .bad _ => { e with st := .retry } :: r
    | .flight _ | .flightBad _ | .here _ | .retry => e :: markRetry r

/-- Cancel the dispatched instructions of a compute lane from the oldest on, which has met the fault `f`, and say what is to
be raised at it: a TRAP has completed, and its resume point is the next word (spec/04 R88, spec/20 R353, spec/21 R378). -/
def unwindTrap (s : State) (c : Nat) (j : Infl) (f : Flt) : State × DueFlt :=
  let s := unwindAll s c
  let pos := posOf s c .c
  let s := match j.deferred with
    | some k => s.modCtx c fun x =>
      let t := vget x.strm k Strm.init
      { x with strm := vput x.strm k { t with arr := markRetry t.arr } }
    | none => s
  let s := match j.i with
    | .trap .. => advance s c .c 4
    | _ => s
  (s, ⟨f, Lane.c.num, pos, j.word, true, j.deferred.isSome, false⟩)

/-- The faulting compute-lane instruction that stands first, once every earlier one has committed. -/
def trapOf (x : Ctx) : Option (Infl × Flt) :=
  match x.infl with
  | [] => none
  | j :: _ => j.flt.map fun f => (j, f)

/-- An engine fault on its way is held for the next ERET (spec/20 R354). -/
def holdFlt (s : State) (c : Nat) (e : DueFlt) : State :=
  s.modCtx c fun x =>
    { x with heldFlts := x.heldFlts ++ [⟨e.flt, c, e.lane, e.pos⟩], frCause := x.frCause ||| wd (2 ^ 19) }

/-- Take a fault at K's boundary. The compute lane's dispatched instructions complete first; where one of them has met its
own fault, it is cancelled with the later ones, but it is the one taken before a fault of the S lane of the same cycle
(spec/20 R352, R358). A lane that parks meanwhile does not make the parcel retire (spec/20 R353). An engine fault that waited for
the boundary behind a fault of K is held. -/
def takeAtBoundary (s : State) (c : Nat) (e : DueFlt) : State :=
  let due := (s.ctx c).dueFlt
  let s := commitsToTrap (s.modCtx c fun x => { x with dueFlt := some e }) c
  let s := s.modCtx c fun x => { x with dueFlt := none }
  let (s, e) := match trapOf (s.ctx c) with
    | some (j, f) => if e.lane = 3 && !e.engine then unwindTrap s c j f else (unwindAll s c, e)
    | none => (s, e)
  let s := takeNow s c e.lane e.flt e.pos e.word e.precise e.deferred e.engine
  match due with
  | some d => if d.engine then holdFlt s c d else s
  | none => s

/-- K stands at a boundary: no reply that it waits for is outstanding, and none of its held stores can still meet a fault. -/
def Ctx.kSettled (x : Ctx) : Bool := x.kmiss.isNone && x.stores.all fun e => e.undo.isNone

/-- Take a fault of a context. Until K stands at a boundary the fault waits; one of K itself comes up again behind the store that it
waits for. A second one there, or one that meets a fault which a debugger stop has recorded and not yet passed on, is held where an
engine brought it, and else its instruction has had no effect (spec/20 R351, R352, R358). -/
def takeDue (s : State) (c : Nat) (e : DueFlt) : State :=
  let first := (s.ctx c).dueFlt.isNone && (s.ctx c).dbgFlt.isNone
  if first && (s.ctx c).kSettled then takeAtBoundary s c e
  else if first && !e.engine && e.lane == 0 then blockQuiet s c .k
  else if first then s.modCtx c fun x => { x with dueFlt := some e }
  else if e.engine then holdFlt s c e
  else s

/-- What K waited for has come: a fault that waits for K's boundary is taken (spec/20 R352). -/
def takeWaiting (s : State) (c : Nat) : State :=
  match (s.ctx c).dueFlt with
  | some e => if (s.ctx c).kSettled then takeAtBoundary (s.modCtx c fun x => { x with dueFlt := none }) c e else s
  | none => s

/-- Take a fault of a context (spec/20 R351, R352). -/
def takeFaultAt (s : State) (c lane : Nat) (f : Flt) (pos word : Word) (precise deferred engine : Bool) : State :=
  takeDue s c ⟨f, lane, pos, word, precise, deferred, engine⟩

/-- Take a fault that is precise at a lane's next instruction, whose word is `word`. -/
def takeFault (s : State) (c : Nat) (ln : Lane) (f : Flt) (word : Word) : State :=
  takeFaultAt s c ln.num f (posOf s c ln) word true false false

/-- Take an engine fault: at once, held in handler state, or at supervisor level where the parcel has retired
(spec/20 R354, spec/21 R375). -/
def takeEngineFault (s : State) (e : EngFlt) : State :=
  let x := s.ctx e.c
  if x.retired || !x.resident then
    takeTeamFault s ⟨e.flt, e.c, e.lane, [⟨e.c, e.flt, e.pos, 0, true⟩]⟩
  else if inHandler x && decide (x.heldFlts.length < 16) then
    s.modCtx e.c fun x => { x with heldFlts := x.heldFlts ++ [e], frCause := x.frCause ||| wd (2 ^ 19) }
  else takeFaultAt s e.c e.lane e.flt e.pos 0 false false true

/-- Take the first engine fault that was held in handler state (spec/20 R354). -/
def takeHeld (s : State) (c : Nat) : State :=
  match (s.ctx c).heldFlts with
  | [] => s
  | e :: r => takeEngineFault (s.modCtx c fun x => { x with heldFlts := r }) e

/-- Resume one lane at its resume point (spec/20 R353, R354): one at a PARK that has issued parks when what it issued before
has completed (spec/09 R210); a written resume point discards the remaining count of
a READ or WRITE (spec/05 R418), and a breakpoint matches there anew (spec/14 R309). -/
def resumeLane (y : LaneSt) (r : Word) (written : Bool) : LaneSt :=
  { y with
    pc := r &&& ~~~1
    parked := bitAt r 0 && !y.parking
    wait := none
    tokWait := none
    remain := if written then none else y.remain
    passBp := false
    passBk := false }

/-- Resume every lane of a context at its resume point. -/
def resumeLanes (x : Ctx) : Ctx :=
  { x with
    k := resumeLane x.k x.frResume[0] x.resumeWritten[0]
    l := resumeLane x.l x.frResume[1] x.resumeWritten[1]
    cl := resumeLane x.cl x.frResume[2] x.resumeWritten[2]
    sl := resumeLane x.sl x.frResume[3] x.resumeWritten[3] }

/-- The fault of a command is still to be taken: it waits at its engine, for K's boundary, in handler state, or where a debugger stop
has recorded it or it stands behind such a one (spec/20 R351, R352, R354, spec/21 R375). One that has moved with its team still names
the cluster where it was met. -/
def faultWaits (s : State) (cl : Nat) (k : Cmd) : Bool :=
  let y := s.ctx k.c
  let mine := fun p : Word => posKey p == posKey (posEng cl k.eng.unit k.no)
  (y.heldFlts ++ (s.cluster cl).flts).any (fun e => mine e.pos) || y.dueFlt.any (fun e => mine e.pos) ||
    (y.dbgFlt.isSome && mine y.frPos) || y.dbgNext.any fun t => t.recs.any fun r => mine r.pos

/-- Relocations of a context that a fault has suspended go on, once their faults have been taken (spec/21 R390). -/
def unsuspend (s : State) (c : Nat) : State :=
  let cl := clusterOf c
  let mine := fun k : Cmd => k.c == c && k.phase == .suspended && !faultWaits s cl k
  s.modCluster cl fun x => { x with cmds := replaceWhere mine (fun k => { k with phase := .running }) x.cmds }

/-- The return from a handler (spec/20 R354): HANDLER clears, the lanes resume, a suspended relocation goes on, a
held engine fault is taken, and a parcel whose four lanes are parked retires. -/
def returnFault (s : State) (c : Nat) : State :=
  let s := s.modCtx c fun x =>
    perfInstr (resumeLanes { x with
      frCause := x.frCause &&& ~~~ wd (2 ^ 18 + 2 ^ 19), k := { x.k with head := x.k.head + 1 } }) .k
  let s := if isSup c then s else unsuspend s c
  maybeRetire (takeHeld s c) c

/-! ## Lanes -/

/-- The device lets no lane of a context issue: its team is held or being saved, or its die is in reset, or the module is
stopped (spec/20 R361, spec/03 R64, spec/22 R406, R414). -/
def halted (s : State) (c : Nat) : Bool :=
  (s.die (dieOf c)).inReset || s.svc.boot == 3 ||
    (!isSup c && match (s.cluster (clusterOf c)).team with
      | some t => t.held.isSome || t.saving.isSome
      | none => false)

/-- A commit in the compute lane counts towards a step of it, unless its instruction was dispatched before (spec/14 R310). -/
def countStep (x : Ctx) : Ctx :=
  if 0 < x.stepOld then { x with stepOld := x.stepOld - 1 }
  else if x.stopped && bits x.dbgCtl.toNat 20 2 == 2 then { x with stepLeft := x.stepLeft - 1 }
  else x

/-- The team of a context is being saved (spec/03 R64). -/
def teamSaving (s : State) (c : Nat) : Bool :=
  !isSup c && match (s.cluster (clusterOf c)).team with
    | some t => t.saving.isSome
    | none => false

/-- Counting pauses while the device lets no lane of the context issue, as while a debugger stops it (spec/14 R313). -/
def keepPerf (before : State) (c : Nat) (s : State) : State :=
  if halted before c then s.modCtx c fun x => { x with perfCnt := (before.ctx c).perfCnt } else s

/-- A lane of a context issues nothing: the debugger has stopped it and does not step it, or the device lets none issue
(spec/14 R307, R310). -/
def frozen (s : State) (c : Nat) (ln : Lane) : Bool := ((s.ctx c).stopped && !steps (s.ctx c) ln) || halted s c

/-- The context and lane that this turn lets issue. -/
def actor (s : State) : Option (Nat × Lane) :=
  match s.turn.who with
  | .lane c ln => some (c, ln)
  | _ => none

/-- Run a meaning on the lane whose turn it is; an instruction of a lane has no meaning elsewhere. -/
def onLane (s : State) (f : Nat → Lane → Out3) : Out3 :=
  match actor s with
  | some (c, ln) => f c ln
  | none => .fault .noUnit

/-- Run a meaning on the context whose compute lane has the turn. -/
def onKiln (s : State) (f : Nat → Out3) : Out3 :=
  match s.turn.who with
  | .kiln cl => f cl
  | _ => .fault .noUnit

/-- The instruction and literal word as FR_WORD holds them (spec/20 R355). DESIGN CHOICE (log 52): of an illegal word with a K-L
opcode no literal is shown, so FR_WORD[63:32] is 0. -/
def wordOf (i : Instr) : Word :=
  match i with
  | .illegalInstruction w => w.zeroExtend 64
  | _ => match encode i with
    | [w] => wd w
    | [w, l] => wd (w + l * 2 ^ 32)
    | _ => 0

/-! ## Dispatch in the compute lane -/

/-- A dispatched instruction that has taken and made nothing: what the state was just before it (spec/04 R88). -/
def inflOf (x : Ctx) (i : Instr) (word : Word) : Infl where
  i := i
  word := word
  pc := x.cl.pc
  loops := x.cl.loops
  stack := x.stack
  took := []
  cursor := []
  toks := []
  recv := none
  latch := none
  results := []
  am := none
  stat := 0
  sr := none
  dep := none
  sig := none
  landing := none
  pins := 0
  unpin := []
  flt := none
  deferred := none
  unit := 15

/-- Add a dispatched instruction to a context, whose compute lane goes on at `pc` with `loops`. -/
def pushInfl (x : Ctx) (j : Infl) (pc : Word) (loops : List (Word × W32)) : Ctx :=
  { x with infl := x.infl ++ [j], copied := [], claiming := [], cl := { x.cl with pc := pc, loops := loops, wait := none, tokWait := none, passBp := false, passBk := false } }

/-- A compute-lane instruction whose fault was found at its dispatch: it takes and makes nothing, and traps once
every earlier instruction has committed (spec/04 R88). -/
def dispatchFault (s : State) (c : Nat) (i : Instr) (word : Word) (f : Flt) (deferred : Option Nat) : State :=
  (giveBack s c).modCtx c fun x =>
    pushInfl x { inflOf x i word with flt := some f, deferred := deferred } x.cl.pc x.cl.loops

/-- A fault that is precise at a lane's next instruction. -/
def faultAt (s : State) (c : Nat) (ln : Lane) (i : Instr) (f : Flt) : State :=
  if ln = .c then dispatchFault s c i (wordOf i) f none else takeFault s c ln f (wordOf i)

/-- The illegal-instruction fault at a lane's next word (spec/08 R166). -/
def illegal (s : State) (c : Nat) (ln : Lane) (i : Instr) : State := faultAt s c ln i ⟨0x01, 0, 0, 0⟩

/-- A lane's next instruction completes, or in the compute lane dispatches with the record `rec`, and the lane goes
to `pc` with `loops` (spec/04 R417). -/
def complete (s : State) (c : Nat) (ln : Lane) (i : Instr) (pc : Word) (loops : List (Word × W32))
    (rec_ : Infl → Infl) : State :=
  if ln = .c then s.modCtx c fun x => pushInfl x (rec_ (inflOf x i (wordOf i))) pc loops
  else goto (s.modCtx c fun x => x.setLane ln { x.lane ln with loops := loops }) c ln pc

/-- `complete` to the next word. -/
def completeNext (s : State) (c : Nat) (ln : Lane) (i : Instr) (rec_ : Infl → Infl) : State :=
  complete s c ln i (((s.ctx c).lane ln).pc + 4) ((s.ctx c).lane ln).loops rec_

/-! ## Scalar registers -/

/-- Read an x register; x0 reads as zero (spec/02 R24). -/
def Ctx.rx (x : Ctx) (r : XReg) : Word := if r = 0 then 0 else x.x[r]

/-- Write an x register; a write to x0 is discarded (spec/09 R182). -/
def Ctx.wx (x : Ctx) (r : XReg) (v : Word) : Ctx := if r = 0 then x else { x with x := x.x.set r v }

/-- Read a predicate; p0 is true (spec/02 R24). -/
def Ctx.rp (x : Ctx) (r : PReg) : Bool := if r = 0 then true else x.p[r]

/-- Write a predicate; a write to p0 is discarded (spec/09 R182). -/
def Ctx.wp (x : Ctx) (r : PReg) (v : Bool) : Ctx := if r = 0 then x else { x with p := x.p.set r v }

/-- The guard holds (spec/08 R156). -/
def guardHolds (x : Ctx) (g : Guard) : Bool := x.rp g.p != g.neg

/-- The first register named that lies beyond the allocation (spec/03 R43). -/
def beyond (x : Ctx) (regs : List XReg) : Option XReg := regs.find? fun r => decide (x.nx ≤ r.val)

/-- An instruction of K whose effects stay in K's own registers and held stores, so that they can be taken back: everything else
waits behind a store that can still meet a fault (log 57). -/
def staysInK (i : Instr) : Bool :=
  match i with
  | .ld .. | .lds .. | .lda .. | .ldaSys .. | .st .. | .str .. | .strSys .. | .fence .. | .br .. | .call .. | .calli .. | .jmpi ..
  | .doImm .. | .doReg .. | .enddo | .nop .. | .csrr .. | .add .. | .sub .. | .mul .. | .mulh .. | .mulhu .. | .div .. | .divu ..
  | .rem .. | .remu .. | .and .. | .or .. | .xor .. | .shl .. | .shr .. | .sra .. | .min .. | .max .. | .minu .. | .maxu ..
  | .addi .. | .andi .. | .ori .. | .xori .. | .shli .. | .shri .. | .srai .. | .li .. | .lih .. | .lea .. | .cmpEq .. | .cmpNe ..
  | .cmpLt .. | .cmpLtu .. | .cmpGe .. | .cmpGeu .. | .pand .. | .por .. | .pxor .. | .pandn .. | .clz .. | .ctz .. | .popc ..
  | .brev .. | .bperm .. | .clmull .. | .clmulh .. => true
  | _ => false

/-- The class of a held store (spec/06 R124). -/
def HeldStore.cls (e : HeldStore) : Nat := bits e.info.toNat 4 4

/-- An instruction comes behind a held store wherever its own access goes: by the edges of spec/06 R121 out of a FENCE whose mask
covers the store's class, a barrier, a launch, and the return from a handler (spec/20 R354), or since the store can still meet a fault
and the instruction could not be taken back (spec/21 R377; DESIGN CHOICE, log 57). -/
def HeldStore.stops (e : HeldStore) (i : Instr) : Bool :=
  (e.undo.isSome && !staysInK i) || match i with
    | .fence _ m => bitAt m e.cls
    | .eret .. | .bar .. | .launch .. => true
    | _ => false

/-- An instruction of K waits behind some store that is held. No other is held up by a store but by the order of accesses
(spec/10 R218, `storesFirst`). -/
def waitsStores (x : Ctx) (i : Instr) : Bool := x.stores.any fun e => e.stops i

/-- Two runs of bytes meet. -/
def meets : Loc × Nat → Loc × Nat → Bool
  | (.phys a _ _, n), (.phys b _ _, m) => decide (a < b + m) && decide (b < a + n)
  | (.cl k a, n), (.cl j b, m) | (.co k a, n), (.co j b, m) => k == j && decide (a < b + m) && decide (b < a + n)
  | _, _ => false

/-- A held store comes before an access of K of FR_INFO `info` to `ps`: they are of one class or meet, or the access is a release
(spec/06 R119, R121); so it does where its place is not known yet (log 57). -/
def HeldStore.before (e : HeldStore) (info : Word) (rel : Bool) (ps : List (Loc × Nat)) : Bool :=
  rel || e.info == info || e.place.isEmpty || e.place.any fun p => ps.any (meets p)

/-- Some held store comes before an access of K. -/
def storesFirst (x : Ctx) (info : Word) (rel : Bool) (ps : List (Loc × Nat)) : Bool :=
  x.stores.any fun e => e.before info rel ps

/-- What every K instruction does before its own effect: the word is checked, the guard read, the registers it
names checked against the allocation (spec/08 R167, spec/09 R180, R182), and it waits behind a store that it must follow. `len` is its
length in bytes. -/
def kInstr (i : Instr) (g : Guard) (len : Nat) (regs : List XReg) (body : Nat → State → Out3) (s : State) : Out3 :=
  onLane s fun c ln =>
    if ln ≠ .k || !i.wf then .next (illegal s c ln i)
    else if !guardHolds (s.ctx c) g then .next (advance s c .k len)
    else match beyond (s.ctx c) regs with
      | some r => .next (takeFault s c .k ⟨0x03, 0, 0, wd r.val⟩ (wordOf i))
      | none => if waitsStores (s.ctx c) i then .next (blockQuiet s c .k) else body c s

/-- A K instruction whose whole effect is on the registers of its context. -/
def kReg (i : Instr) (g : Guard) (len : Nat) (regs : List XReg) (f : Ctx → Ctx) (s : State) : Out3 :=
  kInstr i g len regs (fun c s => .next (advance (s.modCtx c f) c .k len)) s

/-- What every instruction of the common block does before its own effect (spec/08 R162): in K the guard is read
and the registers are checked, in L, C and S there is no guard. -/
def common (i : Instr) (g : Guard) (regs : List XReg) (body : Nat → Lane → State → Out3) (s : State) : Out3 :=
  onLane s fun c ln =>
    if !i.wf || (ln ≠ .k && !i.unguarded) then .next (illegal s c ln i)
    else if ln ≠ .k then body c ln s
    else if !guardHolds (s.ctx c) g then .next (advance s c .k 4)
    else match beyond (s.ctx c) regs with
      | some r => .next (takeFault s c .k ⟨0x03, 0, 0, wd r.val⟩ (wordOf i))
      | none => if waitsStores (s.ctx c) i then .next (blockQuiet s c .k) else body c .k s

/-! ## Tokens -/

/-- Lanes that the device serves before a waiter of rank `rank` on one queue: K, L, C, S in that order, then the
engines (spec/09 R204). One of them stands in a wait that the queue's count could end. -/
def servedFirst (x : Ctx) (rank q : Nat) : Bool :=
  let n := (vget x.tq q []).length
  !x.stopped && (([Lane.k, .l, .c, .s].filter fun ln => decide (ln.num < rank) && (ln == .k || !inHandler x)).any fun ln =>
    !(x.lane ln).parked && match (x.lane ln).wait with
      | some w => w.kind == 0 && w.obj == q && decide (w.amount ≤ n)
      | none => false)

/-- Take `n` tokens from a queue, oldest first, by a taker of position `who`: the pushers of those taken, and the
context after. -/
def takeTokens (x : Ctx) (q n : Nat) (who : Word) : Option (List Word × Ctx) :=
  let l := vget x.tq q []
  if n ≤ l.length then some (l.take n, { x with tq := vput x.tq q (l.drop n), taker := vput x.taker q who }) else none

/-- The pusher of the last of the tokens taken, the setter of the wait (spec/14 R311). -/
def setterOf (l : List Word) : Word := (l.getLast?).getD noPos

/-- Push tokens to a context, which discards them where its parcel has retired (spec/03 R50). -/
def pushTo (s : State) (c q n : Nat) (who : Word) : State :=
  if (s.ctx c).retired then s else s.modCtx c fun x => pushTokens x q n who

/-- The event at a position has been made before, by an instruction of the compute lane that was then cancelled (spec/04 R88). -/
def madeBefore (s : State) (cl : Nat) (pos : Word) : Bool :=
  match recOf s cl with
  | some r => r.undone.any fun p => posKey p == posKey pos
  | none => false

/-- Answer a gate of replay at a lane: go on, wait, or stop the team (spec/14 R324, spec/22 R399). -/
def gated (s : State) (c : Nat) (ln : Lane) (pos partner : Word) (kind : Nat) (f : Option Word → Out3) : Out3 :=
  if isSup c || madeBefore s (clusterOf c) pos then f none
  else match recGate s (clusterOf c) pos partner kind with
  | .go v => f v
  | .hold => .next (blockPartner s c ln)
  | .diverge d q v => .next (divergeAt s c ln.num pos 0x43 d q v)

/-- Note the event that a lane's instruction has made by what `o` answers; until then its lane stood as in `before`. One that
has been made before counts once (spec/14 R325). -/
def noted (before : State) (c : Nat) (ln : Lane) (pos partner : Word) (kind : Nat) (value : Word) (o : Out3) : Out3 :=
  match o with
  | .next s => .next (if madeBefore before (clusterOf c) pos then
      setRec s (clusterOf c) ((recOf s (clusterOf c)).map fun r => { r with undone := r.undone.filter fun p => posKey p != posKey pos })
    else syncAfter before s c ln.num pos partner kind value)
  | .fault f => .fault f
  | .refused r => .refused r

end Sys2Proof.Machine
end

