-- ==== Sys2Proof/Machine/Yelura.lean ====
section
/-! DEFINITION. The Yelura generator (spec/11 R266): a 64-bit Galois LFSR. -/

namespace Sys2Proof.Machine

/-- The state after one Step. -/
def lfsrNext (s : Word) : Word := (s >>> 1) ^^^ (if bitAt s 0 then 0xD800000000000000 else 0)

/-- The state after `n` Steps. -/
def lfsrSteps : Nat → Word → Word
  | 0, s => s
  | n + 1, s => lfsrSteps n (lfsrNext s)

/-- A seed of zero is taken as 1. -/
def seedOf (s : Word) : Word := if s = 0 then 1 else s

/-- Start: 64 steps of warm-up. -/
def lfsrStart (s : Word) : Word := lfsrSteps 64 (seedOf s)

/-- The number whose bit k is the bit of the k-th of `n` Steps, and the state after them. -/
def lfsrTake : Nat → Word → Nat × Word
  | 0, s => (0, s)
  | n + 1, s =>
    let (r, t) := lfsrTake n (lfsrNext s)
    (s.toNat % 2 + 2 * r, t)

/-- The product of two states read as polynomials modulo the generator's polynomial, bit 63 the constant term: a
Step is multiplication by x. `n` counts the coefficients of `b` still to be read, from x^0 up. -/
def gfMulFrom (b : Word) : Nat → Word → Word → Word
  | 0, _, acc => acc
  | n + 1, a, acc => gfMulFrom b n (lfsrNext a) (if bitAt b n then acc ^^^ a else acc)

/-- The product of two states. -/
def gfMul (a b : Word) : Word := gfMulFrom b 64 a 0

/-- x^c with `p` = x^(2^i) for the bit of `c` under consideration. -/
def gfPow : Nat → Nat → Word → Word → Word
  | 0, _, _, acc => acc
  | n + 1, c, p, acc => gfPow n (c / 2) (gfMul p p) (if c % 2 = 1 then gfMul acc p else acc)

/-- Leap(s, c): the state reached by c Steps, with no warm-up. -/
def leap (s : Word) (c : Nat) : Word := gfMul (seedOf s) (gfPow 96 c 0x4000000000000000 0x8000000000000000)

end Sys2Proof.Machine
end

