-- ==== Sys2Proof/Machine/Float.lean ====
section
/-! DEFINITION. Scalar FP32 instructions (spec/09 R189, R190), the special-function unit and its latches (R191-R194)
and SEEDADV (spec/11 R269). No instruction of this file faults but by its word and its registers. -/

namespace Sys2Proof.Machine

/-- The FP32 value in bits [31:0] of a register (spec/09 R189). -/
def Ctx.fx (x : Ctx) (r : XReg) : Num := fp32.decode (bits (x.rx r).toNat 0 32)

/-- An FP32 result: bits [31:0], zero above (spec/09 R189). -/
def fpWord (v : Num) : Word := wd (fp32.encode v)

/-- An FP instruction of two sources that writes an FP32 value. -/
def fpBin (i : Instr) (g : Guard) (d a b : XReg) (f : Num → Num → Num) (s : State) : Out3 :=
  kReg i g 4 [d, a, b] (fun x => x.wx d (fpWord (f (x.fx a) (x.fx b)))) s

/-- An FP compare (spec/09 R190). -/
def fpCmp (i : Instr) (g : Guard) (d : PReg) (a b : XReg) (f : Num → Num → Bool) (s : State) : Out3 :=
  kReg i g 4 [a, b] (fun x => x.wp d (f (x.fx a) (x.fx b))) s

/-- The nearest end of a range for a value rounded to an integer; 0 for a NaN (spec/09 R190). -/
def toRange (rm : Rm) (lo hi : Int) (v : Num) : Int :=
  match v with
  | .nan => 0
  | .inf neg => if neg then lo else hi
  | .fin .. => match v.toInt rm with
    | some i => max lo (min hi i)
    | none => 0

/-- The rounding mode of a V field (spec/09 R190). -/
def modeOf (m : BitVec 2) : Rm := Rm.ofCode m.toNat

/-- FADD (spec/09 R190). -/
def execFadd (g : Guard) (d a b : XReg) (m : BitVec 2) (s : State) : Out3 :=
  fpBin (.fadd g d a b m) g d a b (fun p q => fp32.round (modeOf m) (Num.add (modeOf m) p q)) s

/-- FSUB (spec/09 R190). -/
def execFsub (g : Guard) (d a b : XReg) (m : BitVec 2) (s : State) : Out3 :=
  fpBin (.fsub g d a b m) g d a b (fun p q => fp32.round (modeOf m) (Num.add (modeOf m) p q.neg)) s

/-- FMUL (spec/09 R190). -/
def execFmul (g : Guard) (d a b : XReg) (m : BitVec 2) (s : State) : Out3 :=
  fpBin (.fmul g d a b m) g d a b (fun p q => fp32.round (modeOf m) (p.mul q)) s

/-- FFMA: xD is read and written (spec/09 R190). -/
def execFfma (g : Guard) (d a b : XReg) (m : BitVec 2) (s : State) : Out3 :=
  kReg (.ffma g d a b m) g 4 [d, a, b]
    (fun x => x.wx d (fpWord (fma fp32 (modeOf m) (x.fx a) (x.fx b) (x.fx d)))) s

/-- FMIN (spec/09 R190). -/
def execFmin (g : Guard) (d a b : XReg) (s : State) : Out3 :=
  fpBin (.fmin g d a b) g d a b Num.min s

/-- FMAX (spec/09 R190). -/
def execFmax (g : Guard) (d a b : XReg) (s : State) : Out3 :=
  fpBin (.fmax g d a b) g d a b Num.max s

/-- FEQ (spec/09 R190). -/
def execFeq (g : Guard) (d : PReg) (a b : XReg) (s : State) : Out3 :=
  fpCmp (.feq g d a b) g d a b Num.eq s

/-- FLT (spec/09 R190). -/
def execFlt (g : Guard) (d : PReg) (a b : XReg) (s : State) : Out3 :=
  fpCmp (.flt g d a b) g d a b Num.lt s

/-- FLE (spec/09 R190). -/
def execFle (g : Guard) (d : PReg) (a b : XReg) (s : State) : Out3 :=
  fpCmp (.fle g d a b) g d a b (fun p q => p.lt q || p.eq q) s

/-- ICVTF (spec/09 R190). -/
def execIcvtf (g : Guard) (d a : XReg) (m : BitVec 2) (s : State) : Out3 :=
  kReg (.icvtf g d a m) g 4 [d, a]
    (fun x => x.wx d (fpWord (fp32.round (modeOf m) (Num.ofInt (x.rx a).toInt)))) s

/-- UCVTF (spec/09 R190). -/
def execUcvtf (g : Guard) (d a : XReg) (m : BitVec 2) (s : State) : Out3 :=
  kReg (.ucvtf g d a m) g 4 [d, a]
    (fun x => x.wx d (fpWord (fp32.round (modeOf m) (Num.ofInt (x.rx a).toNat)))) s

/-- FCVTI (spec/09 R190). -/
def execFcvti (g : Guard) (d a : XReg) (m : BitVec 2) (s : State) : Out3 :=
  kReg (.fcvti g d a m) g 4 [d, a]
    (fun x => x.wx d (wdInt (toRange (modeOf m) (-(2 ^ 63 : Nat)) ((2 ^ 63 : Nat) - 1) (x.fx a)))) s

/-- FCVTU (spec/09 R190). -/
def execFcvtu (g : Guard) (d a : XReg) (m : BitVec 2) (s : State) : Out3 :=
  kReg (.fcvtu g d a m) g 4 [d, a]
    (fun x => x.wx d (wdInt (toRange (modeOf m) 0 ((2 ^ 64 : Nat) - 1) (x.fx a)))) s

/-- FCVTB (spec/09 R190). -/
def execFcvtb (g : Guard) (d a : XReg) (m : BitVec 2) (s : State) : Out3 :=
  kReg (.fcvtb g d a m) g 4 [d, a]
    (fun x => x.wx d (wd (bf16.encode (bf16.round (modeOf m) (x.fx a))))) s

/-- BCVTF (spec/09 R190). -/
def execBcvtf (g : Guard) (d a : XReg) (s : State) : Out3 :=
  kReg (.bcvtf g d a) g 4 [d, a]
    (fun x => x.wx d (fpWord (bf16.decode (bits (x.rx a).toNat 0 16)))) s

/-! ## The special-function unit -/

/-- A latch of a context. -/
def Ctx.latch (x : Ctx) (l : Fin 4) : Latch := x.lat[l]

/-- The issue of an SFU operation of function `fn` on a latch: it waits while the latch is BUSY (spec/09 R192). -/
def sfuIssue (i : Instr) (g : Guard) (l : Fin 4) (a : XReg) (fn : Nat) (s : State) : Out3 :=
  kInstr i g 4 [a] (fun c s =>
    let x := s.ctx c
    if (x.latch l).busy then .next (blockQuiet s c .k)
    else
      let op := (fn, (x.rx a).truncate 32)
      .next (advance (s.setCtx c { x with lat := x.lat.set l ⟨(x.latch l).val, false, true, some op⟩ }) c .k 4)) s

/-- RCP (spec/09 R191). -/
def execRcp (g : Guard) (l : Fin 4) (a : XReg) (s : State) : Out3 :=
  sfuIssue (.rcp g l a) g l a 0 s

/-- RSQ (spec/09 R191). -/
def execRsq (g : Guard) (l : Fin 4) (a : XReg) (s : State) : Out3 :=
  sfuIssue (.rsq g l a) g l a 1 s

/-- EXP2 (spec/09 R191). -/
def execExp2 (g : Guard) (l : Fin 4) (a : XReg) (s : State) : Out3 :=
  sfuIssue (.exp2 g l a) g l a 2 s

/-- LOG2 (spec/09 R191). -/
def execLog2 (g : Guard) (l : Fin 4) (a : XReg) (s : State) : Out3 :=
  sfuIssue (.log2 g l a) g l a 3 s

/-- MVL: waits while the latch is not VALID (spec/09 R193); where it is not BUSY either, only the team itself can end the wait
(spec/20 R369). -/
def execMvl (g : Guard) (d : XReg) (l : Fin 4) (s : State) : Out3 :=
  kInstr (.mvl g d l) g 4 [d] (fun c s =>
    let x := s.ctx c
    if (x.latch l).valid then .next (advance (s.setCtx c (x.wx d ((x.latch l).val.zeroExtend 64))) c .k 4)
    else .next (if (x.latch l).busy then blockQuiet s c .k else blockTeam s c .k)) s

/-- SFU_LANDING: the operation in flight on a latch lands (spec/09 R192); without one nothing happens. -/
def execSfuLanding (c : Nat) (l : Fin 4) (s : State) : Out3 :=
  let x := s.ctx c
  match (x.latch l).op with
  | some (fn, a) => .next (s.setCtx c { x with lat := x.lat.set l ⟨sfu fn a, true, false, none⟩ })
  | none => .next s

/-! ## Seeds -/

/-- SEEDADV (spec/11 R269). -/
def execSeedadv (g : Guard) (d a b : XReg) (s : State) : Out3 :=
  kReg (.seedadv g d a b) g 4 [d, a, b] (fun x => x.wx d (leap (x.rx a) (2 ^ 20 * (x.rx b).toNat))) s

end Sys2Proof.Machine
end

