-- ==== Sys2Proof/Machine/Control.lean ====
section
/-! DEFINITION. The common block (spec/08 R162, spec/09 R196-R203, R208-R210), the branches and calls of the K lane
(R196-R198), BAR, YIELD and ERET. In the compute lane an instruction of the common block dispatches and commits
like any other (spec/04 R417). -/

namespace Sys2Proof.Machine

/-! ## Branches and loops -/

/-- The address of a word `o` words from a branch at `pc` (spec/09 R196). -/
def branchTo (pc : Word) (o : BitVec 20) : Word := pc + (o.signExtend 64 <<< 2)

/-- What the forward search of a DO with a count of zero finds (spec/09 R199). -/
inductive Search where
  /-- The address after the matching ENDDO. -/
  | found (s : State) (pc : Word)
  | none_ (s : State)
  | flt (s : State) (f : Flt)
  | wait
  deriving DecidableEq, Repr

/-- The words that a literal word follows are skipped with it, in the K lane. -/
def skipLit (ln : Lane) (w : Nat) : Bool := ln == .k && hasLiteral w

/-- Read at most `n` words from `pc` for the ENDDO that matches; `depth` counts nested DOs, `lit` says that the word
is a literal. A word is told by its opcode, which every lane's map gives alike for the common block (DEDUCED, log 35). -/
def findEnd (c : Nat) (ln : Lane) : Nat → Word → Nat → Bool → State → Search
  | 0, _, _, _, s => .none_ s
  | n + 1, pc, depth, lit, s =>
    match fetchWord s c pc with
    | .flt s f => .flt s f
    | .wait => .wait
    | .word s w =>
      if lit then findEnd c ln n (pc + 4) depth false s
      else match fld w 24 8 with
        | 0x01 => findEnd c ln n (pc + 4) (depth + 1) false s
        | 0x02 =>
          match depth with
          | 0 => .found s (pc + 4)
          | d + 1 => findEnd c ln n (pc + 4) d false s
        | _ => findEnd c ln n (pc + 4) depth (skipLit ln w) s

/-- DO with its count (spec/09 R199). -/
def doLoop (i : Instr) (cnt : W32) (c : Nat) (ln : Lane) (s : State) : Out3 :=
  let y := (s.ctx c).lane ln
  if cnt = 0 then
    match findEnd c ln 65536 (y.pc + 4) 0 false s with
    | .found s pc => .next (complete s c ln i pc y.loops id)
    | .none_ s => .next (illegal s c ln i)
    | .flt s f => .next (faultAt s c ln i f)
    | .wait => .next (blockQuiet s c ln)
  else if 4 ≤ y.loops.length then .next (faultAt s c ln i ⟨0x09, 1, 0, 0⟩)
  else .next (complete s c ln i (y.pc + 4) ((y.pc + 4, cnt) :: y.loops) id)

/-- DO with an immediate count. -/
def execDoImm (cnt : BitVec 12) (s : State) : Out3 :=
  common (.doImm cnt) Guard.always [] (doLoop (.doImm cnt) (cnt.zeroExtend 32)) s

/-- The count register n of a lane; K has none (spec/09 R201). -/
def Ctx.cnt (x : Ctx) (ln : Lane) (n : Nat) : W32 := vget x.n (8 * (ln.num - 1) + n) 0

/-- The register that a DO names: an x register in K, a count register in the other lanes. -/
def doCount (x : Ctx) (ln : Lane) (r : BitVec 6) : W32 :=
  if ln = .k then (x.rx r.toFin).truncate 32 else x.cnt ln r.toNat

/-- DO with a register count, read when the DO executes. -/
def execDoReg (r : BitVec 6) (s : State) : Out3 :=
  common (.doReg r) Guard.always [r.toFin] (fun c ln s => doLoop (.doReg r) (doCount (s.ctx c) ln r) c ln s) s

/-- ENDDO acts on the innermost entry (spec/09 R199, R200). -/
def execEnddo (s : State) : Out3 :=
  common .enddo Guard.always [] (fun c ln s =>
    let y := (s.ctx c).lane ln
    match y.loops with
    | [] => .next (faultAt s c ln .enddo ⟨0x09, 2, 0, 0⟩)
    | (start, left) :: rest =>
      if left - 1 = 0 then .next (complete s c ln .enddo (y.pc + 4) rest id)
      else .next (complete s c ln .enddo start ((start, left - 1) :: rest) id)) s

/-- BR (spec/09 R196). -/
def execBr (g : Guard) (o : BitVec 20) (s : State) : Out3 :=
  common (.br g o) g [] (fun c ln s =>
    let y := (s.ctx c).lane ln
    .next (complete s c ln (.br g o) (branchTo y.pc o) y.loops id)) s

/-- CALL (spec/09 R196). -/
def execCall (g : Guard) (o : BitVec 20) (s : State) : Out3 :=
  kInstr (.call g o) g 4 [] (fun c s =>
    let x := s.ctx c
    .next (goto (s.setCtx c (x.wx 1 (x.k.pc + 4))) c .k (branchTo x.k.pc o))) s

/-- The fault of a register jump target, if any (spec/09 R198). -/
def targetFault (t : Word) : Option Flt :=
  if bits t.toNat 52 12 ≠ 0 then some ⟨0x26, 2, t, 0⟩
  else if bits t.toNat 0 2 ≠ 0 then some ⟨0x26, 1, t, 0⟩
  else none

/-- CALLI reads xA before it writes x1 (spec/09 R197). -/
def execCalli (g : Guard) (a : XReg) (s : State) : Out3 :=
  kInstr (.calli g a) g 4 [a] (fun c s =>
    let x := s.ctx c
    let t := x.rx a
    match targetFault t with
    | some f => .next (takeFault s c .k f (wordOf (.calli g a)))
    | none => .next (goto (s.setCtx c (x.wx 1 (x.k.pc + 4))) c .k t)) s

/-- JMPI (spec/09 R197). -/
def execJmpi (g : Guard) (a : XReg) (s : State) : Out3 :=
  kInstr (.jmpi g a) g 4 [a] (fun c s =>
    let t := (s.ctx c).rx a
    match targetFault t with
    | some f => .next (takeFault s c .k f (wordOf (.jmpi g a)))
    | none => .next (goto s c .k t)) s

/-- ERET (spec/09 R197, spec/20 R354). -/
def execEret (g : Guard) (s : State) : Out3 :=
  kInstr (.eret g) g 4 [] (fun c s =>
    if inHandler (s.ctx c) then .next (returnFault s c)
    else .next (takeFault s c .k ⟨0x02, 4, 0, 0⟩ (wordOf (.eret g)))) s

/-! ## NOP, PARK, END, TRAP, BKPT -/

/-- NOP (spec/09 R210). -/
def execNop (g : Guard) (s : State) : Out3 :=
  common (.nop g) g [] (fun c ln s => .next (completeNext s c ln (.nop g) id)) s

/-- Everything that a lane has issued has completed: the stores of K have performed, the tiles of L have arrived, the stores of S
have performed. The compute lane orders by commit instead. -/
def laneDone (x : Ctx) (ln : Lane) : Bool :=
  match ln with
  | .k => x.stores.isEmpty
  | .c => true
  | .l => x.readSigs.isEmpty
  | .s => x.strm.toList.all fun t => t.storing.isEmpty

/-- A lane at a PARK counts as parked once what it issued has completed (spec/09 R210). -/
def finishPark (s : State) (c : Nat) (ln : Lane) : State :=
  if laneDone (s.ctx c) ln then parkLane s c ln
  else blockQuiet (s.modCtx c fun x => x.setLane ln { x.lane ln with parking := true }) c ln

/-- PARK stops the lane's issue (spec/09 R210); in the compute lane it parks at its commit (spec/04 R417). -/
def execPark (g : Guard) (s : State) : Out3 :=
  common (.park g) g [] (fun c ln s =>
    let y := (s.ctx c).lane ln
    if ln = .c then .next (complete s c ln (.park g) y.pc y.loops id)
    else .next (finishPark s c ln)) s

/-- END retires the parcel (spec/03 R50). -/
def execEndParcel (g : Guard) (s : State) : Out3 :=
  kInstr (.endParcel g) g 4 [] (fun c s => .next (endLanes s c)) s

/-- TRAP: the software trap, precise at the TRAP, with the next word as its resume point (spec/09 R208, spec/20
R353). In the compute lane it traps once it is the oldest. -/
def execTrap (g : Guard) (code : BitVec 12) (s : State) : Out3 :=
  common (.trap g code) g [] (fun c ln s =>
    let f : Flt := ⟨0x0A, 0, 0, code.zeroExtend 64⟩
    if ln = .c then .next (faultAt s c ln (.trap g code) f)
    else
      let pos := posOf s c ln
      .next (takeFaultAt (advance s c ln 4) c ln.num f pos (wordOf (.trap g code)) true false false)) s

/-- BKPT: a NOP, or with a debugger armed a stop with the lane's head at the BKPT, after which it is a NOP (spec/09
R209, spec/14 R309). -/
def execBkpt (g : Guard) (code : Byte) (s : State) : Out3 :=
  common (.bkpt g code) g [] (fun c ln s =>
    let x := s.ctx c
    let y := x.lane ln
    if bitAt x.dbgCtl 0 && !y.passBk then
      .next (stopScope (s.setCtx c (x.setLane ln { y with passBk := true })) c 3 code.toNat)
    else .next (completeNext s c ln (.bkpt g code) id)) s

/-! ## Tokens and count registers -/

/-- The team on a cluster replays a recording (spec/14 R324). -/
def replays (s : State) (cl : Nat) : Bool :=
  match recOf s cl with
  | some r => r.mode == 2
  | none => false

/-- A waiter may take tokens now: no waiter that the device serves first stands on the queue (spec/09 R204). In replay
the recorded order governs (spec/14 R324). -/
def turnToTake (s : State) (c rank q : Nat) : Bool :=
  replays s (clusterOf c) || !servedFirst (s.ctx c) rank q

/-- A lane takes `n` tokens of a queue at its next instruction, or waits; `f` goes on with the pushers. -/
def takeAt (s : State) (c : Nat) (ln : Lane) (q n : Nat) (f : List Word → State → Out3) : Out3 :=
  let pos := posNext s c ln
  match takeTokens (s.ctx c) q n pos with
  | none => .next (blockLane s c ln 0 q n 0 true)
  | some (ps, x) =>
    if !turnToTake s c ln.num q then .next (blockLane s c ln 0 q n 0 true)
    else gated s c ln pos (setterOf ps) 0 fun _ =>
      let t := endWait s c ln (setterOf ps) 0
      noted s c ln pos (setterOf ps) 0 (wd n) (f ps (t.setCtx c { t.ctx c with tq := x.tq, taker := x.taker }))

/-- WAIT (spec/09 R203). -/
def execWait (g : Guard) (q : Fin 16) (n : BitVec 6) (s : State) : Out3 :=
  common (.wait g q n) g [] (fun c ln s =>
    takeAt s c ln q.val n.toNat fun ps s =>
      .next (completeNext s c ln (.wait g q n) fun j => { j with toks := [(q.val, ps)] })) s

/-- SIG: it pushes once the earlier instructions of its lane have completed and room exists; in the compute lane at
its commit (spec/09 R203, spec/04 R417; AMOUNT: DEDUCED, log 32). -/
def execSig (g : Guard) (q : Fin 16) (n : BitVec 6) (s : State) : Out3 :=
  common (.sig g q n) g [] (fun c ln s =>
    if ln = .c then
      .next (completeNext s c ln (.sig g q n) fun j => { j with sig := some (q.val, n.toNat) })
    else if !laneDone (s.ctx c) ln then .next (blockQuiet s c ln)
    else if !tokenRoom (s.ctx c) q.val n.toNat then .next (blockLane s c ln 7 q.val n.toNat 0 true)
    else
      let s := endWait s c ln (vget (s.ctx c).taker q.val 0) 0
      let s := s.modCtx c fun x => pushTokens x q.val n.toNat (posOf s c ln)
      .next (completeNext s c ln (.sig g q n) id)) s

/-- RECV: it waits for the ARRIVED mark of a count register of its own lane and clears it (spec/09 R202). -/
def execRecv (n : Fin 8) (s : State) : Out3 :=
  common (.recv n) Guard.always [] (fun c ln s =>
    if ln = .k then .next (illegal s c ln (.recv n))
    else
      let k := 8 * (ln.num - 1) + n.val
      let x := s.ctx c
      let setter := vget x.sender k 0
      let pos := posNext s c ln
      if !vget x.arrived k false then .next (blockLane s c ln 1 n.val 0 0 true)
      else gated s c ln pos setter 1 fun _ =>
        let t := (endWait s c ln setter 0).modCtx c fun x => { x with arrived := vput x.arrived k false }
        noted s c ln pos setter 1 0 (.next (completeNext t c ln (.recv n) fun j => { j with recv := some k }))) s

/-- SEND (spec/09 R201). -/
def execSend (g : Guard) (ln : BitVec 2) (n : Fin 8) (a : XReg) (s : State) : Out3 :=
  kInstr (.send g ln n a) g 4 [a] (fun c s =>
    let k := 8 * (ln.toNat - 1) + n.val
    let pos := posOf s c .k
    .next (advance (s.modCtx c fun x =>
      { x with
        n := vput x.n k ((x.rx a).truncate 32)
        arrived := vput x.arrived k true
        sender := vput x.sender k pos }) c .k 4)) s

/-! ## Barriers and yielding -/

/-- Arrive at a barrier. In replay the event is made here, with the last arriver of its record `want` for its partner; a
recording notes it once the barrier has released (spec/03 R60, spec/14 R321, R324; DEDUCED, log 30). -/
def arrive (s : State) (c level : Nat) (want : Option SyncRec) : State :=
  let pos := posOf s c .k
  let cl := clusterOf c
  let ord := match (s.cluster cl).team with
    | some t => t.arrivals.length
    | none => 0
  let s := s.modCtx c fun x => { x with bar := some ⟨level, false, pos, ord, false, want.map fun e => (e.partner, e.seq, e.value)⟩ }
  let s := match want with
    | some e => syncEvent s c 0 pos e.partner 3 (wd ord)
    | none => s
  let s := blockLane s c .k 3 level 0 0 true
  let s := modTeam s cl fun t => { t with arrivals := t.arrivals ++ [(parcelOf c, level)] }
  checkTeamBar s cl

/-- The record of the next event of a queue that replays. -/
def recordedEvent (s : State) (cl : Nat) (pos : Word) : Option SyncRec :=
  (recOf s cl).bind fun r => r.events.find? fun e => sameQueue e.pos pos

/-- BAR: it arrives once, and waits for the release of its level (spec/09 R205, spec/20 R352)
(for a supervisor context DESIGN CHOICE, log 31). One that the recording stops at its release stands released, and goes on when
the team is resumed (spec/22 R399, R400). -/
def execBar (g : Guard) (level : BitVec 8) (s : State) : Out3 :=
  kInstr (.bar g level) g 4 [] (fun c s =>
    if isSup c then .next (advance s c .k 4)
    else match (s.ctx c).bar with
      | some b =>
        if b.released then .next (barDone s c b) else .next (blockLane s c .k 3 level.toNat 0 0 true)
      | none =>
        let go := fun want : Option SyncRec => Host.Outcome.next (arrive s c level.toNat want)
        if replays s (clusterOf c) then
          let e := recordedEvent s (clusterOf c) (posOf s c .k)
          gated s c .k (posOf s c .k) ((e.map (·.partner)).getD noPos) 3 fun _ => go e
        else go none) s

/-- YIELD adds the STRIDE to PASS and ends the context's issue in this cycle (spec/09 R207). -/
def execYield (s : State) : Out3 :=
  kInstr .yield Guard.always 4 [] (fun c s =>
    let cyc := s.cycle
    .next (advance (s.modCtx c fun x =>
      { x with pass := x.pass + wd (2 ^ 20 / x.tickets), yielded := some cyc }) c .k 4)) s

end Sys2Proof.Machine
end

