-- ==== Sys2Proof/Machine/Tiles.lean ====
section
/-! DEFINITION. Tiles as values and as memory images: layouts (spec/07 R137-R139), the packed delta-scale form (R141,
R416) and the transposes of a stream (spec/05 R107). -/

namespace Sys2Proof.Machine

/-- Granules of a row of an MX format (spec/07 R135). -/
def granules (f : Fmt) : Nat := f.perRow / 32

/-- The 4,352-byte image of a single, as a number (spec/04 R68). -/
def imageNat (payload : BitVec 32768) (band : BitVec 2048) : Nat := payload.toNat + (band.toNat <<< 32768)

/-- The payload and band of a 4,352-byte image. -/
def ofImage (n : Nat) : BitVec 32768 × BitVec 2048 := (BitVec.ofNat 32768 n, BitVec.ofNat 2048 (n >>> 32768))

/-- The bits of element j of row i (spec/07 R138). -/
def elemAt (f : Fmt) (payload : Nat) (i j : Nat) : Nat := bits payload (512 * i + f.width * j) f.width

/-- The scale byte of granule g of row i (spec/07 R137). -/
def scaleAt (band : Nat) (i g : Nat) : Nat := bits band (32 * i + 8 * g) 8

/-- The poison bit of element j of row i (spec/07 R137). -/
def poisonAt (band : Nat) (i j : Nat) : Bool := bits band (32 * i + j) 1 == 1

/-- The payload whose element j of row i is `g i j`. -/
def payloadOf (f : Fmt) (g : Nat → Nat → Nat) : BitVec 32768 :=
  BitVec.ofNat 32768 (assemble 512 64 fun i => assemble f.width f.perRow (g i))

/-- The band whose 32-bit word of row i is `g i`. -/
def bandOf (g : Nat → Nat) : BitVec 2048 := BitVec.ofNat 2048 (assemble 32 64 g)

/-! ## The packed delta-scale form -/

/-- The granule scales of a tile, in index order. -/
def scalesOf (f : Fmt) (band : Nat) : List Nat :=
  (List.range (64 * granules f)).map fun n => scaleAt band (n / granules f) (n % granules f)

/-- The packed image of an MX tile as bytes; nothing where it has no packed form (spec/07 R141, spec/05 R113). Payload bytes 48
to 63 of an MXINT6 row are copied as they stand, zero or not (DESIGN CHOICE, log 60). -/
def packTile (f : Fmt) (payload : BitVec 32768) (band : BitVec 2048) : Option (List Byte) :=
  let sc := scalesOf f band.toNat
  let base := sc.foldl min 255
  let top := sc.foldl max 0
  if top = 255 || 15 < top - base then none
  else
    some (leBytes 4096 payload.toNat ++ leBytes 1 base ++ leBytes 1 f.code ++ List.replicate 62 (0 : Byte) ++
      leBytes 128 (assemble 4 256 fun n => nth sc n base - base))

/-- A packed image is well formed for an MX format that its byte 4,097 names (spec/07 R416). -/
def packedOk (f : Fmt) (n : Nat) : Bool :=
  let base := bits n (8 * 4096) 8
  f.isMx && bits n (8 * 4097) 8 == f.code && bits n (8 * 4098) (8 * 62) == 0 &&
  ((List.range 256).all fun k =>
    let delta := bits n (8 * 4160 + 4 * k) 4
    if k < 64 * granules f then decide (base + delta ≤ 254) else delta == 0)

/-- Expand of spec/07 R141: the payload and band of a well-formed packed image; bytes 48 to 63 of an MXINT6 row as they stand (DESIGN
CHOICE, log 60). -/
def expandTile (f : Fmt) (n : Nat) : BitVec 32768 × BitVec 2048 :=
  let base := bits n (8 * 4096) 8
  (BitVec.ofNat 32768 n, bandOf fun i => assemble 8 (granules f) fun g =>
    base + bits n (8 * 4160 + 4 * (granules f * i + g)) 4)

/-! ## Transposes -/

/-- The b8 mapping of spec/05 R107. -/
def xposeB8 (payload : BitVec 32768) : BitVec 32768 :=
  let v := payload.toNat
  BitVec.ofNat 32768 (assemble 512 64 fun i => assemble 8 64 fun j => elem 8 v (64 * j + i))

/-- Where element (i, j) of the b16 transpose comes from: row, column (spec/05 R107). -/
def b16From (i j : Nat) : Nat × Nat := (32 * (i / 32) + j, i % 32)

/-- The b16 mapping of a payload. -/
def xposeB16 (payload : BitVec 32768) : BitVec 32768 :=
  let v := payload.toNat
  BitVec.ofNat 32768 (assemble 512 64 fun i => assemble 16 32 fun j =>
    let (r, c) := b16From i j
    elem 16 v (32 * r + c))

/-- The b16 mapping of the poison bits. -/
def xposeBand (band : BitVec 2048) : BitVec 2048 :=
  let v := band.toNat
  bandOf fun i => assemble 1 32 fun j =>
    let (r, c) := b16From i j
    bits v (32 * r + c) 1

/-- The transpose of a stream's XPOSE field: 1 b8, 2 b16 (spec/05 R104, R107). -/
def xposeBy (x : Nat) (t : BitVec 32768 × BitVec 2048) : BitVec 32768 × BitVec 2048 :=
  match x with
  | 1 => (xposeB8 t.1, t.2)
  | 2 => (xposeB16 t.1, xposeBand t.2)
  | _ => t

/-! ## Entries as images -/

/-- The bytes of an entry's image (spec/04 R68, spec/07 R139, R140). -/
def Val.image : Val → List Byte
  | .single _ p b => leBytes 4352 (imageNat p b)
  | .quad q po => leBytes 16384 q.toNat ++ leBytes 512 po.toNat
  | .seed s => leBytes 64 s.toNat

end Sys2Proof.Machine
end

