-- ==== Sys2Proof/Machine/Watch.lean ====
section
/-! DEFINITION. Watchpoints (spec/14 R318, R319, spec/22 R404). -/

namespace Sys2Proof.Machine

/-- Byte `b` of a space is watched by a watchpoint (spec/14 R318). -/
def watches (base ctl : Word) (space b asid : Nat) : Bool :=
  let a := bits base.toNat 0 52
  bitAt ctl 0 && bits base.toNat 62 2 == space && decide (a ≤ b) && decide (b < a + bits ctl.toNat 16 8 + 1) &&
    bits ctl.toNat (8 + b % 8) 1 == 1 && (space == 1 || bits ctl.toNat 32 12 == asid)

/-- The first watched byte among `n` from `b`. -/
def firstWatched (base ctl : Word) (space asid : Nat) : Nat → Nat → Option Nat
  | 0, _ => none
  | n + 1, b => if watches base ctl space b asid then some b else firstWatched base ctl space asid n (b + 1)

/-- The watchpoints of a cluster that a write of `n` bytes hits, each with the first byte it matches. -/
def hitsOf (x : Cluster) (space a n asid : Nat) : List (Nat × Nat) :=
  (List.range 4).filterMap fun k =>
    let ctl := vget x.wpCtl k 0
    if bitAt ctl 0 then (firstWatched (vget x.wpBase k 0) ctl space asid n a).map fun b => (k, b) else none

/-- A watch-hit record (spec/14 R315). -/
def hitRecord (s : State) (d : Nat) (who : Word) (k b : Nat) (precise : Bool) (skid : Nat) : State :=
  ringWrite s d 1 4 (leBytes 8 who.toNat ++ leBytes 8 b ++
    leBytes 8 (k % 4 + (if precise then 4 else 0) + skid % 2 ^ 32 * 2 ^ 32))

/-- The ASID of a context. -/
def asidOf (x : Ctx) : Nat := bits x.ptRoot.toNat 0 12

/-- A lane of a cluster has written `n` bytes at an address: record the hits with `who`, the lane's position after the
instruction, and stop the scope where a hit asks for it (spec/14 R319). -/
def watchAt (s : State) (c : Nat) (who a : Word) (n : Nat) : State :=
  if isSup c then s
  else
    let x := s.cluster (clusterOf c)
    let hits := hitsOf x (bits a.toNat 62 2) (bits a.toNat 0 52) n (asidOf (s.ctx c))
    let s := hits.foldl (fun s h => hitRecord s (dieOf c) who h.1 h.2 true 0) s
    if bitAt (s.ctx c).dbgCtl 0 && hits.any fun h => bitAt (vget x.wpCtl h.1 0) 2 then stopScope s c 4 0 else s

/-- After a lane's write instruction has completed. -/
def preciseWatch (s : State) (c : Nat) (ln : Lane) (a : Word) (n : Nat) : State := watchAt s c (posOf s c ln) a n

/-- Stop the scopes of the armed contexts of a cluster at an imprecise hit (DEDUCED, log 16). -/
def stopArmed (s : State) (cl : Nat) : State :=
  (teamCtxs s cl).foldl (fun s c => if bitAt (s.ctx c).dbgCtl 0 then stopScope s c 4 0 else s) s

/-- Queue an imprecise hit of a cluster, or count it where the queue is full (spec/22 R404). -/
def queueHit (s : State) (cl : Nat) (who : Word) (h : Nat × Nat) : State :=
  let x := s.cluster cl
  if x.hits.length < 16 then
    s.setCluster cl { x with hits := x.hits ++ [(h.1, wd h.2, who, s.cycle)] }
  else
    let s := s.setCluster cl { x with wpOvf := satInc (x.wpOvf ||| BitVec.ofNat 32 (2 ^ (16 + h.1))) 0 16 }
    if bitAt (vget x.wpCtl h.1 0) 2 then stopArmed s cl else s

/-- A write of an engine or the kiln of a cluster (spec/14 R319). -/
def engineWatch (s : State) (cl : Nat) (who : Word) (space a n asid : Nat) : State :=
  (hitsOf (s.cluster cl) space a n asid).foldl (fun s h => queueHit s cl who h) s

/-- A write performed at an HBM base die for another agent, an atomic or a fold: every cluster but the issuing lane's
matches it (spec/14 R319). -/
def remoteWatch (s : State) (own : Option Nat) (who : Word) (a n asid : Nat) : State :=
  (FMap.keys s.clusters).foldl (fun s cl => if own = some cl then s else engineWatch s cl who 0 a n asid) s

/-- WATCH_HIT_IMPRECISE: the oldest queued hit of a cluster is recorded, `skid` cycles after its write, and a stop
begins (spec/14 R319); where there is none, or another count of cycles has passed, or one above the bound of 256, nothing happens. -/
def execWatchHitImprecise (cl skid : Nat) (s : State) : Out3 :=
  match (s.cluster cl).hits with
  | [] => .next s
  | (k, a, who, at_) :: rest =>
    if s.cycle - at_ ≠ skid || 256 < skid then .next s
    else
      let s := s.modCluster cl fun x => { x with hits := rest }
      let s := hitRecord s (dieOfCluster cl) who k a.toNat false skid
      .next (if bitAt (vget (s.cluster cl).wpCtl k 0) 2 then stopArmed s cl else s)

end Sys2Proof.Machine
end

