-- ==== Sys2Proof/Machine/Stream.lean ====
section
/-! DEFINITION. Streams: their blocks and checks (spec/05 R104-R106), SDEF, SLDB and SOFF (spec/10 R223-R226), READ and
WRITE (spec/05 R108, R111, R418), the arrival of tiles and the end of tile stores. -/

namespace Sys2Proof.Machine

/-! ## The stream block -/

/-- Field of a stream block: `n` bits at bit `lo` of the byte at `off` (spec/05 R104). -/
def Strm.fld (t : Strm) (off lo n : Nat) : Nat := bits t.blk.toNat (8 * off + lo) n

/-- BASE. -/
def Strm.base (t : Strm) : Nat := t.fld 0 0 52
/-- FMT; FP32 stands for a reserved code, which no armed stream has. -/
def Strm.fmt (t : Strm) : Fmt := (Fmt.ofCode (t.fld 8 0 4)).getD .fp32
/-- GEOM row. -/
def Strm.row (t : Strm) : Bool := t.fld 8 4 1 == 1
/-- COMP. -/
def Strm.comp (t : Strm) : Bool := t.fld 8 5 1 == 1
/-- XPOSE. -/
def Strm.xpose (t : Strm) : Nat := t.fld 8 6 2
/-- CLS. -/
def Strm.cls (t : Strm) : Nat := t.fld 8 8 4
/-- SPACE. -/
def Strm.space (t : Strm) : Nat := t.fld 8 12 2
/-- SSTR, signed. -/
def Strm.sstr (t : Strm) : Int := sext 32 (t.fld 0x0C 0 32)
/-- EXTk. -/
def Strm.ext (t : Strm) (k : Nat) : Nat := t.fld (0x10 + 2 * k) 0 16
/-- STRk, signed. -/
def Strm.str (t : Strm) (k : Nat) : Int := sext 32 (t.fld (0x1C + 4 * k) 0 32)

/-- N, the number of blocks (spec/05 R105). -/
def Strm.blocks (t : Strm) : Nat := t.ext 0 * t.ext 1 * t.ext 2 * t.ext 3 * t.ext 4

/-- E, the extent in tiles (spec/05 R105). -/
def Strm.extent (t : Strm) : Nat := if t.row then t.blocks / 64 else t.blocks

/-- The offset of block `b`: the coordinates times the strides, dimension `k` and up (spec/05 R105). -/
def Strm.offFrom (t : Strm) (b : Nat) : List Nat → Int
  | [] => 0
  | k :: r => (b % t.ext k : Nat) * t.str k + t.offFrom (b / t.ext k) r

/-- The address of block `b` in the stream's space, as an exact integer (spec/05 R105). -/
def Strm.addr (t : Strm) (b : Nat) : Int := t.base + t.offFrom b [0, 1, 2, 3, 4]

/-- A 64-bit address of an offset in a space; an offset outside the space's fields has a non-zero zero part. -/
def spaceAddr (space : Nat) (a : Int) : Word := wdInt (a % (2 ^ 62 : Nat) + (space * 2 ^ 62 : Nat))

/-- The checks of spec/05 R106 on a stream register. -/
def Strm.valid (t : Strm) : Bool :=
  let f := t.fmt
  let g := if t.row then 2 else 64
  t.fld 0 52 12 == 0 && t.fld 8 14 18 == 0 && t.fld 0x18 16 16 == 0 && t.fld 0x30 0 128 == 0 &&
  decide (t.fld 8 0 4 < 12) && t.xpose != 3 && t.space != 3 &&
  (List.range 5).all (fun k => t.ext k != 0) &&
  t.base % g == 0 && (List.range 5).all (fun k => t.ext k == 1 || t.str k % (g : Int) == 0) &&
  (f.isMx || t.sstr == 0) &&
  (!t.row || t.blocks % 64 == 0) &&
  (!t.comp || (f.isMx && !t.row && t.sstr == 0 && t.xpose == 0)) &&
  (t.xpose != 1 || f == .e4m3 || f == .e5m2 || f == .int8) &&
  (t.xpose != 2 || f == .bf16 || f == .fp16)

/-! ## Segments of a tile -/

/-- A run of bytes of a tile: its address, its length, where it goes in the 4,352-byte image. -/
structure Seg where
  addr : Int
  len : Nat
  at_ : Nat
  deriving DecidableEq, Repr

/-- The scale bytes of rows held apart, `k` rows from row `i` (spec/05 R106). -/
def apartScales (g : Nat) (a : Int) (rows : List Nat) : List Seg :=
  rows.map fun i => ⟨a + (g * i : Nat), g, 4096 + 4 * i⟩

/-- The segments of one row of row geometry (spec/05 R106). -/
def rowSegs (t : Strm) (i : Nat) (a : Int) : List Seg :=
  let f := t.fmt
  if !f.isMx then [⟨a, 64, 64 * i⟩]
  else if t.sstr = 0 then
    let w := 4 * f.width
    ((List.range (granules f)).map fun g =>
      [⟨a + ((w + 1) * g : Nat), w, 64 * i + w * g⟩, ⟨a + ((w + 1) * g + w : Nat), 1, 4096 + 4 * i + g⟩]).flatten
  else [⟨a, f.perRow * f.width / 8, 64 * i⟩, ⟨a + t.sstr, granules f, 4096 + 4 * i⟩]

/-- Insert a segment in rising order of address. -/
def insertSeg (x : Seg) : List Seg → List Seg
  | [] => [x]
  | y :: r => if x.addr < y.addr then x :: y :: r else y :: insertSeg x r

/-- Segments in rising order of address, the order in which their faults are found (spec/21 R419). -/
def sortSegs (l : List Seg) : List Seg := l.foldl (fun acc x => insertSeg x acc) []

/-- The segments of tile `k` of a stream (spec/05 R105, R106). -/
def tileSegs (t : Strm) (k : Nat) : List Seg :=
  if t.row then sortSegs ((List.range 64).map fun i => rowSegs t i (t.addr (64 * k + i))).flatten
  else
    let a := t.addr k
    if t.comp then [⟨a, 4288, 0⟩]
    else if t.sstr = 0 then [⟨a, 4352, 0⟩]
    else sortSegs (⟨a, 4096, 0⟩ :: apartScales (granules t.fmt) (a + t.sstr) (List.range 64))

/-- Resolve segments one after the other: the pieces of each. -/
inductive SegRes where
  | ok (s : State) (l : List (Seg × List (Loc × Nat)))
  | flt (s : State) (f : Flt)
  | wait
  deriving DecidableEq, Repr

/-- Resolve the segments of an access in their order, whose addresses have passed their checks. -/
def resolveEach (a : Acc) (space : Nat) : List Seg → State → SegRes
  | [], s => .ok s []
  | x :: r, s => match resolve s a (spaceAddr space x.addr) x.len with
    | .flt s f => .flt s f
    | .wait => .wait
    | .ok s ps => match resolveEach a space r s with
      | .ok s l => .ok s ((x, ps) :: l)
      | o => o

/-- The first answer in a list of options. -/
def firstSome {α β : Type} (g : α → Option β) : List α → Option β
  | [] => none
  | a :: r => match g a with
    | some b => some b
    | none => firstSome g r

/-- The checks of the addresses of an access: each item for all segments before the next (spec/21 R419, items 1 to 3). -/
def segsFault (a : Acc) (space : Nat) (l : List Seg) (s : State) : Option Flt :=
  firstSome id [firstSome (fun x : Seg => spaceFault a (spaceAddr space x.addr)) l,
    firstSome (fun x : Seg => alignFault a (spaceAddr space x.addr)) l,
    firstSome (fun x : Seg => rangeFault s a (spaceAddr space x.addr) x.len) l]

/-- Resolve the segments of an access: the checks of every address before those of any page (spec/21 R419). -/
def resolveSegs (a : Acc) (space : Nat) (l : List Seg) (s : State) : SegRes :=
  match segsFault a space l s with
  | some f => .flt s f
  | none => resolveEach a space l s

/-- Some byte of the segments lies on a device-type page (spec/05 R108). -/
def segsTouchDevice (s : State) (a : Acc) (space : Nat) (l : List Seg) : Bool :=
  space == 0 && l.any fun x => decide (0 ≤ x.addr) && touchesDevice a (2 * x.len + 2) s x.addr.toNat x.len

/-- FR_INFO of a stream access, layout L (spec/21 R376). Its 12 bits show a remaining count modulo 4,096 (a count register
can hold more: DESIGN CHOICE, log 52). -/
def streamInfo (t : Strm) (k rem : Nat) : Word := wd (k + t.cls * 16 + rem % 4096 * 2 ^ 16)

/-- The image that the segments hold. -/
def readSegs (s : State) (l : List (Seg × List (Loc × Nat))) : Nat :=
  l.foldl (fun n e => n ||| (leNat (readPieces s e.2) <<< (8 * e.1.at_))) 0

/-- What a tile load obtains: the tile as it arrives, or the fault of a malformed packed image (spec/05 R107, R112,
spec/07 R416). Band bytes that the format does not name, and payload bytes 48 to 63 of an MXINT6 row, stay as they were
loaded (DESIGN CHOICE, log 52). -/
def arrived (t : Strm) (k : Nat) (img : Nat) : Arr :=
  if t.comp then
    if packedOk t.fmt img then
      let (p, b) := expandTile t.fmt img
      .flight (.single t.fmt p b)
    else .flightBad ⟨0x29, 6, 0, wd k⟩
  else
    let (p, b) := xposeBy t.xpose (ofImage img)
    .flight (.single t.fmt p b)

/-- The load of a tile of stream `k` of a context, at its issue (spec/05 R108, R109): nothing while it waits. -/
def loadTile (s : State) (c k tile : Nat) (mustDevice : Bool) : Option (State × Arr) :=
  let t := vget (s.ctx c).strm k Strm.init
  let a := Acc.load c 4 0 (streamInfo t k 0)
  let segs := tileSegs t tile
  if !mustDevice && segsTouchDevice s a t.space segs then none
  else match resolveSegs a t.space segs s with
  | .wait => none
  | .flt s f => some (s, .flightBad f)
  | .ok s l => some (s, arrived t k (readSegs s l))

/-! ## Arming -/

/-- The stream of a context, replaced. -/
def Ctx.setStrm (x : Ctx) (k : Nat) (t : Strm) : Ctx := { x with strm := vput x.strm k t }

/-- The entry holds a deferred fault not yet raised. -/
def ArrEnt.deferred (e : ArrEnt) : Bool :=
  match e.st with
  | .bad _ | .flightBad _ => true
  | .flight _ | .here _ | .retry => false

/-- Add `n` to a saturating 16-bit field. -/
def satAdd16 (v : Word) (lo n : Nat) : Word := putField v lo 16 (min 65535 (bits v.toNat lo 16 + n))

/-- Count what an arming or disarming of stream `k` discards (spec/21 R379). -/
def countDiscards (x : Ctx) (k : Nat) : Ctx :=
  let t := vget x.strm k Strm.init
  let bad := (t.arr.filter ArrEnt.deferred).length
  let dep := t.dep.length
  if bad = 0 && dep = 0 then x
  else { x with discStat := putField (satAdd16 (satAdd16 x.discStat 16 bad) 32 dep) 0 4 k }

/-- The token that a READ has to push once its tiles have arrived. -/
def ReadSig.due (r : ReadSig) : Option (Nat × Word) := r.q.map fun q => (q, r.pos)

/-- A stream takes a new definition: what its queues held is discarded and counted, positions and ROWC are 0 (spec/05
R108, spec/10 R226). READs in flight have nothing left to wait for: the token of a `sig=` is
due at once, where the manual does not say when it is pushed, or whether (DESIGN CHOICE, log 55). A tile that an uncommitted instruction has taken holds no
arrival entry of the new definition, and is discarded where the instruction is unwound (DESIGN CHOICE, log 52). -/
def redefine (x : Ctx) (k : Nat) (blk : BitVec 512) (armed : Bool) : Ctx :=
  let x := countDiscards x k
  let x := x.setStrm k { Strm.init with
    blk := blk, armed := armed, storing := (vget x.strm k Strm.init).storing,
    reserved := (vget x.strm k Strm.init).reserved }
  { x with
    sigDue := x.sigDue ++ (x.readSigs.filter fun r => r.s == k).filterMap ReadSig.due
    readSigs := x.readSigs.filter fun r => r.s != k
    infl := x.infl.map fun j =>
      { j with
        took := j.took.map fun e => if e.1 = k then (16, e.2) else e
        cursor := j.cursor.map fun e => if e.1 = k then (16, e.2) else e } }

/-- Arm stream `k` with a definition, or refuse it (spec/10 R223). -/
def armWith (i : Instr) (c k : Nat) (blk : BitVec 512) (s : State) : Out3 :=
  if ({ Strm.init with blk := blk }).valid then
    .next (advance (s.modCtx c fun x => redefine x k blk true) c .k 4)
  else .next (takeFault s c .k ⟨0x04, 6, 0, wd k⟩ (wordOf i))

/-- SDEF writes one word of a stream register, and arms it or leaves it disarmed (spec/10 R223). -/
def execSdef (g : Guard) (k : Fin 16) (a : XReg) (arm : Bool) (w : BitVec 3) (s : State) : Out3 :=
  kInstr (.sdef g k a arm w) g 4 [a] (fun c s =>
    let x := s.ctx c
    let blk := putField (vget x.strm k.val Strm.init).blk (64 * w.toNat) 64 (x.rx a).toNat
    if arm then armWith (.sdef g k a arm w) c k.val blk s
    else
      let t := vget x.strm k.val Strm.init
      let x := if t.armed then redefine x k.val blk false else x.setStrm k.val { t with blk := blk }
      .next (advance (s.setCtx c x) c .k 4)) s

/-- SLDB loads and arms a stream (spec/10 R224). -/
def execSldb (g : Guard) (k : Fin 16) (a : XReg) (s : State) : Out3 :=
  kInstr (.sldb g k a) g 4 [a] (fun c s =>
    match resolve s (Acc.load c 0 6 0) ((s.ctx c).rx a) 64 with
    | .flt s f => .next (takeFault s c .k f (wordOf (.sldb g k a)))
    | .wait => .next (blockQuiet s c .k)
    | .ok t ps =>
      if storesFirst (s.ctx c) 0 false ps then .next (blockQuiet s c .k)
      else armWith (.sldb g k a) c k.val (BitVec.ofNat 512 (leNat (readPieces t ps))) t) s

/-- SOFF moves BASE by a signed step and arms the stream (spec/10 R225). -/
def execSoff (g : Guard) (k : Fin 16) (a : XReg) (s : State) : Out3 :=
  kInstr (.soff g k a) g 4 [a] (fun c s =>
    let x := s.ctx c
    let t := vget x.strm k.val Strm.init
    let b : Int := t.base + (x.rx a).toInt
    if b < 0 || ((2 ^ 52 : Nat) : Int) ≤ b then
      .next (takeFault s c .k ⟨0x04, 6, 0, wd k.val⟩ (wordOf (.soff g k a)))
    else armWith (.soff g k a) c k.val (putField t.blk 0 52 b.toNat) s) s

/-! ## READ and WRITE -/

/-- The queue of a `wait=` or `sig=` field; 0 is none (spec/08 R161). -/
def queueOf (q : Fin 8) : Option Nat := if q = 0 then none else some q.val

/-- The count of a READ or WRITE (spec/09 R216). -/
def tileCount (x : Ctx) (ln : Lane) (n : BitVec 12) (v : BitVec 2) : Nat :=
  if n = 0 then (x.cnt ln v.toNat).toNat else n.toNat

/-- The start of a READ or WRITE: the words are checked, its token is taken, its stream must be armed, its count is
read (spec/05 R108, spec/09 R216). A run that was stopped partway goes on with its remaining count (R418). -/
def streamStart (i : Instr) (want : Lane) (k : Nat) (n : BitVec 12) (tk : Toks) (v : BitVec 2)
    (run : Nat → Nat → State → Out3) (s : State) : Out3 :=
  onLane s fun c ln =>
    let x := s.ctx c
    let y := x.lane ln
    if ln ≠ want || !i.wf then .next (illegal s c ln i)
    else match y.remain with
      | some r =>
        if (vget x.strm k Strm.init).armed then run c r s
        else .next (takeFault s c ln ⟨0x04, 5, 0, wd k⟩ (wordOf i))
      | none =>
        let start := fun s : State =>
          let r := tileCount (s.ctx c) ln n v
          run c r (s.modCtx c fun x => x.setLane ln { x.lane ln with remain := some r })
        let disarmed := takeFault s c ln ⟨0x04, 5, 0, wd k⟩ (wordOf i)
        let armed := (vget x.strm k Strm.init).armed
        match queueOf tk.tw with
        | none => if armed then start s else .next disarmed
        | some q =>
          if 1 ≤ (vget x.tq q []).length && !armed then .next disarmed
          else takeAt s c ln q 1 fun _ s => start s

/-- Set the remaining count of a lane. -/
def setRemain (s : State) (c : Nat) (ln : Lane) (r : Nat) : State :=
  s.modCtx c fun x => x.setLane ln { x.lane ln with remain := some r }

/-- The stream-extent fault of a READ (1) or WRITE (2) (spec/21 R376). -/
def extentFlt (t : Strm) (which k rem : Nat) : Flt :=
  ⟨0x28, which, wd (min t.extent (2 ^ 64 - 1)), wd (k + rem % 4096 * 2 ^ 16)⟩

/-- A READ waits for its last tile, or for an earlier tile of its stream; one of no tiles for the tiles before it (DESIGN
CHOICE, log 52). -/
def ReadSig.isOpen (x : Ctx) (r : ReadSig) : Bool :=
  (vget x.strm r.s Strm.init).arr.any fun e => decide (e.tile ≤ r.tile) && match e.st with
    | .flight _ | .flightBad _ => true
    | .here _ | .bad _ | .retry => false

/-- Push the tokens that are due and whose queue has room, in order. -/
def pushDue : List (Nat × Word) → Ctx → Ctx
  | [], x => x
  | (q, who) :: r, x =>
    if tokenRoom x q 1 then pushDue r (pushTokens x q 1 who)
    else
      let y := pushDue r x
      { y with sigDue := (q, who) :: y.sigDue }

/-- The tokens of READs whose tiles have all arrived are due, and those whose queue has room are pushed (spec/05 R108). -/
def pushReads (x : Ctx) : Ctx :=
  let due := x.sigDue ++ (x.readSigs.filter fun r => !r.isOpen x).filterMap ReadSig.due
  pushDue due { x with readSigs := x.readSigs.filter (ReadSig.isOpen x), sigDue := [] }

/-- A READ issues the loads of its remaining tiles while arrival entries are free. `fuel` exceeds the entries. -/
def readRun (i : Instr) (k : Nat) (tk : Toks) : Nat → Nat → Nat → State → Out3
  | 0, c, rem, s => .next (setRemain s c .l rem)
  | fuel + 1, c, rem, s =>
    let x := s.ctx c
    let t := vget x.strm k Strm.init
    let pos := posOf s c .l
    if rem = 0 then
      let sig : ReadSig := ⟨k, t.rpos - 1, queueOf tk.ts, pos⟩
      .next (advance (s.modCtx c fun x =>
        pushReads { x with readSigs := x.readSigs ++ [sig] }) c .l 4)
    else if t.rpos = t.extent then .next (takeFault (setRemain s c .l rem) c .l (extentFlt t 1 k rem) (wordOf i))
    else if 4 ≤ t.arr.length + t.claimed then .next (blockTeam (setRemain s c .l rem) c .l)
    else match loadTile s c k t.rpos (t.tpos == t.rpos) with
      | none => .next (blockQuiet (setRemain s c .l rem) c .l)
      | some (s, a) =>
        readRun i k tk fuel c (rem - 1) (s.modCtx c fun x => x.setStrm k
          { t with arr := t.arr ++ [⟨t.rpos, a⟩], rpos := t.rpos + 1 })

/-- READ (spec/05 R108). -/
def execRead (k : Fin 16) (n : BitVec 12) (tk : Toks) (v : BitVec 2) (s : State) : Out3 :=
  streamStart (.read k n tk v) .l k.val n tk v (readRun (.read k n tk v) k.val tk 6) s

/-- The bytes of a departing value in a segment (spec/05 R106, spec/10 R230). -/
def segBytes (img : Nat) (x : Seg) : List Byte := leBytes x.len (img >>> (8 * x.at_))

/-- The stream cannot store the value: a tile that has no packed form, through COMP 1 (spec/05 R113). -/
def noForm (t : Strm) (v : Val) : Bool :=
  match v with
  | .single _ p b => t.comp && (packTile t.fmt p b).isNone
  | .seed _ | .quad .. => false

/-- The segments and image that a departure entry of stream `t` is stored as at block `k` (spec/10 R230, spec/05 R113). -/
def departure (t : Strm) (k : Nat) (v : Val) : List Seg × Nat :=
  match v with
  | .seed sd => ([⟨t.addr k, 64, 0⟩], sd.toNat)
  | .quad .. => ([], 0)
  | .single _ p b =>
    if t.comp then ([⟨t.addr k, 4288, 0⟩], leNat ((packTile t.fmt p b).getD []))
    else
      let (p, b) := xposeBy t.xpose (p, b)
      (tileSegs t k, imageNat p b)

/-- Write segments; `who` is the writer. -/
def writeSegs (who : Word) (img : Nat) : List (Seg × List (Loc × Nat)) → State → State
  | [], s => s
  | (x, ps) :: r, s => writeSegs who img r (writePieces s who ps (segBytes img x))

/-- Record the watch hits of a stored tile; the stop waits for the end of the WRITE (spec/14 R319). -/
def watchSegs (s : State) (c space : Nat) (l : List Seg) : State :=
  if isSup c then s
  else
    let x := s.cluster (clusterOf c)
    let asid := asidOf (s.ctx c)
    let hits := (l.map fun g => hitsOf x space g.addr.toNat g.len asid).flatten
    let firsts := (List.range 4).filterMap fun n => hits.find? fun h => h.1 == n
    let who := posOf s c .s + 1
    let s := firsts.foldl (fun s h => hitRecord s (dieOf c) who h.1 h.2 true 0) s
    if firsts.any fun h => bitAt (vget x.wpCtl h.1 0) 2 then
      s.modCtx c fun x => { x with sl := { x.sl with hitStop := true } }
    else s

/-- The end of a WRITE: its lane goes on, and the scope stops where a tile of it has hit a watchpoint that stops. -/
def writeDone (s : State) (c : Nat) : State :=
  let stop := (s.ctx c).sl.hitStop && bitAt (s.ctx c).dbgCtl 0
  let s := advance s c .s 4
  if stop then stopScope s c 4 0 else s

/-- A WRITE stores its remaining departure entries. `fuel` exceeds the entries (DEDUCED, log 33). A TSINK checks its tile under
the definition that it meets; one that departs under a later definition, where it has no packed form, faults here (spec/05
R113). -/
def writeRun (i : Instr) (k : Nat) (tk : Toks) : Nat → Nat → Nat → State → Out3
  | 0, c, rem, s => .next (setRemain s c .s rem)
  | fuel + 1, c, rem, s =>
    let x := s.ctx c
    let t := vget x.strm k Strm.init
    let pos := posOf s c .s
    if rem = 0 then .next (writeDone s c)
    else if t.wpos = t.extent then .next (takeFault (setRemain s c .s rem) c .s (extentFlt t 2 k rem) (wordOf i))
    else match t.dep with
      | [] => .next (blockTeam (setRemain s c .s rem) c .s)
      | v :: rest =>
        if noForm t v then .next (takeFault (setRemain s c .s rem) c .s ⟨0x29, 5, 0, 0⟩ (wordOf i)) else
        let (segs, img) := departure t t.wpos v
        match resolveSegs (Acc.store c 5 0 (streamInfo t k rem)) t.space segs s with
        | .wait => .next (blockQuiet (setRemain s c .s rem) c .s)
        | .flt s f => .next (takeFault (setRemain s c .s rem) c .s f (wordOf i))
        | .ok s l =>
          let s := watchSegs (writeSegs pos img l s) c t.space segs
          writeRun i k tk fuel c (rem - 1) (s.modCtx c fun x => x.setStrm k
            { t with
              dep := rest
              wpos := t.wpos + 1
              storing := t.storing ++ [(rem == 1, (if rem = 1 then queueOf tk.ts else none), pos)] })

/-- A WRITE of no tiles has only its token left to push (spec/05 R111), behind the tile stores of its stream that have not yet
performed (DESIGN CHOICE, log 55). -/
def writeNone (k : Nat) (tk : Toks) (c : Nat) (s : State) : Out3 :=
  let pos := posOf s c .s
  .next (writeDone (s.modCtx c fun x =>
    let t := vget x.strm k Strm.init
    x.setStrm k { t with storing := t.storing ++ [(true, queueOf tk.ts, pos)] }) c)

/-- WRITE (spec/05 R111). -/
def execWrite (k : Fin 16) (n : BitVec 12) (tk : Toks) (v : BitVec 2) (s : State) : Out3 :=
  streamStart (.write k n tk v) .s k.val n tk v (fun c r s =>
    if r = 0 then writeNone k.val tk c s else writeRun (.write k n tk v) k.val tk 6 c r s) s

/-! ## Arrivals and stores performed -/

/-- An arrival entry of a tile in flight receives its value or its fault mark. -/
def land (k : Nat) (e : ArrEnt) : ArrEnt :=
  if e.tile = k then
    { e with st := match e.st with
      | .flight v => .here v
      | .flightBad f => .bad f
      | a => a }
  else e

/-- The tile is in flight. -/
def inFlight (t : Strm) (k : Nat) : Bool :=
  t.arr.any fun e => e.tile == k && match e.st with
    | .flight _ | .flightBad _ => true
    | .here _ | .bad _ | .retry => false

/-- A team has made progress (spec/20 R369). -/
def progress (s : State) (cl : Nat) : State :=
  let cyc := s.cycle
  modTeam s cl fun t => { t with lastAct := cyc }

/-- TILE_ARRIVAL: the load of tile `k` returns (spec/05 R108), and tokens that are due are pushed where their queues have
room. -/
def execTileArrival (c : Nat) (n : Fin 16) (k : Nat) (s : State) : Out3 :=
  let x := s.ctx c
  let t := x.strm[n]
  let arrives := inFlight t k
  let y := pushReads (if arrives then perfAdd (x.setStrm n.val { t with arr := t.arr.map (land k) }) 7 1 else x)
  let s := s.setCtx c y
  let s := if arrives || decide (y.sigDue.length < x.sigDue.length) then progress s (clusterOf c) else s
  .next (maybeRetire s c)

/-- TILE_STORE_PERFORMED: the oldest tile store of a stream that has issued performs; the token of the last of a WRITE is then
due, and is pushed where its queue has room (spec/05 R111). -/
def execTileStorePerformed (c : Nat) (n : Fin 16) (s : State) : Out3 :=
  let x := s.ctx c
  let t := x.strm[n]
  match t.storing with
  | [] => .next s
  | (_, q, pos) :: rest =>
    let x := x.setStrm n.val { t with storing := rest }
    let x := pushReads { x with sigDue := x.sigDue ++ (q.map fun q => (q, pos)).toList }
    .next (maybeRetire (progress (s.setCtx c x) (clusterOf c)) c)

end Sys2Proof.Machine
end

