-- ==== Sys2Proof/Machine/Operands.lean ====
section
/-! DEFINITION. The operand forms of the compute lane and the dispatch of its instructions (spec/02 R26, spec/04
R81-R85, spec/20 R363-R366). An instruction says what it names, what it checks and what it makes; `dispatch` says once
in which order the device checks, waits and claims. -/

namespace Sys2Proof.Machine

/-- Where an operand comes from (spec/02 R26): a depth, popped or peeked, or a stream, taken or read. -/
inductive Src where
  | depth (n : Nat) (pop : Bool)
  | strm (k : Nat) (take : Bool)
  deriving DecidableEq, Repr

/-- The source that an operand field names. -/
def srcOf (o : Opnd) : Src := if o.strm then .strm o.idx.val (!o.keep) else .depth o.idx.val (!o.keep)

/-- How an instruction uses the entry at depth 0 after its pops. -/
inductive Top where
  | unused
  /-- The accumulator or addend, updated in place (spec/04 R85). -/
  | inPlace
  /-- The mask of TSEL, popped (spec/11 R254). -/
  | popped
  deriving DecidableEq, Repr

/-- What an instruction makes of its operands. `flt` is the fault found while it runs. -/
structure Made where
  /-- Result entries, deepest first. -/
  outs : List Val := []
  /-- The new value of the entry updated in place. -/
  top : Option Val := none
  flt : Option Flt := none
  am : Option (Nat × W32) := none
  stat : Nat := 0
  sr : Option Word := none
  dep : Option (Nat × Val) := none
  landing : Option W32 := none
  deriving DecidableEq, Repr

/-- A wait at dispatch that an instruction adds. -/
inductive Hold where
  | go
  | quiet
  | team
  deriving DecidableEq, Repr

/-- A compute-lane instruction as its dispatch sees it. -/
structure CForm where
  i : Instr
  toks : Toks
  /-- Operands in the order OA, OB. -/
  srcs : List Src
  top : Top
  /-- It reads its operands' values, so it waits for a pending one (spec/04 R85). -/
  reads : Bool
  /-- Another depth that must exist. -/
  also : List Nat
  /-- TSEED: it takes one row of a stream's head tile (spec/10 R232). -/
  seedRow : Bool
  unit : Nat
  /-- SEEDFIT: the latch that it holds (spec/11 R271). -/
  latch : Option Nat
  /-- TSINK: the stream whose departure queue it reserves (spec/10 R230). -/
  sink : Option Nat
  /-- Illegal operand use, from the kinds of the operands, a stream tile counting as a single, and of the top. -/
  check : Ctx → List Kind → Option Kind → Option Flt
  /-- Kinds of the result entries. -/
  outs : List Kind → List Kind
  /-- Its rearrangement of the stack. -/
  perm : List Entry → List Entry
  hold : Ctx → Hold
  /-- The malformed seed entry that it would push (spec/20 R367), from the operands' values. -/
  bad : Ctx → List Val → Option Flt
  make : Ctx → List Val → Option Val → Made

/-- An instruction that has no check, wait or rearrangement of its own. -/
def plainForm (i : Instr) (toks : Toks) (srcs : List Src) (unit : Nat) (outs : List Kind)
    (make : Ctx → List Val → Option Val → Made) : CForm where
  i := i
  toks := toks
  srcs := srcs
  top := .unused
  reads := true
  also := []
  seedRow := false
  unit := unit
  latch := none
  sink := none
  check := fun _ _ _ => none
  outs := fun _ => outs
  perm := id
  hold := fun _ => .go
  bad := fun _ _ => none
  make := make

/-! ## Checks -/

/-- Depths that the sources pop. -/
def popsOf (l : List Src) : List Nat := l.filterMap fun
  | .depth n true => some n
  | _ => none

/-- The least depth from `d` that is not popped, looking at most `n` further. -/
def firstKept (pops : List Nat) : Nat → Nat → Nat
  | 0, d => d
  | n + 1, d => if pops.contains d then firstKept pops n (d + 1) else d

/-- The depth, before the pops, of the entry at depth 0 after them. -/
def topDepth (f : CForm) : Nat := firstKept (popsOf f.srcs) 3 0

/-- Every depth popped. -/
def allPops (f : CForm) : List Nat :=
  match f.top with
  | .popped => topDepth f :: popsOf f.srcs
  | .unused | .inPlace => popsOf f.srcs

/-- Depths that must exist, in the order in which they are checked (spec/20 R365). -/
def depthsOf (f : CForm) : List Nat :=
  (f.srcs.filterMap fun
    | .depth n _ => some n
    | .strm .. => none) ++ (match f.top with
    | .unused => []
    | .inPlace | .popped => [topDepth f]) ++ f.also

/-- Stack underflow (spec/20 R357, R365). -/
def underflow (x : Ctx) (f : CForm) : Option Flt :=
  ((depthsOf f).find? fun d => decide (x.stack.length ≤ d)).map fun d => ⟨0x05, 0, wd d, wd x.stack.length⟩

/-- An illegal operand use of a DETAIL (spec/20 R357). -/
def misuse (detail : Nat) : Flt := ⟨0x04, detail, 0, 0⟩

/-- A misuse of a stream as an operand: disarmed, of the wrong shape for TSEED, or a tile some of whose rows TSEED has
taken (spec/10 R232, spec/20 R357). -/
def streamMisuse (x : Ctx) (seedRow : Bool) (s : Src) : Option Flt :=
  match s with
  | .depth .. => none
  | .strm k take =>
    let t := vget x.strm k Strm.init
    if !t.armed then some ⟨0x04, 5, 0, wd k⟩
    else if seedRow then (if t.row && !t.fmt.isMx then none else some ⟨0x04, 7, 0, wd k⟩)
    else if take && t.rowc ≠ 0 then some ⟨0x04, 7, 0, wd k⟩
    else none

/-- The entry at a depth. -/
def entryAt (x : Ctx) (d : Nat) : Option Entry := x.stack[d]?

/-- The kind of an operand; a stream tile is a single of the stream's FMT. -/
def kindOf (x : Ctx) (s : Src) : Kind :=
  match s with
  | .depth n _ => ((entryAt x n).map (·.kind)).getD (.single .fp32)
  | .strm k _ => .single (vget x.strm k Strm.init).fmt

/-- The entry at depth 0 after the pops, where the instruction uses it. -/
def topEntry (x : Ctx) (f : CForm) : Option Entry :=
  match f.top with
  | .unused => none
  | .inPlace | .popped => entryAt x (topDepth f)

/-- The faults found before any wait but that for the token: stack underflow, then illegal operand use (spec/20
R363; the order of misuses: DEDUCED, log 36). -/
def earlyFault (x : Ctx) (f : CForm) : Option Flt :=
  match underflow x f with
  | some e => some e
  | none => match firstSome (streamMisuse x f.seedRow) f.srcs with
    | some e => some e
    | none => f.check x (f.srcs.map (kindOf x)) ((topEntry x f).map (·.kind))

/-! ## Capacity -/

/-- Stack overflow of the entries that would stand on the stack: above the capacity, or, under a SUBSOIL of 1 to 3, without a layout in
the four guaranteed till slots (spec/20 R366). Under another SUBSOIL the entries overflow, besides the capacity, only where they would
have no layout in the slots that the context holds or may take, since a sink would then pass OVF_LIMIT (spec/04 R78; DEDUCED, log
15). -/
def overflows (s : State) (c : Nat) (kinds : List Kind) : Option Flt :=
  let x := s.ctx c
  let need := sumOf (kinds.map Kind.image)
  let room := 4 * 4352 + 4352 * x.subsoil + overflowPart x
  if room < need || (layoutOf x (layoutSlots s c) (kindCounts kinds) 0).isNone then some ⟨0x06, 0, wd need, wd room⟩ else none

/-! ## Stream tiles -/

/-- What the operands find in the arrival queues. -/
inductive Tiles where
  /-- The values of the stream operands, in order. -/
  | ok (l : List Val)
  | empty
  | flight
  /-- A deferred fault, of a stream. -/
  | bad (k : Nat) (f : Flt)
  /-- A retry entry: stream, its place in the queue, its tile. -/
  | retry (k n tile : Nat)
  deriving DecidableEq, Repr

/-- Takes of a stream among the first sources. -/
def takesOf (k : Nat) (l : List Src) : Nat :=
  (l.filter fun s => s == .strm k true).length

/-- Look up the tiles of the sources; `before` holds the sources already seen. -/
def tilesOf (x : Ctx) : List Src → List Src → Tiles
  | _, [] => .ok []
  | before, s :: r => match s with
    | .depth .. => tilesOf x (before ++ [s]) r
    | .strm k _ =>
      let n := takesOf k before
      match (vget x.strm k Strm.init).arr[n]? with
      | none => .empty
      | some e => match e.st with
        | .flight _ | .flightBad _ => .flight
        | .bad f => .bad k f
        | .retry => .retry k n e.tile
        | .here v => match tilesOf x (before ++ [s]) r with
          | .ok l => .ok (v :: l)
          | o => o

/-- The tiles of an instruction. TSEED and a tile at hand are read in place. -/
def tiles (x : Ctx) (f : CForm) : Tiles := tilesOf x [] f.srcs

/-- A retry entry loads its tile again, at the dispatch that would take it; a fault that it then meets comes after every fault
that spec/20 R363 lists before one of a stream (spec/21 R378, R419). -/
def reload (s : State) (c : Nat) (f : CForm) (k n tile : Nat) : State :=
  match loadTile s c k tile true with
  | none => blockQuiet s c .c
  | some (s, a) => match a with
    | .flight v | .here v =>
      s.modCtx c fun x =>
        let t := vget x.strm k Strm.init
        x.setStrm k { t with arr := t.arr.set n ⟨tile, .here v⟩ }
    | .flightBad e | .bad e => dispatchFault s c f.i (wordOf f.i) e none
    | .retry => s

/-! ## Rising -/

/-- What claiming a stack entry answers. -/
inductive Claim where
  | ready (s : State)
  | rising (s : State)
  deriving DecidableEq, Repr

/-- The entry has been copied into the operand buffer: it is being claimed no more (spec/04 R84). -/
def copyOut (id : Nat) (x : Ctx) : Ctx :=
  { x with claiming := x.claiming.filter (· != id), copied := if x.copied.contains id then x.copied else id :: x.copied }

/-- The entry has been copied and popped: it leaves its storage (spec/04 R84). -/
def popOut (id : Nat) (x : Ctx) : Ctx :=
  setOvf { x with
    claiming := x.claiming.filter (· != id)
    stack := onEntry id (fun e => { e with res := .buffer, got := 0 }) x.stack }

/-- Claim one single or seed entry: it rises if it must, and is copied into the operand buffer; a popped one leaves its
storage then (spec/04 R81, R84). One that has been copied may sink before the instruction dispatches (DEDUCED, log 51). -/
def claimOne (s : State) (c : Nat) (e : Entry) (pop : Bool) : Claim :=
  let got := fun s : State => Claim.ready (s.modCtx c (if pop then popOut e.id else copyOut e.id))
  match e.res with
  | .pending | .buffer => .ready s
  | .till => if e.val.isNone then .ready s else got s
  | .subsoil | .bedrock => if (s.ctx c).copied.contains e.id then got s else .rising (rise s c e)
  | .sinkS .. | .sinkB .. | .down => if (s.ctx c).copied.contains e.id then got s else .rising s
  | .movingS | .movingB => .rising s

/-- A dispatched instruction pins another quad: a context pins one at a time (spec/04 R73). -/
def otherPinned (x : Ctx) (e : Entry) : Bool :=
  (x.infl.any fun j => decide (0 < j.pins)) || x.stack.any fun a => a.pinned && a.id != e.id

/-- Claim a quad: it is made resident, once no other is pinned (spec/04 R73, R84). A pending one is pinned by the
instruction that makes it. -/
def claimQuad (s : State) (c : Nat) (e : Entry) : Claim :=
  if e.val.isNone then .ready s
  else if otherPinned (s.ctx c) e then .rising s
  else match e.res with
    | .pending | .buffer | .till => .ready s
    | .movingS | .movingB | .sinkS .. | .sinkB .. | .down => .rising s
    | .subsoil | .bedrock => .rising (rise s c e)

/-- Claim entries, named by depth, singles and seeds first (spec/04 R84). -/
def claimAll (c : Nat) (pops : List Nat) : List Nat → State → Claim
  | [], s => .ready s
  | d :: r, s => match entryAt (s.ctx c) d with
    | none => claimAll c pops r s
    | some e =>
      match (if e.kind = .quad then claimQuad s c e else claimOne s c e (pops.contains d)) with
      | .ready s => claimAll c pops r s
      | o => o

/-- The depths that an instruction claims, in order. -/
def claims (x : Ctx) (f : CForm) : List Nat :=
  let l := (f.srcs.filterMap fun
    | .depth n _ => some n
    | .strm .. => none) ++ (match f.top with
    | .unused => []
    | .inPlace | .popped => [topDepth f])
  let isQuad := fun d => ((entryAt x d).map (·.kind)) == some .quad
  (l.filter fun d => !isQuad d) ++ l.filter isQuad

/-! ## Making the claims -/

/-- Remove the entries at the depths given. -/
def dropDepths (pops : List Nat) : Nat → List Entry → List Entry
  | _, [] => []
  | d, e :: r => if pops.contains d then dropDepths pops (d + 1) r else e :: dropDepths pops (d + 1) r

/-- Pending entries for results, with ids from `id`, deepest first. -/
def pendings : Nat → List Kind → List Entry
  | _, [] => []
  | id, k :: r => ⟨id, k, none, .pending, false, false, 0⟩ :: pendings (id + 1) r

/-- Number results from `id`. -/
def numbered : Nat → List Val → List (Nat × Val)
  | _, [] => []
  | id, v :: r => (id, v) :: numbered (id + 1) r

/-- The values of the operands: entries' values and stream tiles in order. -/
def valuesOf (x : Ctx) : List Src → List Val → List Val
  | [], _ => []
  | .depth n _ :: r, ts => match (entryAt x n).bind (·.val) with
    | some v => v :: valuesOf x r ts
    | none => valuesOf x r ts
  | .strm .. :: r, t :: ts => t :: valuesOf x r ts
  | .strm .. :: r, [] => valuesOf x r []

/-- Take the stream tiles that the sources take: the context, and what was taken (spec/04 R84, spec/05 R110). -/
def takeTiles : List Src → Ctx → Ctx × List (Nat × ArrEnt × Nat)
  | [], x => (x, [])
  | .strm k true :: r, x =>
    let t := vget x.strm k Strm.init
    match t.arr with
    | [] => takeTiles r x
    | e :: rest =>
      let (y, l) := takeTiles r (x.setStrm k
        { t with arr := rest, tpos := t.tpos + 1, rowc := 0, claimed := t.claimed + 1 })
      (y, (k, e, t.rowc) :: l)
  | _ :: r, x => takeTiles r x

/-- What TSEED does to its stream: it takes a row, and past the last row the tile (spec/10 R232). -/
def takeRow (srcs : List Src) (x : Ctx) : Ctx × List (Nat × ArrEnt × Nat) × List (Nat × Nat) :=
  match srcs with
  | [.strm k true] =>
    let t := vget x.strm k Strm.init
    if t.rowc = 63 then
      let (y, l) := takeTiles srcs x
      (y, l, [])
    else (x.setStrm k { t with rowc := t.rowc + 1 }, [], [(k, t.rowc)])
  | _ => (x, [], [])

/-- The quads that an instruction names stay in the till until it commits (spec/04 R84): slots of those popped, ids of
those left in place. -/
def quadPins (x : Ctx) (pops : List Nat) : List Nat → Nat × List Nat
  | [] => (0, [])
  | d :: r =>
    let (n, l) := quadPins x pops r
    match entryAt x d with
    | some e =>
      if e.kind = .quad && e.res = .till && e.val.isSome then (if pops.contains d then (n + 4, l) else (n, e.id :: l)) else (n, l)
    | none => (n, l)

/-- The pending quads among the entries at the depths given, which an earlier instruction updates in place. -/
def pendingQuads (x : Ctx) (pops : List Nat) : List Nat :=
  (pops.filterMap (entryAt x)).filterMap fun e =>
    if e.kind = .quad && e.res = .till && e.val.isNone then some e.id else none

/-- A dropped quad that a dispatched instruction updates stays in the till until that instruction commits (spec/04 R84,
R85). -/
def keepSlots (dropped : List Nat) (j : Infl) : Infl :=
  { j with pins := j.pins + 4 * (j.results.filter fun r => dropped.contains r.1).length }

/-- The entry updated in place becomes pending: a quad keeps its till slots, a single is in the operand buffer (spec/04
R84, R85). -/
def pendTop (e : Entry) : Entry :=
  match e.kind with
  | .quad => { e with val := none, pinned := true }
  | .single _ | .seed => { e with val := none, res := .pending, got := 0 }

/-- Every condition of R83 holds: claim, change the depth picture and add the instruction to those dispatched. -/
def claimed (s : State) (c : Nat) (f : CForm) (ps : List Word) (vals : List Val) (topVal : Option Val) : State :=
  let x := unpinWaiting (s.ctx c)
  let pops := allPops f
  let made := f.make x vals topVal
  let kinds := f.outs (f.srcs.map (kindOf x))
  let id := s.nextId
  let topId := (topEntry x f).map (·.id)
  let (pins, keep) := quadPins x pops (claims x f)
  let (y, took, cursor) := if f.seedRow then takeRow f.srcs x else
    let (y, l) := takeTiles f.srcs x
    (y, l, [])
  let stack := dropDepths pops 0 (x.stack.map fun e =>
    if keep.contains e.id then { e with pinned := true } else e)
  let stack := match f.top, topId with
    | .inPlace, some t => onEntry t pendTop stack
    | _, _ => stack
  let stack := (pendings id kinds).reverse ++ f.perm stack
  let strm := match f.sink with
    | some k =>
      let t := vget y.strm k Strm.init
      vput y.strm k { t with reserved := t.reserved + 1 }
    | none => y.strm
  let lat := match f.latch with
    | some k => vput y.lat k { vget y.lat k ⟨0, false, false, none⟩ with valid := false, busy := true }
    | none => y.lat
  let results := numbered id made.outs ++ (match f.top, topId, made.top with
    | .inPlace, some t, some v => [(t, v)]
    | _, _, _ => [])
  let j : Infl :=
    { inflOf x f.i (wordOf f.i) with
      took := took
      cursor := cursor
      toks := (match queueOf f.toks.tw with
        | some q => [(q, ps)]
        | none => [])
      latch := f.latch.map fun k => (k, vget x.lat k ⟨0, false, false, none⟩)
      results := results
      am := made.am
      stat := BitVec.ofNat 32 made.stat
      sr := made.sr
      dep := made.dep
      sig := (queueOf f.toks.ts).map fun q => (q, 1)
      landing := made.landing
      pins := pins
      unpin := keep
      flt := made.flt
      unit := f.unit }
  let s := { s with nextId := id + kinds.length }
  let y := { y with infl := y.infl.map (keepSlots (pendingQuads x pops)) }
  s.setCtx c (setOvf (pushInfl { y with stack := stack, strm := strm, lat := lat } j (x.cl.pc + 4) x.cl.loops))

/-! ## Dispatch -/

/-- The token of `wait=` is there to be taken (spec/04 R83). -/
def tokenThere (s : State) (c : Nat) (f : CForm) : Bool :=
  match queueOf f.toks.tw with
  | none => true
  | some q => decide (1 ≤ (vget (s.ctx c).tq q []).length) && turnToTake s c Lane.c.num q

/-- Some entry that the instruction reads is pending (spec/04 R85). -/
def readsPending (x : Ctx) (f : CForm) : Bool :=
  f.reads && (claims x f).any fun d => match entryAt x d with
    | some e => e.val.isNone
    | none => false

/-- Some entry that the instruction reads is damaged (spec/21 R393): a memory error of the till (DEDUCED, log 17). -/
def readsDamaged (x : Ctx) (f : CForm) : Bool :=
  f.reads && (claims x f).any fun d => match entryAt x d with
    | some e => e.damaged
    | none => false

/-- The departure queue has a place, made or reserved by no other (spec/10 R230). -/
def sinkRoom (x : Ctx) (f : CForm) : Bool :=
  match f.sink with
  | none => true
  | some k => let t := vget x.strm k Strm.init; decide (t.dep.length + t.reserved < 4)

/-- The kinds that would stand on the stack after the instruction. -/
def kindsAfter (x : Ctx) (f : CForm) : List Kind :=
  (dropDepths (allPops f) 0 x.stack).map (·.kind) ++ f.outs (f.srcs.map (kindOf x))

/-- The faults that follow the waits: malformed seed entry, stack overflow, a deferred stream fault, a damaged entry
(spec/20 R363, spec/21 R419); with the stream of a deferred one. -/
def lateFault (s : State) (c : Nat) (f : CForm) (t : Tiles) : Option (Flt × Option Nat) :=
  let x := s.ctx c
  let seed := match t with
    | .ok l => f.bad x (valuesOf x f.srcs l)
    | _ => none
  match seed with
  | some e => some (e, none)
  | none => match overflows s c (kindsAfter x f) with
    | some e => some (e, none)
    | none => match t with
      | .bad k e => some (e, some k)
      | _ => if readsDamaged x f then some (⟨0x2F, 16, 0, 0⟩, none) else none

/-- The last steps: the named entries rise, the token is taken, the claims are made (spec/04 R81-R84). -/
def claimAndGo (s : State) (c : Nat) (f : CForm) (tiles : List Val) : Out3 :=
  match claimAll c (allPops f) (claims (s.ctx c) f) s with
  | .rising s => .next (blockQuiet s c .c)
  | .ready s =>
    let x := s.ctx c
    let vals := valuesOf x f.srcs tiles
    let top := (topEntry x f).bind (·.val)
    match queueOf f.toks.tw with
    | none => .next (claimed (endWait s c .c noPos 0) c f [] vals top)
    | some q => takeAt s c .c q 1 fun ps s => .next (claimed s c f ps vals top)

/-- The dispatch of a compute-lane instruction. -/
def dispatch (f : CForm) (s : State) : Out3 :=
  onLane s fun c ln =>
    let x := s.ctx c
    if ln ≠ .c || !f.i.wf then .next (illegal s c ln f.i)
    else if !tokenThere s c f then .next (blockLane s c .c 0 f.toks.tw.val 1 0 true)
    else match earlyFault x f with
      | some e => .next (dispatchFault s c f.i (wordOf f.i) e none)
      | none =>
        let t := tiles x f
        match t with
        | .empty => .next (blockTeam s c .c)
        | .flight => .next (blockQuiet s c .c)
        | .ok _ | .bad .. | .retry .. =>
          if readsPending x f then .next (blockQuiet s c .c)
          else if !sinkRoom x f then .next (blockTeam s c .c)
          else match f.hold x with
            | .quiet => .next (blockQuiet s c .c)
            | .team => .next (blockTeam s c .c)
            | .go => match lateFault s c f t with
              | some (e, d) => .next (dispatchFault s c f.i (wordOf f.i) e d)
              | none => match t with
                | .ok l => claimAndGo s c f l
                | .retry k n tile => .next (reload s c f k n tile)
                | .empty | .flight | .bad .. => .next s

end Sys2Proof.Machine
end

