-- ==== Sys2Proof/Machine/TileStack.lean ====
section
/-! DEFINITION. The tile-stack operations TLIFT to TSEED (spec/10 R227-R232, spec/20 R367, R368). They run on no
engine. -/

namespace Sys2Proof.Machine

/-! ## Moves and copies -/

/-- Move the entry at index `n` to the front. -/
def rotateUp (n : Nat) (l : List Entry) : List Entry :=
  match l[n]? with
  | some e => e :: l.eraseIdx n
  | none => l

/-- Move the first entry to index `n`. -/
def rotateDown (n : Nat) (l : List Entry) : List Entry :=
  match l with
  | [] => []
  | e :: r => r.take n ++ e :: r.drop n

/-- The operands as they stand. -/
def passOn (_ : Ctx) (vals : List Val) (_ : Option Val) : Made := { outs := vals }

/-- A copy of the entry at a depth (spec/10 R228). -/
def copyForm (i : Instr) (k : Toks) (d : Nat) : CForm :=
  { plainForm i k [.depth d false] 15 [] passOn with outs := id }

/-- A rearrangement, which reads no value (spec/04 R85). -/
def moveForm (i : Instr) (k : Toks) (src : Src) (also : List Nat) (perm : List Entry → List Entry) : CForm :=
  { plainForm i k [src] 15 [] (fun _ _ _ => {}) with reads := false, also := also, perm := perm }

/-- The form of TLIFT (spec/10 R229). -/
def formTlift (a : Opnd) (k : Toks) : CForm :=
  { plainForm (.tlift a k) k [srcOf a] 15 [] passOn with outs := id }

/-- TLIFT (spec/10 R229). -/
def execTlift (a : Opnd) (k : Toks) (s : State) : Out3 := dispatch (formTlift a k) s

/-- The form of TDUP (spec/10 R227). -/
def formTdup (k : Toks) : CForm :=
  copyForm (.tdup k) k 0

/-- TDUP (spec/10 R227). -/
def execTdup (k : Toks) (s : State) : Out3 := dispatch (formTdup k) s

/-- The form of TDROP (spec/10 R227). -/
def formTdrop (k : Toks) : CForm :=
  moveForm (.tdrop k) k (.depth 0 true) [] id

/-- TDROP (spec/10 R227). -/
def execTdrop (k : Toks) (s : State) : Out3 := dispatch (formTdrop k) s

/-- The form of TSWAP (spec/10 R227). The entry at depth 1, which it brings to the top, rises first, as that of TROT 1 does; the
entry at depth 0 need not be resident (R228 names neither: DESIGN CHOICE, log 52). -/
def formTswap (k : Toks) : CForm :=
  moveForm (.tswap k) k (.depth 1 false) [] (rotateUp 1)

/-- TSWAP (spec/10 R227). -/
def execTswap (k : Toks) (s : State) : Out3 := dispatch (formTswap k) s

/-- The form of TOVER (spec/10 R227). -/
def formTover (k : Toks) : CForm :=
  copyForm (.tover k) k 1

/-- TOVER (spec/10 R227). -/
def execTover (k : Toks) (s : State) : Out3 := dispatch (formTover k) s

/-- The form of TPICK (spec/10 R227). -/
def formTpick (d : BitVec 12) (k : Toks) : CForm :=
  copyForm (.tpick d k) k d.toNat

/-- TPICK (spec/10 R227). -/
def execTpick (d : BitVec 12) (k : Toks) (s : State) : Out3 := dispatch (formTpick d k) s

/-- The form of TROT (spec/10 R227). -/
def formTrot (d : BitVec 12) (k : Toks) : CForm :=
  moveForm (.trot d k) k (.depth d.toNat false) [] (rotateUp d.toNat)

/-- TROT (spec/10 R227). -/
def execTrot (d : BitVec 12) (k : Toks) (s : State) : Out3 := dispatch (formTrot d k) s

/-- The form of TRRT (spec/10 R227). -/
def formTrrt (d : BitVec 12) (k : Toks) : CForm :=
  moveForm (.trrt d k) k (.depth 0 false) [d.toNat] (rotateDown d.toNat)

/-- TRRT (spec/10 R227). -/
def execTrrt (d : BitVec 12) (k : Toks) (s : State) : Out3 := dispatch (formTrrt d k) s

/-! ## TSINK -/

/-- Element j of a row has a poison bit set that the format defines (spec/07 R137). -/
def poisonedAt (f : Fmt) (band i j : Nat) : Bool := (f == .bf16 || f == .fp32) && poisonAt band i j

/-- The first element, in row-major order, that satisfies a condition. -/
def firstElem (f : Fmt) (p : Nat → Nat → Bool) : Option (Nat × Nat) :=
  ((List.range (64 * f.perRow)).find? fun n => p (n / f.perRow) (n % f.perRow)).map
    fun n => (n / f.perRow, n % f.perRow)

/-- FR_INFO of a fault at element (i, j): column, row (spec/20 R357). -/
def elemInfo (i j : Nat) : Word := wd (j % 64 + i % 64 * 64)

/-- Kinds that a departure of stream `t` may have (spec/10 R230). -/
def sinkCheck (k : Nat) (x : Ctx) (kinds : List Kind) : Option Flt :=
  let t := vget x.strm k Strm.init
  if !t.armed then some ⟨0x04, 5, 0, wd k⟩
  else match kinds with
    | [.quad] => some (misuse 1)
    | [.seed] => if t.row || t.comp || t.xpose ≠ 0 then some (misuse 2) else none
    | _ => none

/-- The fault of a departing value: poison where the stream's FMT shows it (spec/20 R368), or no packed form (spec/05
R113). -/
def sinkFault (t : Strm) (v : Val) : Option Flt :=
  match v with
  | .single _ _ b =>
    if t.comp then (if noForm t v then some ⟨0x29, 5, 0, 0⟩ else none)
    else match firstElem t.fmt fun i j => poisonedAt t.fmt b.toNat i j with
      | some (i, j) => some ⟨0x08, 0, 0, elemInfo i j⟩
      | none => none
  | .quad .. | .seed _ => none

/-- What TSINK makes: its departure. -/
def sinkMade (k : Nat) (x : Ctx) (vals : List Val) (_ : Option Val) : Made :=
  match vals with
  | [v] => { dep := some (k, v), flt := sinkFault (vget x.strm k Strm.init) v }
  | _ => {}

/-- The form of TSINK (spec/10 R230). -/
def formTsink (a b : Opnd) (k : Toks) : CForm :=
  { plainForm (.tsink a b k) k [srcOf a] 15 [] (sinkMade b.idx.val) with
    sink := some b.idx.val
    check := fun x kinds _ => sinkCheck b.idx.val x kinds }

/-- TSINK (spec/10 R230). -/
def execTsink (a b : Opnd) (k : Toks) (s : State) : Out3 := dispatch (formTsink a b k) s

/-! ## New entries -/

/-- A form that takes no operand. -/
def newForm (i : Instr) (k : Toks) (kind : Kind) (v : Ctx → Val) : CForm :=
  plainForm i k [] 15 [kind] fun x _ _ => { outs := [v x] }

/-- The form of TZERO (spec/10 R231). -/
def formTzero (f : Fmt) (k : Toks) : CForm :=
  newForm (.tzero f k) k (.single f) fun _ => .single f 0 0

/-- TZERO (spec/10 R231). -/
def execTzero (f : Fmt) (k : Toks) (s : State) : Out3 := dispatch (formTzero f k) s

/-- The form of TACC (spec/10 R231). -/
def formTacc (k : Toks) : CForm :=
  newForm (.tacc k) k .quad fun _ => .quad 0 0

/-- TACC (spec/10 R231). -/
def execTacc (k : Toks) (s : State) : Out3 := dispatch (formTacc k) s

/-- The element bits and the band word of every row that TSPLAT writes (spec/10 R231). -/
def splatOf (f : Fmt) (n : Nat) : Nat × Nat :=
  match f with
  | .fp32 => if (fp32.decode (n % 2 ^ 32)).isNan then (fp32.nanBits, 0xFFFF) else (n % 2 ^ 32, 0)
  | .bf16 => if (bf16.decode (n % 2 ^ 16)).isNan then (bf16.nanBits, 0xFFFFFFFF) else (n % 2 ^ 16, 0)
  | .fp16 => (n % 2 ^ 16, 0)
  | .e4m3 | .e5m2 | .int8 => (n % 2 ^ 8, 0)
  | .e2m1 => (n % 2 ^ 4, 0)
  | .int32 => (n % 2 ^ 32, 0)
  | .int64 => ((sextW 32 n).toNat, 0)
  | .mxint8 | .mxint6 | .mxint4 =>
    (n % 2 ^ f.width, assemble 8 (granules f) fun _ => bits n 8 8)

/-- The single that TSPLAT pushes. -/
def splat (f : Fmt) (n : Nat) : Val :=
  let (e, b) := splatOf f n
  .single f (payloadOf f fun _ _ => e) (bandOf fun _ => b)

/-- The form of TSPLAT reads its count register at dispatch (spec/10 R231). -/
def formTsplat (n : Fin 8) (f : Fmt) (k : Toks) : CForm :=
  newForm (.tsplat n f k) k (.single f) fun x => splat f (x.cnt .c n.val).toNat

/-- TSPLAT reads its count register at dispatch (spec/10 R231). -/
def execTsplat (n : Fin 8) (f : Fmt) (k : Toks) (s : State) : Out3 := dispatch (formTsplat n f k) s

/-! ## Seed entries -/

/-- SEED, K and OFMT of a seed entry's image (spec/07 R140). -/
def seedSeed (e : Nat) : Word := wd (bits e 0 64)
/-- K. -/
def seedK (e : Nat) : Nat := bits e 64 8
/-- OFMT. -/
def seedFmt (e : Nat) : Nat := bits e 72 4
/-- Coefficient k as BF16 bits. -/
def seedC (e k : Nat) : Nat := bits e (128 + 16 * k) 16

/-- What is malformed in a seed entry: DETAIL of cause 0x0B, in the order of spec/20 R357. -/
def seedBad (e : Nat) : Option Nat :=
  if seedK e = 0 || 8 < seedK e then some 1
  else if seedFmt e ≠ 1 && seedFmt e ≠ 3 && seedFmt e ≠ 6 then some 2
  else if (List.range 8).any fun k => decide (seedK e ≤ k) && seedC e k != 0 then some 3
  else if bits e 76 52 ≠ 0 || bits e 256 256 ≠ 0 then some 4
  else none

/-- The fault of a malformed seed entry (spec/20 R367). -/
def seedFlt (e : Nat) : Option Flt := (seedBad e).map fun d => ⟨0x0B, d, 0, seedSeed e⟩

/-- The image that TSEED builds from seven count registers (spec/10 R232); nB+2 [31:12] stands where it must be
zero. -/
def seedFromCounts (x : Ctx) (b : Nat) : Nat :=
  let n := fun k => (x.cnt .c (b + k)).toNat
  n 0 + n 1 * 2 ^ 32 + n 2 % 2 ^ 32 * 2 ^ 64 +
    assemble 32 4 (fun k => n (3 + k)) * 2 ^ 128

/-- Row ROWC of a single as a seed image (spec/10 R232). -/
def seedFromRow (row : Nat) (v : Val) : Nat :=
  match v with
  | .single _ p _ => bits p.toNat (512 * row) 512
  | .quad .. | .seed _ => 0

/-- The form of TSEED from count registers (spec/10 R232). -/
def formTseedCnt (b : Fin 2) (k : Toks) : CForm :=
  { newForm (.tseedCnt b k) k .seed (fun x => .seed (BitVec.ofNat 512 (seedFromCounts x b.val))) with
    bad := fun x _ => seedFlt (seedFromCounts x b.val) }

/-- TSEED from count registers (spec/10 R232). -/
def execTseedCnt (b : Fin 2) (k : Toks) (s : State) : Out3 := dispatch (formTseedCnt b k) s

/-- The row cursor of the stream that a TSEED names. -/
def rowcOf (x : Ctx) (a : Opnd) : Nat := (vget x.strm a.idx.val Strm.init).rowc

/-- The form of TSEED from a row of a stream's head tile (spec/10 R232). -/
def formTseedStream (a : Opnd) (k : Toks) : CForm :=
  { plainForm (.tseedStream a k) k [srcOf a] 15 [.seed] (fun x vals _ =>
      { outs := vals.map fun v => .seed (BitVec.ofNat 512 (seedFromRow (rowcOf x a) v)) }) with
    seedRow := true
    bad := fun x vals => firstSome (fun v => seedFlt (seedFromRow (rowcOf x a) v)) vals }

/-- TSEED from a row of a stream's head tile (spec/10 R232). -/
def execTseedStream (a : Opnd) (k : Toks) (s : State) : Out3 := dispatch (formTseedStream a k) s

end Sys2Proof.Machine
end

