-- ==== Sys2Proof/Machine/Matrix.lean ====
section
/-! DEFINITION. The matrix engine: TMMA (spec/07 R146, spec/11 R258, R259), TDRAIN (R261), and the mint: TGEN and
SEEDFIT (R266-R272). -/

namespace Sys2Proof.Machine

/-! ## Elements of a tile -/

/-- Fraction bits of an MX element (spec/07 R135). -/
def mxQ : Fmt → Nat
  | .mxint8 => 6
  | .mxint6 => 4
  | .mxint4 => 2
  | .fp32 | .bf16 | .fp16 | .e4m3 | .e5m2 | .e2m1 | .int8 | .int32 | .int64 => 0

/-- The value of an element's bits without a granule scale (spec/07 R131-R135). -/
def elemNum (f : Fmt) (b : Nat) : Num :=
  if f.isMx then (Num.ofInt (sext f.width b)).scale (-(mxQ f : Int))
  else if f.isInt then Num.ofInt (sext f.width b)
  else (fpOf f).decode b

/-- The value of an element under a scale byte (spec/07 R134). -/
def scaledNum (f : Fmt) (scale b : Nat) : Num :=
  if !f.isMx then elemNum f b else if scale = 255 then .nan else (elemNum f b).scale (scale - 127 : Int)

/-- Payload and band of a single; a quad or a seed entry has none. -/
def singleOf (v : Val) : Nat × Nat :=
  match v with
  | .single _ p b => (p.toNat, b.toNat)
  | .quad .. | .seed _ => (0, 0)

/-- The value of element j of row i of a single read in format f. -/
def valueAt (f : Fmt) (t : Nat × Nat) (i j : Nat) : Num :=
  scaledNum f (scaleAt t.2 i (j / 32)) (elemAt f t.1 i j)

/-- A poisoned element counts as such only in BF16 and FP32 (spec/07 R148). -/
def poisonOf (f : Fmt) (t : Nat × Nat) (i j : Nat) : Bool := poisonedAt f t.2 i j

/-- Every poison bit of a row. -/
def rowPoison (f : Fmt) (t : Nat × Nat) (i : Nat) : Bool :=
  (List.range f.perRow).any fun j => poisonOf f t i j

/-- The value is an infinity. -/
def Num.isInf : Num → Bool
  | .inf _ => true
  | .nan | .fin .. => false

/-- The value is finite. -/
def Num.isFin : Num → Bool
  | .fin .. => true
  | .nan | .inf _ => false

/-- POVF of CVT_CTL (spec/07 R142). -/
def povf (x : Ctx) : Bool := bitAt x.cvtCtl 12

/-! ## TMMA -/

/-- The formats of an A/B pair code (spec/08 R164). -/
def pairOf (p : Nat) : Fmt × Fmt :=
  match p with
  | 0 => (.bf16, .bf16)
  | 1 => (.e4m3, .e4m3)
  | 2 => (.e4m3, .e5m2)
  | 3 => (.e5m2, .e4m3)
  | 4 => (.e5m2, .e5m2)
  | 5 => (.mxint8, .mxint8)
  | 6 => (.mxint6, .mxint6)
  | 7 => (.mxint4, .mxint4)
  | _ => (.int8, .int8)

/-- A granule of a row: its scale byte, 127 for a format without one, and its elements. -/
abbrev Granule := Nat × List Num

/-- The granules of row i (spec/07 R146). -/
def rowGranules (f : Fmt) (t : Nat × Nat) (i : Nat) : List Granule :=
  (List.range (f.perRow / 32)).map fun g =>
    ((if f.isMx then scaleAt t.2 i g else 127), (List.range 32).map fun k => elemNum f (elemAt f t.1 i (32 * g + k)))

/-- A zero of either sign as +0. -/
def plusZero (x : Num) : Num := if x.isZero then .fin false 0 0 else x

/-- The sum of the products of two granules (spec/07 R146). -/
def granuleDot (a b : Granule) : Num :=
  if a.1 = 255 || b.1 = 255 then .nan
  else
    let s := (List.zipWith Num.mul a.2 b.2).foldl (Num.add .rne) (.fin false 0 0)
    plusZero (s.scale ((a.1 : Int) + b.1 - 254))

/-- The accumulator after the granules of two rows, in ascending order (spec/07 R146). -/
def accumulate (acc : Num) (a b : List Granule) : Num :=
  (List.zip a b).foldl (fun acc g => add32 acc (granuleDot g.1 g.2)) acc

/-- Every element of a row is finite. -/
def rowFinite (l : List Granule) : Bool := l.all fun g => g.1 != 255 && g.2.all Num.isFin

/-- Element (i, j) of a quad's value. -/
def quadAt (q : Nat) (i j : Nat) : Nat := bits q (32 * (64 * i + j)) 32

/-- Poison bit (i, j) of a quad. -/
def quadPoison (p : Nat) (i j : Nat) : Bool := bits p (64 * i + j) 1 == 1

/-- A quad from its elements and its poison bits, row by row. -/
def quadOf (l : List (List (Nat × Bool))) : Val :=
  .quad
    (BitVec.ofNat 131072 (l.foldr (fun r n => r.foldr (fun e m => e.1 + (m <<< 32)) 0 + (n <<< 2048)) 0))
    (BitVec.ofNat 4096 (l.foldr (fun r n => r.foldr (fun e m => (if e.2 then 1 else 0) + 2 * m) 0 + (n <<< 64)) 0))

/-- One element of TMMA: its new bits and poison (spec/11 R259). -/
def mmaElem (pov : Bool) (old : Nat) (oldP rowsP finite : Bool) (a b : List Granule) : Nat × Bool :=
  let v := fp32.decode old
  let r := accumulate v a b
  (fp32.encode r, oldP || rowsP || r.isNan || (pov && r.isInf && v.isFin && finite))

/-- A row of operands: granules, poison, finiteness. -/
abbrev OperandRow := List Granule × Bool × Bool

/-- The 64 rows of an operand tile. -/
def operandRows (f : Fmt) (t : Nat × Nat) : List OperandRow :=
  (List.range 64).map fun i =>
    let g := rowGranules f t i
    (g, rowPoison f t i, rowFinite g)

/-- The quad that TMMA leaves (spec/11 R259). -/
def mmaQuad (pov : Bool) (q p : Nat) (a b : List OperandRow) : Val :=
  quadOf ((List.zip (List.range 64) a).map fun (i, ra) => (List.zip (List.range 64) b).map fun (j, rb) =>
    mmaElem pov (quadAt q i j) (quadPoison p i j) (ra.2.1 || rb.2.1) (ra.2.2 && rb.2.2) ra.1 rb.1)

/-! ## The mint -/

/-- BF16 coefficients of a seed entry. -/
def seedCoefs (e : Nat) : List Num := (List.range (seedK e)).map fun k => bf16.decode (seedC e k)

/-- One minted value: the coefficients signed by the bits of `r`, bit k for c_k, added in FP32 (spec/11 R267). -/
def mintOne (cs : List Num) (r : Nat) : Num :=
  let signed := (List.zip (List.range cs.length) cs).map fun (k, c) => if bits r k 1 = 1 then c.neg else c
  match signed with
  | [] => .fin false 0 0
  | c :: rest => rest.foldl add32 c

/-- `n` minted values from a generator state. -/
def mintVals (cs : List Num) : Nat → Word → List Num
  | 0, _ => []
  | n + 1, st =>
    let (r, st') := lfsrTake cs.length st
    mintOne cs r :: mintVals cs n st'

/-- The smallest scale byte that holds a magnitude, from 0 to 254 (spec/11 R263, R267): 127 for zero. `w` and `q` are
the element's width and fraction bits. -/
def scaleFor (w q : Nat) (g : Num) : Nat :=
  if g.isZero then 127
  else ((List.range 255).find? fun b : Nat =>
    !(Num.fin false (2 ^ (w - 1) - 1) ((b : Int) - q - 127)).lt g).getD 254

/-- The largest finite magnitude of a list; +0 where there is none. -/
def largest (l : List Num) : Num :=
  l.foldl (fun g x => if x.isFin && g.lt x.abs then x.abs else g) (.fin false 0 0)

/-- The element of an MX granule of scale byte b, rounded and saturated (spec/11 R267). -/
def mxElem (w q b : Nat) (x : Num) : Nat :=
  let lo : Int := -(2 ^ (w - 1) : Nat)
  let hi : Int := (2 ^ (w - 1) : Nat) - 1
  match (x.scale (127 - (b : Int) + q)).toInt .rne with
  | some i => ((max lo (min hi i)) % (2 ^ w : Nat)).toNat
  | none => 0

/-- A granule of MXINT8: scale byte and elements. -/
def mintGranule (l : List Num) : Nat × List Nat :=
  if l.any fun x => !x.isFin then (255, l.map fun _ => 0)
  else
    let b := scaleFor 8 6 (largest l)
    (b, l.map (mxElem 8 6 b))

/-- A value rounded to E4M3 and saturated (spec/11 R267). -/
def mintE4m3 (x : Num) : Nat :=
  match (fpOf .e4m3).round .rne x with
  | .inf neg => (fpOf .e4m3).encode (.fin neg 7 6)
  | v => (fpOf .e4m3).encode v

/-- A number from a list of fields of `w` bits. -/
def packList (w : Nat) (l : List Nat) : Nat := l.foldr (fun e m => e % 2 ^ w + (m <<< w)) 0

/-- Consecutive runs of `n` elements, at most `k` of them. -/
def runsOf {α : Type} (n : Nat) : Nat → List α → List (List α)
  | 0, _ => []
  | k + 1, l => l.take n :: runsOf n k (l.drop n)

/-- The format that a seed entry names; BF16 where it is malformed. -/
def seedFormat (e : Nat) : Fmt :=
  match seedFmt e with
  | 3 => .e4m3
  | 6 => .mxint8
  | _ => .bf16

/-- MintTile of a seed entry (spec/11 R267): payload and band. A BF16 NaN is poisoned, and with POVF an infinity from finite
coefficients (spec/07 R148). -/
def mintTile (pov : Bool) (e : Nat) : Nat × Nat :=
  let f := seedFormat e
  let cs := seedCoefs e
  let vs := mintVals cs (64 * f.perRow) (lfsrStart (seedSeed e))
  let pov := pov && cs.all Num.isFin
  match f with
  | .e4m3 => (packList 8 (vs.map mintE4m3), 0)
  | .mxint8 =>
    let gs := (runsOf 32 128 vs).map mintGranule
    (packList 256 (gs.map fun g => packList 8 g.2), packList 32 ((runsOf 2 64 gs).map fun r => packList 8 (r.map (·.1))))
  | _ =>
    let rs := vs.map (bf16.round .rne)
    (packList 16 (rs.map bf16.encode), packList 1 (rs.map fun v => if v.isNan || (pov && v.isInf) then 1 else 0))

/-- MintTile as an entry. -/
def minted (pov : Bool) (e : Nat) : Val :=
  let t := mintTile pov e
  .single (seedFormat e) (BitVec.ofNat 32768 t.1) (BitVec.ofNat 2048 t.2)

/-- The image of a seed entry. -/
def seedImage (v : Val) : Nat :=
  match v with
  | .seed s => s.toNat
  | .single .. | .quad .. => 0

/-! ## TMMA, TDRAIN, TGEN -/

/-- The B tile of TMMA: a seed entry is minted. -/
def bTile (pov : Bool) (v : Val) : Nat × Nat :=
  match v with
  | .seed s => mintTile pov s.toNat
  | .single .. | .quad .. => singleOf v

/-- Illegal operand uses of TMMA (spec/11 R258). `b` is the value of a seeded B where it is known. -/
def mmaCheck (p : Nat) (b : Option Val) (kinds : List Kind) (top : Option Kind) : Option Flt :=
  match kinds with
  | .quad :: _ => some (misuse 1)
  | .seed :: _ => some (misuse 2)
  | _ :: .quad :: _ => some (misuse 1)
  | _ =>
    if top ≠ some .quad then some (misuse 3)
    else match b with
      | some (.seed s) => if seedFmt s.toNat = (pairOf p).2.code then none else some (misuse 4)
      | _ => none

/-- The value of the entry that an operand field names on the stack. -/
def stackVal (x : Ctx) (o : Opnd) : Option Val :=
  if o.strm then none else (entryAt x o.idx.val).bind (·.val)

/-- What TMMA makes. -/
def mmaMade (p : Nat) (x : Ctx) (vals : List Val) (top : Option Val) : Made :=
  match vals, top with
  | [a, b], some (.quad q po) =>
    let (fa, fb) := pairOf p
    { top := some (mmaQuad (povf x) q.toNat po.toNat (operandRows fa (singleOf a)) (operandRows fb (bTile (povf x) b))) }
  | _, _ => {}

/-- The form of TMMA (spec/11 R258, R259). -/
def formTmma (a b : Opnd) (p : BitVec 4) (k : Toks) : CForm :=
  { plainForm (.tmma a b p k) k [srcOf a, srcOf b] 4 [] (mmaMade p.toNat) with
    top := .inPlace
    check := fun x kinds top => mmaCheck p.toNat (stackVal x b) kinds top }

/-- TMMA (spec/11 R258, R259). -/
def execTmma (a b : Opnd) (p : BitVec 4) (k : Toks) (s : State) : Out3 := dispatch (formTmma a b p k) s

/-- Result tiles of a drain to a format. -/
def drainCount (f : Fmt) : Nat := 64 / f.perRow

/-- One element of a drained tile: bits and poison (spec/11 R261). -/
def drainElem (f : Fmt) (pov : Bool) (v : Nat) (po : Bool) : Nat × Bool :=
  let x := fp32.decode v
  let r := (fpOf f).round .rne x
  match f with
  | .fp32 => (v, po || x.isNan)
  | .fp16 => (if po then (fpOf .fp16).nanBits else (fpOf .fp16).encode r, false)
  | _ => ((fpOf f).encode r, po || r.isNan || (pov && r.isInf && x.isFin))

/-- A single of a format without scales from its elements and their poison bits, row by row (spec/07 R137, R138). -/
def tileFrom (f : Fmt) (rows : List (List (Nat × Bool))) : Val :=
  .single f (BitVec.ofNat 32768 (packList 512 (rows.map fun r => packList f.width (r.map (·.1)))))
    (BitVec.ofNat 2048 (packList 32 (rows.map fun r => packList 1 (r.map fun e => if e.2 then 1 else 0))))

/-- Tile n of a drain (spec/11 R261). -/
def drainTile (f : Fmt) (pov : Bool) (q p n : Nat) : Val :=
  tileFrom f ((List.range 64).map fun i => (List.range f.perRow).map fun j =>
    drainElem f pov (quadAt q i (f.perRow * n + j)) (quadPoison p i (f.perRow * n + j)))

/-- An operand that must be a quad (spec/11 R261; DETAIL DEDUCED, log 18). -/
def quadOnly (kinds : List Kind) : Option Flt :=
  match kinds with
  | .quad :: _ => none
  | .seed :: _ => some (misuse 2)
  | _ => some (misuse 3)

/-- What TDRAIN makes. -/
def drainMade (f : Fmt) (x : Ctx) (vals : List Val) (_ : Option Val) : Made :=
  match vals with
  | [.quad q p] => { outs := (List.range (drainCount f)).map (drainTile f (povf x) q.toNat p.toNat) }
  | _ => {}

/-- The form of TDRAIN (spec/11 R261). -/
def formTdrain (a : Opnd) (f : Fmt) (k : Toks) : CForm :=
  { plainForm (.tdrain a f k) k [srcOf a] 4 (List.replicate (drainCount f) (.single f)) (drainMade f) with
    check := fun _ kinds _ => quadOnly kinds }

/-- TDRAIN (spec/11 R261). -/
def execTdrain (a : Opnd) (f : Fmt) (k : Toks) (s : State) : Out3 := dispatch (formTdrain a f k) s

/-- An operand that must be a seed entry (spec/11 R268). -/
def seedOnly (kinds : List Kind) : Option Flt :=
  match kinds with
  | .seed :: _ => none
  | .quad :: _ => some (misuse 1)
  | _ => some (misuse 10)

/-- The form of TGEN (spec/11 R268). -/
def formTgen (a : Opnd) (k : Toks) : CForm :=
  { plainForm (.tgen a k) k [srcOf a] 4 [.single .bf16] (fun x vals _ =>
      { outs := vals.map fun v => minted (povf x) (seedImage v) }) with
    check := fun _ kinds _ => seedOnly kinds }

/-- TGEN (spec/11 R268). -/
def execTgen (a : Opnd) (k : Toks) (s : State) : Out3 := dispatch (formTgen a k) s

/-! ## SEEDFIT -/

/-- The result format of SEEDFIT (spec/11 R270). -/
def fitFmt (f : BitVec 2) : Fmt :=
  match f.toNat with
  | 0 => .bf16
  | 1 => .e4m3
  | _ => .mxint8

/-- The target elements, in row-major order of a tile of the result format (spec/11 R270). -/
def targets (vals : List Val) : List Num :=
  ((List.range 64).map fun i => (vals.map fun v =>
    (List.range 32).map fun j => valueAt .bf16 (singleOf v) i j).flatten).flatten

/-- Coefficients of a candidate: the signed sums over the targets, from the bits of each element (spec/11 R271). A sum of zero is +0,
one whose terms are all -0 too (DESIGN CHOICE, log 60). -/
def fitCoefs (ts : List Num) (rs : List Nat) (k : Nat) : List Num :=
  (List.range k).map fun c =>
    let sum := (List.zip ts rs).foldl (fun acc (t, r) => Num.add .rne acc (if bits r c 1 = 1 then t.neg else t))
      (.fin false 0 0)
    bf16.round .rne (sum.scale (-((ts.length.log2 : Nat) : Int)))

/-- The bits of `n` elements, K for each, from a generator state. -/
def fitBits (k : Nat) : Nat → Word → List Nat
  | 0, _ => []
  | n + 1, st =>
    let (r, st') := lfsrTake k st
    r :: fitBits k n st'

/-- A seed entry's image from its parts. -/
def seedEntry (sd : Word) (k : Nat) (f : Fmt) (cs : List Num) : Nat :=
  sd.toNat + k * 2 ^ 64 + f.code * 2 ^ 72 + packList 16 (cs.map bf16.encode) * 2 ^ 128

/-- The elements of a minted tile, in row-major order. -/
def mintedNums (e : Nat) : List Num :=
  let f := seedFormat e
  let t := mintTile false e
  ((List.range 64).map fun i => (List.range f.perRow).map fun j => valueAt f t i j).flatten

/-- The residual of a candidate (spec/11 R271). -/
def residual (ts ws : List Num) : Num :=
  (List.zip ts ws).foldl (fun rho (t, w) =>
    let d := add32 t w.neg
    fma fp32 .rne d d rho) (.fin false 0 0)

/-- Candidate m: its seed entry and its residual. -/
def candidate (start : Word) (k : Nat) (f : Fmt) (ts : List Num) (m : Nat) : Nat × Num :=
  let sd := leap start (2 ^ 20 * m)
  let e := seedEntry sd k f (fitCoefs ts (fitBits k ts.length (lfsrStart sd)) k)
  (e, residual ts (mintedNums e))

/-- A residual is better than the best so far. -/
def fitsBetter (r best : Num) : Bool := r.lt best || (best.isNan && !r.isNan)

/-- The best of `n` candidates from candidate `m`. -/
def bestFit (start : Word) (k : Nat) (f : Fmt) (ts : List Num) : Nat → Nat → Nat × Num → Nat × Num
  | 0, _, best => best
  | n + 1, m, best =>
    let c := candidate start k f ts m
    bestFit start k f ts n (m + 1) (if fitsBetter c.2 best.2 then c else best)

/-- The search of SEEDFIT over N candidates, N at least 1. -/
def seedSearch (start : Word) (n k : Nat) (f : Fmt) (ts : List Num) : Nat × Num :=
  bestFit start k f ts (n - 1) 1 (candidate start k f ts 0)

/-- Start seed, N, K of SEEDFIT from the count registers (spec/11 R270). -/
def fitStart (x : Ctx) : Word := wd ((x.cnt .c 5).toNat + (x.cnt .c 6).toNat * 2 ^ 32)
/-- N. -/
def fitN (x : Ctx) : Nat := bits (x.cnt .c 7).toNat 0 16
/-- K. -/
def fitK (x : Ctx) : Nat := bits (x.cnt .c 7).toNat 16 4

/-- Illegal operand uses of a source that must be a single (spec/11 R248). -/
def singlesOnly (kinds : List Kind) : Option Flt :=
  firstSome (fun k => match k with
    | .quad => some (misuse 1)
    | .seed => some (misuse 2)
    | .single _ => none) kinds

/-- Illegal operand uses of SEEDFIT (spec/11 R270, spec/20 R364). -/
def fitCheck (x : Ctx) (kinds : List Kind) : Option Flt :=
  match singlesOnly kinds with
  | some e => some e
  | none =>
    if fitN x = 0 || fitK x = 0 || 8 < fitK x || bits (x.cnt .c 7).toNat 20 12 ≠ 0 then some (misuse 8) else none

/-- What SEEDFIT makes: the best seed entry, and the residual for its latch. -/
def fitMade (f : Fmt) (x : Ctx) (vals : List Val) (_ : Option Val) : Made :=
  let (e, rho) := seedSearch (fitStart x) (fitN x) (fitK x) f (targets vals)
  { outs := [.seed (BitVec.ofNat 512 e)], landing := some (toW rho) }

/-- The form of SEEDFIT (spec/11 R270-R272). -/
def formSeedfit (a b : Opnd) (l : Fin 4) (f : BitVec 2) (k : Toks) : CForm :=
  { plainForm (.seedfit a b l f k) k (if f = 0 then [srcOf a] else [srcOf a, srcOf b]) 4 [.seed]
      (fitMade (fitFmt f)) with
    latch := some l.val
    check := fun x kinds _ => fitCheck x kinds
    hold := fun x => if (x.latch l).busy then .quiet else .go }

/-- SEEDFIT (spec/11 R270-R272). -/
def execSeedfit (a b : Opnd) (l : Fin 4) (f : BitVec 2) (k : Toks) (s : State) : Out3 := dispatch (formSeedfit a b l f k) s

end Sys2Proof.Machine
end

