-- ==== Sys2Proof/Machine/Block.lean ====
section
/-! DEFINITION. The 64-byte blocks of the engine commands: their fields, the checks made at issue and the bytes that
the command posts (spec/10 R238-R240, R242, R246, R247, spec/11 R273-R279, spec/05 R114). A block is a number, byte 0
least significant; a field is `bits b lo n` with `lo` counted from byte 0. -/

namespace Sys2Proof.Machine

/-- Two ranges of addresses meet. -/
def overlap (a n b m : Nat) : Bool := decide (a < b + m) && decide (b < a + n)

/-- Every bit of a block outside the listed fields (first bit, width) is zero (spec/00 R5). -/
def onlyFields (b : Nat) (fs : List (Nat × Nat)) : Bool :=
  b &&& (2 ^ 512 - 1 - fs.foldl (fun m f => m ||| ((2 ^ f.2 - 1) <<< f.1)) 0) == 0

/-! ## The copy block -/

/-- Fields of a copy block (spec/10 R238). -/
structure CopyBlk where
  src : Nat
  dst : Nat
  fold : Nat
  sfmt : Nat
  dfmt : Nat
  policy : Nat
  cls : Nat
  rnd : Nat
  scale : Bool
  sspace : Nat
  dspace : Nat
  sside : Nat
  stamped : Bool
  ext : List Nat
  str : List Int
  stamp : Nat
  srseed : Nat
  tw2 : Nat
  tw3 : Nat
  tw2en : Bool
  tw3en : Bool
  deriving DecidableEq, Repr

/-- Read the fields of a copy block. -/
def copyBlk (b : Nat) : CopyBlk where
  src := bits b 0 52
  dst := bits b 64 52
  fold := bits b 128 52
  sfmt := bits b 192 4
  dfmt := bits b 196 4
  policy := bits b 200 8
  cls := bits b 208 4
  rnd := bits b 212 3
  scale := bits b 215 1 == 1
  sspace := bits b 216 2
  dspace := bits b 218 2
  sside := bits b 220 1
  stamped := bits b 221 1 == 1
  ext := [bits b 224 32, bits b 256 16, bits b 272 16, bits b 288 16, bits b 304 16]
  str := [sext 32 (bits b 320 32), sext 32 (bits b 352 32), sext 32 (bits b 384 32), sext 32 (bits b 416 32)]
  stamp := bits b 448 32
  srseed := bits b 480 16
  tw2 := bits b 496 4
  tw3 := bits b 500 4
  tw2en := bits b 504 1 == 1
  tw3en := bits b 505 1 == 1

/-- A format code as a format; FP32 stands for a reserved code, which no accepted block has. -/
def fmtCode (n : Nat) : Fmt := (Fmt.ofCode n).getD .fp32

/-- Source format. -/
def CopyBlk.sf (k : CopyBlk) : Fmt := fmtCode k.sfmt
/-- Destination format. -/
def CopyBlk.df (k : CopyBlk) : Fmt := fmtCode k.dfmt
/-- Elements of the box. -/
def CopyBlk.count (k : CopyBlk) : Nat := k.ext.foldl (· * ·) 1
/-- EXT0. -/
def CopyBlk.ext0 (k : CopyBlk) : Nat := nth k.ext 0 1

/-- Bytes of a granule image (spec/07 R136). -/
def granuleBytes (f : Fmt) : Nat := 4 * f.width + 1

/-- Bytes that `n` elements take densely, as granule images for an MX format (spec/10 R239, spec/13 R296). -/
def denseBytes (f : Fmt) (n : Nat) : Nat := if f.isMx then n / 32 * granuleBytes f else n * f.width / 8

/-- Elements that are read and written together: a granule, two elements of a byte, or one. -/
def CopyBlk.unit (k : CopyBlk) : Nat :=
  if k.df.isMx then 32 else if k.df.width = 4 || k.sf.width = 4 then 2 else 1

/-- The input queues that a copy block names besides TW. -/
def CopyBlk.queues (k : CopyBlk) : List Nat := (if k.tw2en then [k.tw2] else []) ++ (if k.tw3en then [k.tw3] else [])

/-- What CPY demands of formats (spec/10 R240). -/
def cpyOk (k : CopyBlk) : Bool :=
  !k.sf.isMx && k.dfmt == k.sfmt && k.policy == 0 && k.rnd == 0 && !k.scale && k.fold == 0 && k.srseed == 0

/-- What CPYQ demands of formats (spec/10 R240). -/
def cpyqOk (k : CopyBlk) : Bool :=
  (k.sf == .fp32 || k.sf == .bf16 || k.sf == .fp16 || k.sf == .e4m3 || k.sf == .e5m2 || k.sf == .int8 ||
    k.sf == .int32) && k.df != .int64 && !(k.df.isMx && k.scale) && k.fold % (if k.scale then 8 else 4) == 0

/-- The checks of a copy block (spec/10 R238, R240). -/
def copyOk (convert : Bool) (b : Nat) : Bool :=
  let k := copyBlk b
  onlyFields b [(0, 52), (64, 52), (128, 52), (192, 30), (224, 256), (480, 26)] &&
  decide (k.sfmt < 12) && decide (k.dfmt < 12) && decide (k.rnd < 5) && k.sspace != 3 && k.dspace != 3 &&
  k.ext.all (· != 0) && !(k.tw2en && k.tw2 == 15) && !(k.tw3en && k.tw3 == 15) &&
  (k.rnd == 4 || k.srseed == 0) &&
  decide (denseBytes k.df k.count ≤ 2 ^ 30) &&
  (!(k.sf.width == 4 || k.df.width == 4) || k.df.isMx || k.ext0 % 2 == 0) &&
  (!k.df.isMx || (k.sside == 0 && k.ext0 % 32 == 0)) &&
  (if convert then cpyqOk k else cpyOk k)

/-- The offset that the coordinates in dimensions 1 to 4 give: `r` the index left, `dense` the elements of the
dimensions below, which give the stride where the block's is 0 (spec/10 R239). -/
def boxOffset (w : Nat) : List Nat → List Int → Nat → Nat → Int
  | x :: xs, t :: ts, r, dense =>
    ((r % x : Nat) : Int) * (if t = 0 then ((dense * w / 8 : Nat) : Int) else t) + boxOffset w xs ts (r / x) (dense * x)
  | _, _, _, _ => 0

/-- Address of element `e` on a side of the box: `base`, width in bits, strided or dense (spec/10 R239). -/
def boxAddr (k : CopyBlk) (base w : Nat) (strided : Bool) (e : Nat) : Int :=
  if !strided then base + (e * w / 8 : Nat)
  else base + (e % k.ext0 * w / 8 : Nat) + boxOffset w (k.ext.drop 1) k.str (e / k.ext0) k.ext0

/-- Address of source element `e` with its space. -/
def CopyBlk.srcAt (k : CopyBlk) (e : Nat) : Word :=
  spaceAddr k.sspace (boxAddr k k.src k.sf.width (k.sside == 0) e)

/-- Address at which destination element `e`, or the granule image that begins with it, is written. -/
def CopyBlk.dstAt (k : CopyBlk) (e : Nat) : Word :=
  spaceAddr k.dspace (if k.df.isMx then k.dst + (e / 32 * granuleBytes k.df : Nat)
    else boxAddr k k.dst k.df.width (k.sside == 1) e)

/-! ## The attention blocks -/

/-- Fields of an attention block's CTL and MAP (spec/11 R273). -/
structure KvBlk where
  map : Nat
  kf : Nat
  qf : Nat
  d : Nat
  cls : Nat
  sspace : Nat
  dspace : Nat
  ofmt : Nat
  omode : Bool
  deriving DecidableEq, Repr

/-- Read CTL and MAP. -/
def kvBlk (b : Nat) : KvBlk where
  map := bits b 0 52
  kf := bits b 192 4
  qf := bits b 196 4
  d := bits b 200 8
  cls := bits b 208 4
  sspace := bits b 212 2
  dspace := bits b 214 2
  ofmt := bits b 216 4
  omode := bits b 220 1 == 1

/-- Bytes of a K or V element (spec/12 R281). -/
def KvBlk.w (k : KvBlk) : Nat := if k.kf = 1 then 2 else 1
/-- Bytes of a row of K or V elements. -/
def KvBlk.row (k : KvBlk) : Nat := k.d * k.w
/-- Bytes of a query element. -/
def KvBlk.qw (k : KvBlk) : Nat := if k.qf = 0 then 4 else 2
/-- Bytes of a result element. -/
def KvBlk.ow (k : KvBlk) : Nat := if k.ofmt = 0 then 4 else 2

/-- A code of FP32 or BF16. -/
def fq (n : Nat) : Bool := n == 0 || n == 1

/-- The checks that every attention block shares (spec/11 R273, spec/05 R114). -/
def kvOk (k : KvBlk) : Bool :=
  (k.kf == 1 || k.kf == 3) && decide (16 ≤ k.d) && decide (k.d ≤ 128) && k.d % 16 == 0 &&
  k.sspace != 3 && k.dspace != 3 && k.map % 16 == 0

/-- Pages that `n` tokens from `pos` touch. -/
def pagesOf (pos n : Nat) : Nat := (pos + n - 1) / 64 - pos / 64 + 1

/-- KVAPP: its post, or nothing where the block is refused (spec/11 R274). -/
def kvappPost (b : Nat) : Option Nat :=
  let k := kvBlk b
  let pos := bits b 224 32
  let n := bits b 256 7
  if onlyFields b [(0, 52), (64, 52), (192, 29), (224, 32), (256, 7)] && kvOk k && k.qf == 0 && k.ofmt == 0 &&
    !k.omode && decide (1 ≤ n) && decide (n ≤ 64) then some (2 * n * k.row + 4 * k.d * pagesOf pos n)
  else none

/-- KVSEL (spec/11 R276). -/
def kvselPost (b : Nat) : Option Nat :=
  let k := kvBlk b
  let n := bits b 256 17
  if onlyFields b [(0, 52), (64, 52), (128, 52), (192, 29), (224, 17), (256, 17), (288, 17), (320, 17), (352, 32)] &&
    kvOk k && fq k.qf && k.ofmt == 0 && !k.omode && decide (bits b 224 17 ≤ 65535) && decide (1 ≤ n) &&
    decide (n ≤ 65536) && decide (bits b 288 17 ≤ 65536) && decide (bits b 320 17 ≤ n) && bits b 128 52 % 8 == 0
  then some (8 + 8 * n)
  else none

/-- KVATT (spec/11 R278); the stream of OMODE 1 is checked apart. -/
def kvattPost (b : Nat) : Option Nat :=
  let k := kvBlk b
  let nq := bits b 352 7
  if onlyFields b [(0, 52), (64, 52), (128, 52), (192, 29), (224, 32), (256, 52), (320, 32), (352, 7), (360, 4)] &&
    kvOk k && fq k.qf && fq k.ofmt && decide (1 ≤ nq) && decide (nq ≤ 64) && bits b 128 52 % 8 == 0 &&
    (if k.omode then bits b 256 52 == 0 else bits b 360 4 == 0)
  then some (if k.omode then 0 else nq * k.d * k.ow)
  else none

/-- KVPRE (spec/11 R279). -/
def kvprePost (b : Nat) : Option Nat :=
  let k := kvBlk b
  if onlyFields b [(0, 52), (64, 52), (128, 52), (192, 29), (224, 32), (256, 52), (320, 32)] && kvOk k && fq k.qf &&
    fq k.ofmt && !k.omode && bits b 224 32 % 64 == 0 then some (128 * k.row + 4 * k.d + 64 * k.d * k.ow)
  else none

/-- The stream of a KVATT with OMODE 1 is as spec/11 R278 requires it. -/
def deliverOk (b : Nat) (t : Strm) : Bool :=
  let k := kvBlk b
  t.armed && t.fmt == fmtCode k.ofmt && !t.row && !t.comp && t.xpose == 0 && t.sstr == 0 &&
    decide (bits b 352 7 * k.d ≤ 64 * (fmtCode k.ofmt).perRow) && decide (t.rpos < t.extent)

/-! ## SELACT, CPYREL and XSTART -/

/-- SELACT (spec/10 R247). -/
def selactPost (b : Nat) : Option Nat :=
  let f := bits b 192 4
  let n := bits b 224 32
  if onlyFields b [(0, 52), (64, 52), (128, 52), (192, 4), (208, 4), (216, 6), (224, 32), (256, 32)] &&
    decide (f < 12) && !(fmtCode f).isMx && bits b 216 2 != 3 && bits b 218 2 != 3 && bits b 220 2 != 3 &&
    bits b 0 52 % 64 == 0 && bits b 64 52 % 4 == 0 && decide (1 ≤ n) && decide (n ≤ 64 * (fmtCode f).perRow)
  then some (4 * n + 4)
  else none

/-- CPYREL: the block's own checks; its post follows from the slab map entry (spec/10 R242). -/
def cpyrelOk (b : Nat) : Bool :=
  onlyFields b [(0, 52), (64, 52), (208, 4)] && bits b 0 52 % 16 == 0 && bits b 64 52 % 64 == 0

/-- XSTART (spec/10 R246). -/
def xstartOk (b : Nat) : Bool :=
  onlyFields b [(0, 52), (64, 26), (128, 384)] &&
  (bits b 89 1 == 0 || (bits b 0 52 % 4 == 0 && decide (1 ≤ bits b 76 13) && decide (bits b 76 13 ≤ 4096) &&
    decide (bits b 64 12 + bits b 76 13 ≤ 4096)))

/-- What a command posts at issue; nothing where its block is refused. -/
def blockPost (op : CmdOp) (b : Nat) : Option Nat :=
  match op with
  | .cpy => if copyOk false b then some (denseBytes (copyBlk b).df (copyBlk b).count) else none
  | .cpyq => if copyOk true b then some (denseBytes (copyBlk b).df (copyBlk b).count) else none
  | .cpyrel => if cpyrelOk b then some 0 else none
  | .kvapp => kvappPost b
  | .kvsel => kvselPost b
  | .kvatt => kvattPost b
  | .kvpre => kvprePost b
  | .selact => selactPost b

/-! ## The slab map entry -/

/-- The fields of a slab map entry (spec/05 R114). -/
structure Slab where
  base : Nat
  logp : Nat
  pages : Nat
  pstride : Nat
  deriving DecidableEq, Repr

/-- Read a slab map entry. -/
def slabOf (e : Nat) : Slab := ⟨bits e 0 52, bits e 64 5, bits e 72 17, bits e 96 32⟩

/-- The entry obeys spec/05 R114. -/
def slabOk (e : Nat) : Bool :=
  let m := slabOf e
  bits e 52 12 == 0 && bits e 69 3 == 0 && bits e 89 7 == 0 && decide (m.logp ≤ 16) && decide (m.pages ≤ 2 ^ m.logp) &&
    m.pstride % 64 == 0

/-- CPYREL refuses the entry: 1 where it fails R114, 6 by its own conditions, 0 for none (spec/10 R242, spec/21
R376). -/
def relocRefused (b e : Nat) : Nat :=
  let m := slabOf e
  let n := 2 ^ m.logp * m.pstride
  if !slabOk e then 1
  else if m.logp = 16 || decide (2 ^ 30 < n) || overlap m.base n (bits b 64 52) (2 * n) then 6
  else 0

end Sys2Proof.Machine
end

