-- ==== Sys2Proof/Machine/Command.lean ====
section
/-! DEFINITION. Engine commands in the K lane: escrow counters (spec/10 R243-R245, spec/21 R383, R384), the block cache
(R236, R237), and the issue of a command into its engine (R233-R235, R246). -/

namespace Sys2Proof.Machine

/-- A K instruction that acts on its cluster: a supervisor core stands in none (DESIGN CHOICE, log 39). -/
def kCluster (i : Instr) (g : Guard) (regs : List XReg) (body : Nat → State → Out3) (s : State) : Out3 :=
  kInstr i g 4 regs (fun c s => if isSup c then .fault .noCluster else body c s) s

/-! ## Escrow counters -/

/-- An escrow counter. -/
def Cluster.escrow (x : Cluster) (e : Nat) : Nat := (vget x.ec e 0).toNat

/-- Post bytes to a counter (spec/10 R239, R243). -/
def postEc (s : State) (cl e n : Nat) : State :=
  s.modCluster cl fun x => { x with ec := vput x.ec e (BitVec.ofNat 32 (x.escrow e + n)) }

/-- Retire bytes from a counter; `who` is the command or lane that does. -/
def retireEc (s : State) (cl e n : Nat) (who : Word) : State :=
  if n = 0 then s
  else
    let cyc := s.cycle
    s.modCluster cl fun x =>
      { x with
        ec := vput x.ec e (BitVec.ofNat 32 (x.escrow e - n))
        ecBy := vput x.ecBy e who
        ecAt := vput x.ecAt e cyc }

/-- The largest value of a counter. -/
def ecMax : Nat := 2 ^ 32 - 1

/-- ECRD reads a counter, relaxed (spec/10 R245, spec/14 R321). -/
def execEcrd (g : Guard) (d : XReg) (e : Fin 64) (s : State) : Out3 :=
  kCluster (.ecrd g d e) g [d] (fun c s =>
    let pos := posOf s c .k
    gated s c .k pos noPos 6 fun o =>
      let v := o.getD (wd ((s.cluster (clusterOf c)).escrow e.val))
      noted s c .k pos noPos 6 v (.next (advance (s.modCtx c fun x => x.wx d v) c .k 4))) s

/-- ECPOST posts or retires; what it retires is seen after every earlier access of K (spec/10 R243, spec/21 R383, spec/06 R121). -/
def execEcpost (g : Guard) (a : XReg) (e : Fin 64) (s : State) : Out3 :=
  kCluster (.ecpost g a e) g [a] (fun c s =>
    let cl := clusterOf c
    let x := s.cluster cl
    let v := sext 32 ((s.ctx c).rx a).toNat
    let n := v.natAbs
    if 0 ≤ v then
      if ecMax < x.escrow e.val + n then .next (blockLane s c .k 8 e.val n 0 true)
      else .next (advance (postEc (endWait s c .k (vget x.ecBy e.val 0) 0) cl e.val n) c .k 4)
    else if x.escrow e.val < n then
      .next (takeFault s c .k ⟨0x2B, e.val, 0, wd (x.escrow e.val + n * 2 ^ 32)⟩ (wordOf (.ecpost g a e)))
    else if !(s.ctx c).stores.isEmpty then .next (blockQuiet s c .k)
    else
      let pos := posOf s c .k
      .next (advance (retireEc s cl e.val n pos) c .k 4)) s

/-- ECWAIT waits until a counter is at most a threshold (spec/10 R244). -/
def execEcwait (g : Guard) (a : XReg) (e : Fin 64) (s : State) : Out3 :=
  kCluster (.ecwait g a e) g [a] (fun c s =>
    let x := s.cluster (clusterOf c)
    let v := x.escrow e.val
    let lim := bits ((s.ctx c).rx a).toNat 0 32
    let pos := posOf s c .k
    let setter := vget x.ecBy e.val 0
    if lim < v then .next (blockLane s c .k 2 e.val lim 0 true)
    else gated s c .k pos setter 2 fun _ =>
      noted s c .k pos setter 2 (wd v) (.next (advance (endWait s c .k setter 0) c .k 4))) s

/-- ESCROW_STALL: a post that the capacity has held for 2^24 cycles, in which the counter has not fallen, faults at the
posting instruction (spec/21 R384). -/
def execEscrowStall (c : Nat) (s : State) : Out3 :=
  let y := (s.ctx c).k
  match y.wait with
  | some w =>
    let x := s.cluster (clusterOf c)
    let since := max w.since (vget x.ecAt w.obj 0)
    if w.kind = 8 && decide (2 ^ 24 ≤ s.cycle - since) && decide (ecMax < x.escrow w.obj + w.amount) then
      match fetchWord s c y.pc with
      | .word s word =>
        .next (takeFault s c .k ⟨0x2C, w.obj, 0, wd (x.escrow w.obj + w.amount * 2 ^ 32)⟩ (wd word))
      | .flt .. | .wait => .next s
    else .next s
  | none => .next s

/-! ## The block cache -/

/-- The blocks that K lanes of a cluster have captured for commands that they are still issuing serve no later command: an
invalidation comes between (spec/10 R236, R237). -/
def staleCaptures (s : State) (cl : Nat) : State :=
  { s with ctxs := s.ctxs.map fun e =>
      (e.1, if !isSup e.1 && clusterOf e.1 == cl then
        { e.2 with issuing := e.2.issuing.map fun j => { j with fresh := false } }
      else e.2) }

/-- The cluster's block cache keeps the entries that `keep` says, and what its K lanes have captured is not added to it. -/
def invalidateBlocks (s : State) (cl : Nat) (keep : Nat × Nat × BitVec 512 → Bool) : State :=
  (staleCaptures s cl).modCluster cl fun x => { x with bcache := x.bcache.filter keep }

/-- CPINV invalidates the entry of one block (spec/10 R237). -/
def execCpinv (g : Guard) (a : XReg) (s : State) : Out3 :=
  kCluster (.cpinv g a) g [a] (fun c s =>
    let blk := ((s.ctx c).rx a).toNat / 64
    let asid := asidOf (s.ctx c)
    .next (advance (invalidateBlocks s (clusterOf c) fun e => !(e.1 / 64 == blk && e.2.1 == asid)) c .k 4)) s

/-- CPINV.ALL invalidates every entry. -/
def execCpinvAll (g : Guard) (s : State) : Out3 :=
  kCluster (.cpinvAll g) g [] (fun c s => .next (advance (invalidateBlocks s (clusterOf c) fun _ => false) c .k 4)) s

/-- A capture: the block, and whether it was read afresh. -/
inductive Capture where
  | ok (s : State) (b : BitVec 512) (fresh : Bool)
  | flt (s : State) (f : Flt)
  | wait
  deriving DecidableEq, Repr

/-- Capture(xA): the cluster's block cache serves it where it may and the turn says so, else memory does (spec/10
R236). It is a read of the issuing lane in the
command's class, which stands in the block (of a kiln start, `start`, class 0), and comes behind K's held stores as such (spec/06 R125). A fault
of it reports class 0, since the block that names the class could not be read (FR_INFO: DESIGN CHOICE, log 60). -/
def capture (s : State) (c : Nat) (a : Word) (start : Bool) : Capture :=
  let held := (s.cluster (clusterOf c)).bcache.find? fun e => e.1 == a.toNat && e.2.1 == asidOf (s.ctx c)
  match (if s.turn.cached then held else none) with
  | some e => .ok s e.2.2 false
  | none => match resolve s (Acc.load c 9 0 0) a 64 with
    | .flt s f => .flt s f
    | .wait => .wait
    | .ok t ps =>
      let b := leNat (readPieces t ps)
      if storesFirst (s.ctx c) (wd (if start then 0 else bits b 208 4 * 16)) false ps then .wait else .ok t (BitVec.ofNat 512 b) true

/-- Keep a block in the cache of 32 entries: the 32 newest captures, a fresh one in place of an older one of the same address
and ASID (spec/10 R236 leaves to the device which it keeps: DESIGN CHOICE, log 52). -/
def cacheBlock (x : Cluster) (a asid : Nat) (b : BitVec 512) : Cluster :=
  { x with bcache := ((a, asid, b) :: x.bcache.filter fun e => !(e.1 == a && e.2.1 == asid)).take 32 }

/-! ## Issue -/

/-- The engine of a command (spec/12 R284, spec/10 R247). -/
def CmdOp.eng : CmdOp → Eng
  | .cpy | .cpyq | .cpyrel => .ce
  | .kvsel | .selact => .sv
  | .kvapp | .kvatt => .dc
  | .kvpre => .pf

/-- Commands that an engine's queue holds (spec/10 R234, spec/12 R284). -/
def Eng.depth : Eng → Nat
  | .ce => 256
  | .sv | .pf | .dc => 64

/-- A command that has not started. -/
def Cmd.pending (k : Cmd) : Bool := k.phase == .stamped || k.phase == .queued

/-- GT has reached a stamp (spec/10 R235). -/
def stampDue (s : State) (cl stamp : Nat) : Bool :=
  decide ((s.gtOf (dieOfCluster cl) + 2 ^ 32 - stamp) % 2 ^ 32 < 2 ^ 31)

/-- The command's block is stamped (spec/10 R235). -/
def isStamped (op : CmdOp) (b : Nat) : Bool :=
  match op with
  | .cpy | .cpyq => (copyBlk b).stamped
  | .cpyrel | .kvapp | .kvsel | .kvatt | .kvpre | .selact => false

/-- A command waits for its stamp when it is issued now. -/
def waitsStamp (s : State) (op : CmdOp) (cl b : Nat) : Bool := isStamped op b && !stampDue s cl (copyBlk b).stamp

/-- The input queues of a command: TW, then those its block names (spec/10 R234). -/
def inputQueues (op : CmdOp) (w : Fin 16) (b : Nat) : List Nat :=
  (if w = 15 then [] else [w.val]) ++
  (match op with
    | .cpy | .cpyq => (copyBlk b).queues
    | .cpyrel | .kvapp | .kvsel | .kvatt | .kvpre | .selact => [])

/-- Enter a command, which has posted, in its engine (spec/10 R234). -/
def enterCmd (s : State) (c : Nat) (op : CmdOp) (b : BitVec 512) (a : Word) (w t : Fin 16) (e post : Nat)
    (map : BitVec 128) : State :=
  let cl := clusterOf c
  let eng := op.eng
  let ph := if waitsStamp s op cl b.toNat then Phase.stamped else .queued
  let pos := posOf s c .k
  let cyc := s.cycle
  s.modCluster cl fun x =>
    let no := vget x.entered eng.idx 0
    { x with
      cmds := x.cmds ++ [{
        id := x.nextCmd
        no := no
        eng := eng
        op := op
        c := c
        pos := pos
        blk := b
        blkAddr := a
        ec := e
        ts := t.val
        tws := inputQueues op w b.toNat
        phase := ph
        map := map
        mapped := op == .cpyrel
        ready := false
        left := post
        e := 0
        ahead := []
        part := []
        outs := []
        k := 0
        mx := 0
        sr := 0
        quar := []
        bad := none
        readers := []
        data := []
        deliver := none
        since := cyc }]
      nextCmd := x.nextCmd + 1
      entered := vput x.entered eng.idx (no + 1) }

/-- Room for one more command: in the engine's queue, and for a stamped one in the time-sorted buffer of 64 too (spec/10
R234, R235). -/
def hasRoom (x : Cluster) (eng : Eng) (stamped : Bool) : Bool :=
  decide ((x.cmds.filter fun k => k.eng == eng && k.pending).length < eng.depth) &&
    (!stamped || decide ((x.cmds.filter fun k => k.phase == .stamped).length < 64))

/-- What is found at issue besides the block: the slab map entry of a CPYREL and its post. -/
inductive AtIssue where
  | ok (s : State) (map : BitVec 128) (post : Nat)
  | flt (s : State) (f : Flt)
  | wait
  deriving DecidableEq, Repr

/-- The checks at issue that reach beyond the block: the delivery stream of a KVATT (spec/11 R278), the slab map entry
of a CPYREL (spec/10 R242). -/
def atIssue (s : State) (c : Nat) (op : CmdOp) (b post : Nat) (a : Word) : AtIssue :=
  match op with
  | .kvatt =>
    if (kvBlk b).omode && !deliverOk b (vget (s.ctx c).strm (bits b 360 4) Strm.init) then
      .flt s ⟨0x04, 7, 0, wd (bits b 360 4)⟩
    else .ok s 0 post
  | .cpyrel =>
    let cls := wd (bits b 208 4 * 16)
    match resolve s (Acc.load c 0 3 cls) (wd (bits b 0 52)) 16 with
    | .flt s f => .flt s f
    | .wait => .wait
    | .ok s ps =>
      let e := leNat (readPieces s ps)
      if storesFirst (s.ctx c) cls false ps then .wait else match relocRefused b e with
      | 0 => .ok s (BitVec.ofNat 128 e) (2 ^ (slabOf e).logp * (slabOf e).pstride)
      | n => .flt s ⟨0x2A, n, a, 0⟩
  | .cpy | .cpyq | .kvapp | .kvsel | .kvpre | .selact => .ok s 0 post

/-- The record of a command or start that K is issuing at its present instruction; one of another instruction is dropped
(spec/10 R234). -/
def issuingHere (s : State) (c : Nat) : State × Option Issuing :=
  let x := s.ctx c
  match x.issuing with
  | some j => if j.pc = x.k.pc then (s, some j) else (dropIssue s c, none)
  | none => (s, none)

/-- Keep what K is issuing, or nothing. -/
def keepIssue (s : State) (c : Nat) (j : Option Issuing) : State := s.modCtx c fun x => { x with issuing := j }

/-- The block of the command that K issues: captured once, and kept while K stalls (spec/10 R234). -/
inductive Held where
  | ok (s : State) (j : Issuing)
  | flt (s : State) (f : Flt)
  | wait (s : State)
  deriving DecidableEq, Repr

/-- The block that K has captured for its present instruction, or captures now. -/
def holdBlock (s : State) (c : Nat) (a : Word) (ec : Nat) (start : Bool) : Held :=
  match issuingHere s c with
  | (s, some j) => .ok s j
  | (s, none) => match capture s c a start with
    | .flt s f => .flt s f
    | .wait => .wait s
    | .ok s b fresh => .ok s ⟨(s.ctx c).k.pc, b, fresh, none, ec, false⟩

/-- What the command finds at issue besides its block, found once. -/
def findOnce (s : State) (c : Nat) (op : CmdOp) (j : Issuing) (p : Nat) (a : Word) : AtIssue :=
  match j.found with
  | some (map, post) => .ok s map post
  | none => atIssue s c op j.blk.toNat p a

/-- A checked command posts, where the counter has room for its post, and enters its engine, where that has room; else it
keeps what it has done and K stalls (spec/10 R234). -/
def postAndEnter (s : State) (c : Nat) (op : CmdOp) (a : Word) (w t : Fin 16) (j : Issuing) (map : BitVec 128)
    (post : Nat) : State :=
  let cl := clusterOf c
  let j := { j with found := some (map, post) }
  if !j.posted && decide (ecMax < (s.cluster cl).escrow j.ec + post) then
    blockLane (keepIssue s c (some j)) c .k 8 j.ec post 0 false
  else
    let s := if j.posted then s else postEc s cl j.ec post
    if !hasRoom (s.cluster cl) op.eng (isStamped op j.blk.toNat) then
      blockPartner (keepIssue s c (some { j with posted := true })) c .k
    else
      let asid := asidOf (s.ctx c)
      let s := if j.fresh then s.modCluster cl fun x => cacheBlock x a.toNat asid j.blk else s
      advance (enterCmd (keepIssue s c none) c op j.blk a w t j.ec post map) c .k 4

/-- Issue an engine command: capture, checks, post and entry (spec/10 R234, spec/21 R382). -/
def issueCmd (i : Instr) (g : Guard) (op : CmdOp) (a : XReg) (w t : Fin 16) (e : Fin 64) (s : State) : Out3 :=
  kCluster i g [a] (fun c s =>
    let addr := (s.ctx c).rx a
    let faulted := fun (s : State) f => Host.Outcome.next (takeFault (keepIssue s c none) c .k f (wordOf i))
    if addr.toNat % 64 ≠ 0 then faulted s ⟨0x04, 9, addr, 0⟩
    else match holdBlock s c addr e.val false with
      | .flt s f => faulted s f
      | .wait s => .next (blockQuiet s c .k)
      | .ok s j => match blockPost op j.blk.toNat with
        | none => faulted s ⟨0x04, 9, addr, 0⟩
        | some p => match findOnce s c op j p addr with
          | .flt s f => faulted s f
          | .wait => .next (blockQuiet (keepIssue s c (some j)) c .k)
          | .ok s map post => .next (postAndEnter s c op addr w t j map post)) s

/-- CPY (spec/10 R240, R241). -/
def execCpy (g : Guard) (a : XReg) (w t : Fin 16) (e : Fin 64) (s : State) : Out3 :=
  issueCmd (.cpy g a w t e) g .cpy a w t e s

/-- CPYQ (spec/10 R240, R241). -/
def execCpyq (g : Guard) (a : XReg) (w t : Fin 16) (e : Fin 64) (s : State) : Out3 :=
  issueCmd (.cpyq g a w t e) g .cpyq a w t e s

/-- CPYREL (spec/10 R242). -/
def execCpyrel (g : Guard) (a : XReg) (w t : Fin 16) (e : Fin 64) (s : State) : Out3 :=
  issueCmd (.cpyrel g a w t e) g .cpyrel a w t e s

/-- KVAPP (spec/11 R274). -/
def execKvapp (g : Guard) (a : XReg) (w t : Fin 16) (e : Fin 64) (s : State) : Out3 :=
  issueCmd (.kvapp g a w t e) g .kvapp a w t e s

/-- KVSEL (spec/11 R276). -/
def execKvsel (g : Guard) (a : XReg) (w t : Fin 16) (e : Fin 64) (s : State) : Out3 :=
  issueCmd (.kvsel g a w t e) g .kvsel a w t e s

/-- KVATT (spec/11 R278). -/
def execKvatt (g : Guard) (a : XReg) (w t : Fin 16) (e : Fin 64) (s : State) : Out3 :=
  issueCmd (.kvatt g a w t e) g .kvatt a w t e s

/-- KVPRE (spec/11 R279). -/
def execKvpre (g : Guard) (a : XReg) (w t : Fin 16) (e : Fin 64) (s : State) : Out3 :=
  issueCmd (.kvpre g a w t e) g .kvpre a w t e s

/-- SELACT (spec/10 R247). -/
def execSelact (g : Guard) (a : XReg) (w t : Fin 16) (e : Fin 64) (s : State) : Out3 :=
  issueCmd (.selact g a w t e) g .selact a w t e s

/-- XSTART enters a start in the kiln's queue of four (spec/10 R246). -/
def execXstart (g : Guard) (a : XReg) (w t : Fin 16) (s : State) : Out3 :=
  kCluster (.xstart g a w t) g [a] (fun c s =>
    let cl := clusterOf c
    let addr := (s.ctx c).rx a
    let faulted := fun (s : State) f => Host.Outcome.next (takeFault (keepIssue s c none) c .k f (wordOf (.xstart g a w t)))
    if addr.toNat % 64 ≠ 0 then faulted s ⟨0x04, 9, addr, 0⟩
    else match holdBlock s c addr 0 true with
      | .flt s f => faulted s f
      | .wait s => .next (blockQuiet s c .k)
      | .ok s j =>
        if !xstartOk j.blk.toNat then faulted s ⟨0x04, 9, addr, 0⟩
        else if 4 ≤ (s.cluster cl).starts.length then .next (blockPartner (keepIssue s c (some j)) c .k)
        else
          let pos := posOf s c .k
          let asid := asidOf (s.ctx c)
          let cyc := s.cycle
          let s := (keepIssue s c none).modCluster cl fun x =>
            let x := if j.fresh then cacheBlock x addr.toNat asid j.blk else x
            { x with starts := x.starts ++ [⟨x.nextCmd, j.blk, addr, c, pos, w.val, t.val, cyc⟩], nextCmd := x.nextCmd + 1 }
          .next (advance s c .k 4)) s

end Sys2Proof.Machine
end

