-- ==== Sys2Proof/Machine/Commit.lean ====
section
/-! DEFINITION. The compute lane's own steps: the commit of an instruction (spec/04 R86), a push that had found no room,
the unwinding of a trap (R88), anticipation (R80) and the end of a move of an entry (R71). -/

namespace Sys2Proof.Machine

/-- C_COMMIT: the oldest dispatched instruction commits where it has met no fault, once its results have their storage
(spec/04 R86). -/
def execCCommit (c : Nat) (s : State) : Out3 :=
  match (s.ctx c).infl with
  | [] => .next s
  | j :: _ =>
    if j.flt.isSome then .next s
    else match (j.results.map (·.1)).foldl (prepResult c) (s, true) with
      | (t, false) => .next (keepPerf s c t)
      | (t, true) => .next (keepPerf s c (recut (progress (commitOldest (t.modCtx c countStep) c) (clusterOf c)) c))

/-- SIG_PUSH_DEFERRED: the oldest push that waits in the compute lane is made, once its queue has room (spec/04 R86); the wait
of a SIG is logged (spec/14 R311). -/
def execSigPushDeferred (c : Nat) (s : State) : Out3 :=
  match (s.ctx c).sigWait with
  | [] => .next s
  | w :: rest =>
    if tokenRoom (s.ctx c) w.q w.n then
      let s := logWait s (dieOf c) w.who (vget (s.ctx c).taker w.q 0) (some (sigPushWait w)) 0 true
      .next (progress (s.modCtx c fun x => pushTokens { x with sigWait := rest } w.q w.n w.who) (clusterOf c))
    else .next s

/-- An unwound TRAP has completed in its lane, which a step counts (spec/14 R310). -/
def countTrap (j : Infl) (x : Ctx) : Ctx :=
  match j.i with
  | .trap .. => countStep x
  | _ => x

/-- TRAP_UNWIND: the oldest dispatched instruction has met a fault, and every earlier one has committed: it and the
later ones are cancelled, and the trap is raised at it (spec/04 R88). Of a held team only the cancelling remains to be
done (spec/14 R307). -/
def execTrapUnwind (c : Nat) (s : State) : Out3 :=
  match trapOf (s.ctx c) with
  | none => .next s
  | some (j, f) =>
    let s := giveBack s c
    if teamHeld s c || (s.ctx c).dueFlt.isSome then .next (recut (unwindAll s c) c)
    else
      let (s, e) := unwindTrap (s.modCtx c (countTrap j)) c j f
      .next (takeDue s c e)

/-- ANTICIPATION_LIFT: the shallowest entry at depth 0 to 3 that can get its slots begins to rise (spec/04 R80); none does while the
team is being saved (spec/04 R91). -/
def execAnticipationLift (c : Nat) (s : State) : Out3 :=
  .next (if teamSaving s c then s else keepPerf s c (liftFirst c (toLift (s.ctx c)) (leaveDeep s c)))

/-- STACK_MOVE_COMPLETE: the copy of an entry that moves ends, and the slots that a sink has freed go to the entry that it
was made for (spec/04 R71, R73). -/
def execStackMoveComplete (c id : Nat) (s : State) : Out3 := .next (endMove c s id)

end Sys2Proof.Machine
end

