-- ==== Sys2Proof/Machine/Vector.lean ====
section
/-! DEFINITION. The vector pipes (spec/11 R248-R257, spec/07 R147-R150). -/

namespace Sys2Proof.Machine

/-! ## Cells -/

/-- An element's bits and its poison bit. -/
abbrev Cell := Nat × Bool

/-- The cells of a single read in a format, row by row. -/
def cellsOf (f : Fmt) (v : Val) : List (List Cell) :=
  let t := singleOf v
  (List.range 64).map fun i => (List.range f.perRow).map fun j => (elemAt f t.1 i j, poisonOf f t i j)

/-- Combine two tiles cell by cell. -/
def zipCells {α β γ : Type} (g : α → β → γ) (a : List (List α)) (b : List (List β)) : List (List γ) :=
  List.zipWith (List.zipWith g) a b

/-- VRND of CVT_CTL (spec/07 R142). -/
def vrnd (x : Ctx) : Rm := Rm.ofCode (bits x.cvtCtl.toNat 13 2)

/-- A floating-point result cell: its bits, and its poison (spec/07 R148). `po` says that an input is poisoned, `fin`
that every input is finite. -/
def fpCell (f : Fmt) (pov po fin : Bool) (r : Num) : Cell :=
  ((fpOf f).encode r, (f == .bf16 || f == .fp32) && (po || r.isNan || (pov && r.isInf && fin)))

/-- The value of a cell of a floating-point format. -/
def cellNum (f : Fmt) (c : Cell) : Num := (fpOf f).decode c.1

/-- The value of a cell of an integer format. -/
def cellInt (f : Fmt) (c : Cell) : Int := sext f.width c.1

/-- How an integer result that lies outside its range is treated (spec/11 R249). -/
inductive IntMode where
  | wrap
  | sat
  | trap
  deriving DecidableEq, Repr

/-- An integer lies outside the range of w bits. -/
def outside (w : Nat) (r : Int) : Bool :=
  decide (r < -(2 ^ (w - 1) : Nat)) || decide ((2 ^ (w - 1) : Nat) - 1 < r)

/-- The element bits of an integer result. -/
def intBits (m : IntMode) (w : Nat) (r : Int) : Nat :=
  let r : Int := match m with
    | .sat => max (-(2 ^ (w - 1) : Nat)) (min ((2 ^ (w - 1) : Nat) - 1) r)
    | .wrap | .trap => r
  (r % (2 ^ w : Nat)).toNat

/-- The first cell, in row-major order, that satisfies a condition. -/
def findCell {α : Type} (p : α → Bool) : Nat → List (List α) → Option (Nat × Nat)
  | _, [] => none
  | i, r :: rest => match r.findIdx? p with
    | some j => some (i, j)
    | none => findCell p (i + 1) rest

/-- An elementwise operation: on values of a floating-point format, and on integers. -/
structure EOp where
  fp : Rm → List Num → Num
  int : List Int → Int

/-- The result of an elementwise operation on the cells that stand at one place (spec/11 R249). -/
def cellOp (f : Fmt) (m : IntMode) (op : EOp) (x : Ctx) (cs : List Cell) : Cell :=
  if f.isInt then (intBits m f.width (op.int (cs.map (cellInt f))), false)
  else
    let ns := cs.map (cellNum f)
    fpCell f (povf x) (cs.any (·.2)) (ns.all Num.isFin) ((fpOf f).round (vrnd x) (op.fp (vrnd x) ns))

/-- The cells of several tiles at each place. -/
def gather (f : Fmt) (vals : List Val) : List (List (List Cell)) :=
  match vals with
  | [] => []
  | [v] => (cellsOf f v).map fun r => r.map fun c => [c]
  | v :: rest => zipCells (· :: ·) (cellsOf f v) (gather f rest)

/-- The integer-overflow trap of a tile of results (spec/20 R357): column, row, pipe. -/
def overflowTrap (f : Fmt) (m : IntMode) (op : EOp) (unit : Nat) (cs : List (List (List Cell))) : Option Flt :=
  if m = .trap then
    (findCell (fun c => outside f.width (op.int (c.map (cellInt f)))) 0 cs).map fun (i, j) =>
      ⟨0x07, 0, 0, elemInfo i j + (if unit = 6 then 4096 else 0)⟩
  else none

/-- What an elementwise instruction makes. -/
def elemMade (f : Fmt) (m : IntMode) (op : EOp) (unit : Nat) (x : Ctx) (vals : List Val) (_ : Option Val) : Made :=
  let cs := gather f vals
  { outs := [tileFrom f (cs.map fun r => r.map (cellOp f m op x))], flt := overflowTrap f m op unit cs }

/-- Some dispatched instruction of the core's contexts has taken pipe A and not yet committed. -/
def pipeABusy (s : State) : Bool :=
  match actor s with
  | some (c, _) => (occupied s (coreOf c)).any fun k => (s.ctx k).infl.any fun j => j.unit == 5
  | none => false

/-- The pipe of a vector-pipe instruction (spec/04 R83). One that names none takes pipe A, or pipe B where pipe A can be
occupied and the turn says that it is. -/
def pipeUnit (s : State) (v : BitVec 2) : Nat :=
  match v.toNat with
  | 0 => if s.turn.pipeB && pipeABusy s then 6 else 5
  | 1 => 5
  | _ => 6

/-- A vector-pipe instruction: singles in, one single out (spec/11 R248). -/
def vecForm (i : Instr) (k : Toks) (srcs : List Src) (unit : Nat) (out : Fmt)
    (make : Ctx → List Val → Option Val → Made) : CForm :=
  { plainForm i k srcs unit [.single out] make with check := fun _ kinds _ => singlesOnly kinds }

/-- A function of two values. -/
def num2 (g : Num → Num → Num) : List Num → Num
  | [a, b] => g a b
  | _ => .nan
/-- A function of one value. -/
def num1 (g : Num → Num) : List Num → Num
  | [a] => g a
  | _ => .nan
/-- A function of two integers. -/
def int2 (g : Int → Int → Int) : List Int → Int
  | [a, b] => g a b
  | _ => 0
/-- A function of one integer. -/
def int1 (g : Int → Int) : List Int → Int
  | [a] => g a
  | _ => 0

/-- a + b. -/
def opAdd : EOp := ⟨fun rm => num2 (Num.add rm), int2 (· + ·)⟩
/-- a - b. -/
def opSub : EOp := ⟨fun rm => num2 fun a b => Num.add rm a b.neg, int2 (· - ·)⟩
/-- a * b. -/
def opMul : EOp := ⟨fun _ => num2 Num.mul, int2 (· * ·)⟩
/-- The minimum. -/
def opMin : EOp := ⟨fun _ => num2 Num.min, int2 min⟩
/-- The maximum. -/
def opMax : EOp := ⟨fun _ => num2 Num.max, int2 max⟩
/-- The magnitude. -/
def opAbs : EOp := ⟨fun _ => num1 Num.abs, int1 fun a => a.natAbs⟩
/-- The negation. -/
def opNeg : EOp := ⟨fun _ => num1 Num.neg, int1 fun a => -a⟩

/-- The form of TADD (spec/11 R249). -/
def formTadd (a b : Opnd) (f : Fmt) (k : Toks) (v : BitVec 2) (s : State) : CForm :=
  let u := pipeUnit s v
  vecForm (.tadd a b f k v) k [srcOf a, srcOf b] u f (elemMade f .wrap opAdd u)

/-- TADD (spec/11 R249). -/
def execTadd (a b : Opnd) (f : Fmt) (k : Toks) (v : BitVec 2) (s : State) : Out3 := dispatch (formTadd a b f k v s) s

/-- The form of TADD.S (spec/11 R249). -/
def formTaddS (a b : Opnd) (f : Fmt) (k : Toks) (v : BitVec 2) (s : State) : CForm :=
  let u := pipeUnit s v
  vecForm (.taddS a b f k v) k [srcOf a, srcOf b] u f (elemMade f .sat opAdd u)

/-- TADD.S (spec/11 R249). -/
def execTaddS (a b : Opnd) (f : Fmt) (k : Toks) (v : BitVec 2) (s : State) : Out3 := dispatch (formTaddS a b f k v s) s

/-- The form of TADD.T (spec/11 R249). -/
def formTaddT (a b : Opnd) (f : Fmt) (k : Toks) (v : BitVec 2) (s : State) : CForm :=
  let u := pipeUnit s v
  vecForm (.taddT a b f k v) k [srcOf a, srcOf b] u f (elemMade f .trap opAdd u)

/-- TADD.T (spec/11 R249). -/
def execTaddT (a b : Opnd) (f : Fmt) (k : Toks) (v : BitVec 2) (s : State) : Out3 := dispatch (formTaddT a b f k v s) s

/-- The form of TSUB (spec/11 R249). -/
def formTsub (a b : Opnd) (f : Fmt) (k : Toks) (v : BitVec 2) (s : State) : CForm :=
  let u := pipeUnit s v
  vecForm (.tsub a b f k v) k [srcOf a, srcOf b] u f (elemMade f .wrap opSub u)

/-- TSUB (spec/11 R249). -/
def execTsub (a b : Opnd) (f : Fmt) (k : Toks) (v : BitVec 2) (s : State) : Out3 := dispatch (formTsub a b f k v s) s

/-- The form of TSUB.S (spec/11 R249). -/
def formTsubS (a b : Opnd) (f : Fmt) (k : Toks) (v : BitVec 2) (s : State) : CForm :=
  let u := pipeUnit s v
  vecForm (.tsubS a b f k v) k [srcOf a, srcOf b] u f (elemMade f .sat opSub u)

/-- TSUB.S (spec/11 R249). -/
def execTsubS (a b : Opnd) (f : Fmt) (k : Toks) (v : BitVec 2) (s : State) : Out3 := dispatch (formTsubS a b f k v s) s

/-- The form of TSUB.T (spec/11 R249). -/
def formTsubT (a b : Opnd) (f : Fmt) (k : Toks) (v : BitVec 2) (s : State) : CForm :=
  let u := pipeUnit s v
  vecForm (.tsubT a b f k v) k [srcOf a, srcOf b] u f (elemMade f .trap opSub u)

/-- TSUB.T (spec/11 R249). -/
def execTsubT (a b : Opnd) (f : Fmt) (k : Toks) (v : BitVec 2) (s : State) : Out3 := dispatch (formTsubT a b f k v s) s

/-- The form of TMUL (spec/11 R249). -/
def formTmul (a b : Opnd) (f : Fmt) (k : Toks) (v : BitVec 2) (s : State) : CForm :=
  let u := pipeUnit s v
  vecForm (.tmul a b f k v) k [srcOf a, srcOf b] u f (elemMade f .wrap opMul u)

/-- TMUL (spec/11 R249). -/
def execTmul (a b : Opnd) (f : Fmt) (k : Toks) (v : BitVec 2) (s : State) : Out3 := dispatch (formTmul a b f k v s) s

/-- The form of TMIN (spec/11 R249). -/
def formTmin (a b : Opnd) (f : Fmt) (k : Toks) (v : BitVec 2) (s : State) : CForm :=
  let u := pipeUnit s v
  vecForm (.tmin a b f k v) k [srcOf a, srcOf b] u f (elemMade f .wrap opMin u)

/-- TMIN (spec/11 R249). -/
def execTmin (a b : Opnd) (f : Fmt) (k : Toks) (v : BitVec 2) (s : State) : Out3 := dispatch (formTmin a b f k v s) s

/-- The form of TMAX (spec/11 R249). -/
def formTmax (a b : Opnd) (f : Fmt) (k : Toks) (v : BitVec 2) (s : State) : CForm :=
  let u := pipeUnit s v
  vecForm (.tmax a b f k v) k [srcOf a, srcOf b] u f (elemMade f .wrap opMax u)

/-- TMAX (spec/11 R249). -/
def execTmax (a b : Opnd) (f : Fmt) (k : Toks) (v : BitVec 2) (s : State) : Out3 := dispatch (formTmax a b f k v s) s

/-- The form of TABS (spec/11 R249). -/
def formTabs (a : Opnd) (f : Fmt) (k : Toks) (v : BitVec 2) (s : State) : CForm :=
  let u := pipeUnit s v
  vecForm (.tabs a f k v) k [srcOf a] u f (elemMade f .wrap opAbs u)

/-- TABS (spec/11 R249). -/
def execTabs (a : Opnd) (f : Fmt) (k : Toks) (v : BitVec 2) (s : State) : Out3 := dispatch (formTabs a f k v s) s

/-- The form of TNEG (spec/11 R249). -/
def formTneg (a : Opnd) (f : Fmt) (k : Toks) (v : BitVec 2) (s : State) : CForm :=
  let u := pipeUnit s v
  vecForm (.tneg a f k v) k [srcOf a] u f (elemMade f .wrap opNeg u)

/-- TNEG (spec/11 R249). -/
def execTneg (a : Opnd) (f : Fmt) (k : Toks) (v : BitVec 2) (s : State) : Out3 := dispatch (formTneg a f k v s) s

/-! ## TFMA, TEXP2, TRCP -/

/-- What TFMA makes: a * b + c at every place (spec/11 R250). -/
def fmaMade (f : Fmt) (x : Ctx) (vals : List Val) (top : Option Val) : Made :=
  match top with
  | some c =>
    let op : EOp := ⟨fun rm l => match l with
      | [a, b, c] => Num.add rm (a.mul b) c
      | _ => .nan, fun _ => 0⟩
    { top := some (tileFrom f ((gather f (vals ++ [c])).map fun r => r.map (cellOp f .wrap op x))) }
  | none => {}

/-- Illegal operand uses of an instruction that takes a single at depth 0 after its pops (spec/20 R357). -/
def singleTop (kinds : List Kind) (top : Option Kind) : Option Flt :=
  match singlesOnly kinds, top with
  | some e, _ => some e
  | none, some (.single _) => none
  | none, _ => some (misuse 3)

/-- The form of TFMA (spec/11 R250). -/
def formTfma (a b : Opnd) (f : Fmt) (k : Toks) (v : BitVec 2) (s : State) : CForm :=
  { plainForm (.tfma a b f k v) k [srcOf a, srcOf b] (pipeUnit s v) [] (fmaMade f) with
    top := .inPlace
    check := fun _ kinds top => singleTop kinds top }

/-- TFMA (spec/11 R250). -/
def execTfma (a b : Opnd) (f : Fmt) (k : Toks) (v : BitVec 2) (s : State) : Out3 := dispatch (formTfma a b f k v s) s

/-- A fixed algorithm on FP32, applied to a cell: a BF16 element is widened, and its result rounded (spec/07 R149,
R150). -/
def algCell (f : Fmt) (alg : Num → Num) (x : Ctx) (c : Cell) : Cell :=
  let a := cellNum f c
  fpCell f (povf x) c.2 a.isFin ((fpOf f).round .rne (alg a))

/-- What TEXP2 and TRCP make. -/
def algMade (f : Fmt) (alg : Num → Num) (x : Ctx) (vals : List Val) (_ : Option Val) : Made :=
  { outs := vals.map fun v => tileFrom f ((cellsOf f v).map fun r => r.map (algCell f alg x)) }

/-- The form of TEXP2 (spec/11 R251). -/
def formTexp2 (a : Opnd) (f : Fmt) (k : Toks) (v : BitVec 2) (s : State) : CForm :=
  vecForm (.texp2 a f k v) k [srcOf a] (pipeUnit s v) f (algMade f exp2Num)

/-- TEXP2 (spec/11 R251). -/
def execTexp2 (a : Opnd) (f : Fmt) (k : Toks) (v : BitVec 2) (s : State) : Out3 := dispatch (formTexp2 a f k v s) s

/-- The form of TRCP (spec/11 R251). -/
def formTrcp (a : Opnd) (f : Fmt) (k : Toks) (v : BitVec 2) (s : State) : CForm :=
  vecForm (.trcp a f k v) k [srcOf a] (pipeUnit s v) f (algMade f rcpNum)

/-- TRCP (spec/11 R251). -/
def execTrcp (a : Opnd) (f : Fmt) (k : Toks) (v : BitVec 2) (s : State) : Out3 := dispatch (formTrcp a f k v s) s

/-! ## Reductions -/

/-- The result format of a reduction (spec/11 R252). -/
def sumFmt (f : Fmt) : Fmt := if f = .int8 then .int32 else f

/-- Fold a row of at least one value. -/
def foldRow {α : Type} (g : α → α → α) (d : α) : List α → α
  | [] => d
  | a :: r => r.foldl g a

/-- The value of a reduced row. -/
def reduceRow (f : Fmt) (op : EOp) (x : Ctx) (r : List Cell) : Cell :=
  let o := sumFmt f
  if f.isInt then (intBits .wrap o.width (foldRow (fun a b => op.int [a, b]) 0 (r.map (cellInt f))), false)
  else
    let ns := r.map (cellNum f)
    fpCell f (povf x) (r.any (·.2)) (ns.all Num.isFin)
      ((fpOf f).round (vrnd x) (foldRow (fun a b => op.fp (vrnd x) [a, b]) .nan ns))

/-- What a reduction makes: one value a row, in column 0. -/
def reduceMade (f : Fmt) (op : EOp) (x : Ctx) (vals : List Val) (_ : Option Val) : Made :=
  { outs := vals.map fun v => tileFrom (sumFmt f) ((cellsOf f v).map fun r => [reduceRow f op x r]) }

/-- The form of TRSUM (spec/11 R252). -/
def formTrsum (a : Opnd) (f : Fmt) (k : Toks) (v : BitVec 2) (s : State) : CForm :=
  vecForm (.trsum a f k v) k [srcOf a] (pipeUnit s v) (sumFmt f) (reduceMade f opAdd)

/-- TRSUM (spec/11 R252). -/
def execTrsum (a : Opnd) (f : Fmt) (k : Toks) (v : BitVec 2) (s : State) : Out3 := dispatch (formTrsum a f k v s) s

/-- The form of TRMAX (spec/11 R252). -/
def formTrmax (a : Opnd) (f : Fmt) (k : Toks) (v : BitVec 2) (s : State) : CForm :=
  vecForm (.trmax a f k v) k [srcOf a] (pipeUnit s v) (sumFmt f) (reduceMade f opMax)

/-- TRMAX (spec/11 R252). -/
def execTrmax (a : Opnd) (f : Fmt) (k : Toks) (v : BitVec 2) (s : State) : Out3 := dispatch (formTrmax a f k v s) s

/-- The form of TRMIN (spec/11 R252). -/
def formTrmin (a : Opnd) (f : Fmt) (k : Toks) (v : BitVec 2) (s : State) : CForm :=
  vecForm (.trmin a f k v) k [srcOf a] (pipeUnit s v) (sumFmt f) (reduceMade f opMin)

/-- TRMIN (spec/11 R252). -/
def execTrmin (a : Opnd) (f : Fmt) (k : Toks) (v : BitVec 2) (s : State) : Out3 := dispatch (formTrmin a f k v s) s

/-! ## Masks and selection -/

/-- A comparison of two cells (spec/11 R253). -/
def cellCmp (f : Fmt) (fp : Num → Num → Bool) (int : Int → Int → Bool) (a b : Cell) : Cell :=
  let t := if f.isInt then int (cellInt f a) (cellInt f b) else fp (cellNum f a) (cellNum f b)
  (if t then 2 ^ f.width - 1 else 0, false)

/-- What a comparison makes. -/
def cmpMade (f : Fmt) (fp : Num → Num → Bool) (int : Int → Int → Bool) (_ : Ctx) (vals : List Val) (_ : Option Val) :
    Made :=
  match vals with
  | [a, b] => { outs := [tileFrom f (zipCells (cellCmp f fp int) (cellsOf f a) (cellsOf f b))] }
  | _ => {}

/-- The form of TCMPEQ (spec/11 R253). -/
def formTcmpeq (a b : Opnd) (f : Fmt) (k : Toks) (v : BitVec 2) (s : State) : CForm :=
  vecForm (.tcmpeq a b f k v) k [srcOf a, srcOf b] (pipeUnit s v) f
    (cmpMade f Num.eq (fun a b => a == b))

/-- TCMPEQ (spec/11 R253). -/
def execTcmpeq (a b : Opnd) (f : Fmt) (k : Toks) (v : BitVec 2) (s : State) : Out3 := dispatch (formTcmpeq a b f k v s) s

/-- The form of TCMPLT (spec/11 R253). -/
def formTcmplt (a b : Opnd) (f : Fmt) (k : Toks) (v : BitVec 2) (s : State) : CForm :=
  vecForm (.tcmplt a b f k v) k [srcOf a, srcOf b] (pipeUnit s v) f
    (cmpMade f Num.lt (fun a b => decide (a < b)))

/-- TCMPLT (spec/11 R253). -/
def execTcmplt (a b : Opnd) (f : Fmt) (k : Toks) (v : BitVec 2) (s : State) : Out3 := dispatch (formTcmplt a b f k v s) s

/-- The form of TCMPLE (spec/11 R253). -/
def formTcmple (a b : Opnd) (f : Fmt) (k : Toks) (v : BitVec 2) (s : State) : CForm :=
  vecForm (.tcmple a b f k v) k [srcOf a, srcOf b] (pipeUnit s v) f
    (cmpMade f (fun a b => a.lt b || a.eq b) (fun a b => decide (a ≤ b)))

/-- TCMPLE (spec/11 R253). -/
def execTcmple (a b : Opnd) (f : Fmt) (k : Toks) (v : BitVec 2) (s : State) : Out3 := dispatch (formTcmple a b f k v s) s

/-- What TSEL makes (spec/11 R254). -/
def selMade (f : Fmt) (_ : Ctx) (vals : List Val) (top : Option Val) : Made :=
  match vals, top with
  | [a, b], some m =>
    { outs := [tileFrom f (zipCells (fun (m : Cell) (ab : Cell × Cell) => if m.1 ≠ 0 then ab.1 else ab.2) (cellsOf f m)
      (zipCells Prod.mk (cellsOf f a) (cellsOf f b)))] }
  | _, _ => {}

/-- The form of TSEL (spec/11 R254). -/
def formTsel (a b : Opnd) (f : Fmt) (k : Toks) (v : BitVec 2) (s : State) : CForm :=
  { plainForm (.tsel a b f k v) k [srcOf a, srcOf b] (pipeUnit s v) [.single f] (selMade f) with
    top := .popped
    check := fun _ kinds top => singleTop kinds top }

/-- TSEL (spec/11 R254). -/
def execTsel (a b : Opnd) (f : Fmt) (k : Toks) (v : BitVec 2) (s : State) : Out3 := dispatch (formTsel a b f k v s) s

/-! ## Rearrangement -/

/-- A row of 64 bytes permuted under a row of controls (spec/11 R255). -/
def permRow (a p : Nat) : Nat :=
  assemble 8 64 fun k =>
    let ctl := elem 8 p k
    if 128 ≤ ctl then 0 else elem 8 a (ctl % 64)

/-- The payload of TPERM. -/
def permPayload (a p : Nat) : Nat := assemble 512 64 fun i => permRow (elem 512 a i) (elem 512 p i)

/-- What TPERM makes (spec/11 R255). -/
def permMade (f : Fmt) (_ : Ctx) (vals : List Val) (_ : Option Val) : Made :=
  match vals with
  | [a, p] => { outs := [.single f (BitVec.ofNat 32768 (permPayload (singleOf a).1 (singleOf p).1)) 0] }
  | _ => {}

/-- The form of TPERM (spec/11 R255). -/
def formTperm (a b : Opnd) (f : Fmt) (k : Toks) (v : BitVec 2) (s : State) : CForm :=
  vecForm (.tperm a b f k v) k [srcOf a, srcOf b] (pipeUnit s v) f (permMade f)

/-- TPERM (spec/11 R255). -/
def execTperm (a b : Opnd) (f : Fmt) (k : Toks) (v : BitVec 2) (s : State) : Out3 := dispatch (formTperm a b f k v s) s

/-- The bits of a band that R137 defines as poison. -/
def poisonBand (f : Fmt) (band : Nat) : BitVec 2048 :=
  match f with
  | .bf16 => BitVec.ofNat 2048 band
  | .fp32 => bandOf fun i => bits band (32 * i) 16
  | _ => 0

/-- The transpose of a single (spec/11 R256). -/
def xposed (f : Fmt) (v : Val) : Val :=
  let t := singleOf v
  if f.width = 8 then .single f (xposeB8 (BitVec.ofNat 32768 t.1)) 0
  else .single f (xposeB16 (BitVec.ofNat 32768 t.1)) (xposeBand (poisonBand f t.2))

/-- The form of TXPOSE (spec/11 R256). -/
def formTxpose (a : Opnd) (f : Fmt) (k : Toks) (v : BitVec 2) (s : State) : CForm :=
  vecForm (.txpose a f k v) k [srcOf a] (pipeUnit s v) f fun _ vals _ => { outs := vals.map (xposed f) }

/-- TXPOSE (spec/11 R256). -/
def execTxpose (a : Opnd) (f : Fmt) (k : Toks) (v : BitVec 2) (s : State) : Out3 := dispatch (formTxpose a f k v s) s

/-! ## Logic and shifts -/

/-- A bitwise operation on two payloads; the poison bands join (spec/11 R257). -/
def logicMade (f : Fmt) (g : BitVec 32768 → BitVec 32768 → BitVec 32768) (_ : Ctx) (vals : List Val) (_ : Option Val) :
    Made :=
  match vals.map singleOf with
  | [a, b] => { outs := [.single f (g (BitVec.ofNat 32768 a.1) (BitVec.ofNat 32768 b.1))
      (poisonBand f a.2 ||| poisonBand f b.2)] }
  | _ => {}

/-- The form of TAND (spec/11 R257). -/
def formTand (a b : Opnd) (f : Fmt) (k : Toks) (v : BitVec 2) (s : State) : CForm :=
  vecForm (.tand a b f k v) k [srcOf a, srcOf b] (pipeUnit s v) f (logicMade f (· &&& ·))

/-- TAND (spec/11 R257). -/
def execTand (a b : Opnd) (f : Fmt) (k : Toks) (v : BitVec 2) (s : State) : Out3 := dispatch (formTand a b f k v s) s

/-- The form of TOR (spec/11 R257). -/
def formTor (a b : Opnd) (f : Fmt) (k : Toks) (v : BitVec 2) (s : State) : CForm :=
  vecForm (.tor a b f k v) k [srcOf a, srcOf b] (pipeUnit s v) f (logicMade f (· ||| ·))

/-- TOR (spec/11 R257). -/
def execTor (a b : Opnd) (f : Fmt) (k : Toks) (v : BitVec 2) (s : State) : Out3 := dispatch (formTor a b f k v s) s

/-- The form of TXOR (spec/11 R257). -/
def formTxor (a b : Opnd) (f : Fmt) (k : Toks) (v : BitVec 2) (s : State) : CForm :=
  vecForm (.txor a b f k v) k [srcOf a, srcOf b] (pipeUnit s v) f (logicMade f (· ^^^ ·))

/-- TXOR (spec/11 R257). -/
def execTxor (a b : Opnd) (f : Fmt) (k : Toks) (v : BitVec 2) (s : State) : Out3 := dispatch (formTxor a b f k v s) s

/-- The form of TNOT (spec/11 R257). -/
def formTnot (a : Opnd) (f : Fmt) (k : Toks) (v : BitVec 2) (s : State) : CForm :=
  vecForm (.tnot a f k v) k [srcOf a] (pipeUnit s v) f fun _ vals _ =>
    { outs := (vals.map singleOf).map fun t => .single f (~~~ (BitVec.ofNat 32768 t.1)) (poisonBand f t.2) }

/-- TNOT (spec/11 R257). -/
def execTnot (a : Opnd) (f : Fmt) (k : Toks) (v : BitVec 2) (s : State) : Out3 := dispatch (formTnot a f k v s) s

/-- What a shift makes (spec/11 R257). -/
def shiftMade (f : Fmt) (g : Nat → Nat) (_ : Ctx) (vals : List Val) (_ : Option Val) : Made :=
  { outs := vals.map fun v => tileFrom f ((cellsOf f v).map fun r => r.map fun c => (g c.1, false)) }

/-- An element of w bits shifted right by n with sign fill. -/
def sraElem (w n e : Nat) : Nat := ((sext w e).fdiv (2 ^ min n w : Nat) % (2 ^ w : Nat)).toNat

/-- The form of TSHL (spec/11 R257). -/
def formTshl (a : Opnd) (i : BitVec 6) (f : Fmt) (k : Toks) (v : BitVec 2) (s : State) : CForm :=
  vecForm (.tshl a i f k v) k [srcOf a] (pipeUnit s v) f
    (shiftMade f fun e => (e <<< i.toNat) % 2 ^ f.width)

/-- TSHL (spec/11 R257). -/
def execTshl (a : Opnd) (i : BitVec 6) (f : Fmt) (k : Toks) (v : BitVec 2) (s : State) : Out3 := dispatch (formTshl a i f k v s) s

/-- The form of TSHR (spec/11 R257). -/
def formTshr (a : Opnd) (i : BitVec 6) (f : Fmt) (k : Toks) (v : BitVec 2) (s : State) : CForm :=
  vecForm (.tshr a i f k v) k [srcOf a] (pipeUnit s v) f (shiftMade f fun e => e >>> i.toNat)

/-- TSHR (spec/11 R257). -/
def execTshr (a : Opnd) (i : BitVec 6) (f : Fmt) (k : Toks) (v : BitVec 2) (s : State) : Out3 := dispatch (formTshr a i f k v s) s

/-- The form of TSRA (spec/11 R257). -/
def formTsra (a : Opnd) (i : BitVec 6) (f : Fmt) (k : Toks) (v : BitVec 2) (s : State) : CForm :=
  vecForm (.tsra a i f k v) k [srcOf a] (pipeUnit s v) f (shiftMade f (sraElem f.width i.toNat))

/-- TSRA (spec/11 R257). -/
def execTsra (a : Opnd) (i : BitVec 6) (f : Fmt) (k : Toks) (v : BitVec 2) (s : State) : Out3 := dispatch (formTsra a i f k v s) s

end Sys2Proof.Machine
end

