-- ==== Sys2Proof/Machine/Convert.lean ====
section
/-! DEFINITION. The conversion path: TCVT and TQNT (spec/07 R142-R145, R151, spec/11 R262-R265). -/

namespace Sys2Proof.Machine

/-- A source element: its value, a poisoned one counting as NaN (spec/07 R145), and its poison. -/
abbrev SrcElem := Num × Bool

/-- The source elements of a logical row: the columns of the operands one after the other (spec/11 R262). -/
def srcRow (f : Fmt) (ts : List (Nat × Nat)) (i : Nat) : List SrcElem :=
  (ts.map fun t => (List.range f.perRow).map fun j =>
    let p := poisonOf f t i j
    ((if p then .nan else valueAt f t i j), p)).flatten

/-- An element to be written: its source, its poison and the scale byte of its granule. -/
structure OutElem where
  x : Num
  po : Bool
  b : Nat
  deriving DecidableEq, Repr

/-- The scale byte of a granule of a target (spec/11 R263); 127 where the target has none. -/
def granuleScale (f : Fmt) (l : List SrcElem) : Nat :=
  if f.isMx then scaleFor f.width (mxQ f) (largest (l.map (·.1))) else 127

/-- The elements of one row of a result tile, granule by granule. -/
def outRow (f : Fmt) (l : List SrcElem) : List OutElem :=
  ((runsOf 32 ((f.perRow + 31) / 32) l).map fun g =>
    let b := granuleScale f g
    g.map fun e => ⟨e.1, e.2, b⟩).flatten

/-- Every element of the result tiles, tile by tile and row by row (spec/11 R262). -/
def outElems (f : Fmt) (n : Nat) (rows : List (List SrcElem)) : List OutElem :=
  ((List.range n).map fun k =>
    (rows.map fun r => outRow f ((r.drop (f.perRow * k)).take f.perRow)).flatten).flatten

/-- The target of an element (spec/07 R145). -/
def targetFor (f : Fmt) (b : Nat) : CvtTarget :=
  if f.isMx then .grid f.width ((b : Int) - 127 - mxQ f)
  else if f.isInt then .grid f.width 0
  else .fp (fpOf f)

/-- The rounding mode of every element: under SR a 16-bit number each (spec/07 R144). -/
def modesFrom : Nat → Word → List Rm
  | 0, _ => []
  | n + 1, st =>
    let (r, st') := lfsrTake 16 st
    .sr r :: modesFrom n st'

/-- RND of CVT_CTL; 4 is SR (spec/07 R142). -/
def rndOf (x : Ctx) : Nat := bits x.cvtCtl.toNat 8 3

/-- The modes of `n` elements, and the generator's state after them under SR. -/
def modesOf (x : Ctx) (n : Nat) : List Rm × Option Word :=
  if rndOf x = 4 then
    let st := lfsrStart x.cvtSr
    (modesFrom n st, some (lfsrSteps (16 * n) st))
  else (List.replicate n (Rm.ofCode (rndOf x)), none)

/-- The bits and the poison of a converted element (spec/07 R148, spec/11 R263). -/
def cvtCell (f : Fmt) (pov : Bool) (e : OutElem) (v : Num) : Cell :=
  ((targetFor f e.b).encode v,
    (f == .bf16 || f == .fp32) && (e.po || v.isNan || (pov && v.isInf && e.x.isFin)))

/-- The value of a conversion; a fault has none. -/
def convVal : Conv → Num
  | .ok v _ => v
  | .bad _ => .fin false 0 0

/-- The CVT_STAT bits of a conversion. -/
def convStat : Conv → Nat
  | .ok _ st => st
  | .bad _ => 0

/-- The first fault among conversions, at its element (spec/21 R376; the order DEDUCED, log 19). -/
def convFault (f : Fmt) : Nat → List Conv → Option Flt
  | _, [] => none
  | n, .bad d :: _ => some ⟨0x29, d, 0, elemInfo (n / f.perRow % 64) (n % f.perRow)⟩
  | n, .ok .. :: r => convFault f (n + 1) r

/-- A result tile from its cells and scale bytes. -/
def cvtTile (f : Fmt) (cells : List Cell) (es : List OutElem) : Val :=
  if f.isMx then
    .single f (BitVec.ofNat 32768 (packList 512 ((runsOf f.perRow 64 cells).map fun r => packList f.width (r.map (·.1)))))
      (bandOf fun i => packList 8 ((runsOf 32 (granules f) ((es.drop (f.perRow * i)).take f.perRow)).map fun g =>
        (g.head?.map (·.b)).getD 0))
  else tileFrom f (runsOf f.perRow 64 cells)

/-- The larger of two magnitude patterns over a list (spec/11 R265). -/
def maxPattern (l : List Num) : W32 := l.foldl (fun m x => maxW m (magPattern x)) 0

/-- The signed exponent of TQNT; past 4,096 every source but zero overflows or underflows as it does there
(DEDUCED, log 37). -/
def quantExp (x : Ctx) : Int := max (-4096) (min 4096 (x.cnt .c 4).toInt)

/-- What TCVT and TQNT make (spec/11 R263-R265); `k` is the exponent of TQNT. -/
def cvtMade (src f : Fmt) (m : Nat) (k : Ctx → Int) (x : Ctx) (vals : List Val) (_ : Option Val) : Made :=
  let raw := (List.range 64).map (srcRow src (vals.map singleOf))
  let rows := raw.map fun r => r.map fun e => (e.1.scale (k x), e.2)
  let n := src.perRow * vals.length / f.perRow
  let es := outElems f n rows
  let (rms, sr) := modesOf x es.length
  let cs := (List.zip es rms).map fun (e, rm) => convert (targetFor f e.b) (bits x.cvtCtl.toNat 0 8) rm e.x
  let cells := (List.zip es cs).map fun (e, c) => cvtCell f (povf x) e (convVal c)
  let per := 64 * f.perRow
  { outs := (List.zip (runsOf per n cells) (runsOf per n es)).map fun (c, e) => cvtTile f c e
    flt := convFault f 0 cs
    am := some (m, maxPattern (raw.flatten.map (·.1)))
    stat := cs.foldl (fun a c => a ||| convStat c) 0
    sr := sr }

/-- The operands of a conversion: two where a row of the target holds two of the source's (spec/11 R262). -/
def cvtSrcs (src f : Fmt) (a b : Opnd) : List Src :=
  if f.perRow = 2 * src.perRow then [srcOf a, srcOf b] else [srcOf a]

/-- An SR instruction waits until every earlier SR instruction has committed (spec/07 R144). -/
def srHold (x : Ctx) : Hold :=
  if rndOf x = 4 && x.infl.any fun j => j.sr.isSome then .quiet else .go

/-- The dispatch form of a conversion. -/
def cvtForm (i : Instr) (src f : Fmt) (a b : Opnd) (k : Toks) (m : Nat) (e : Ctx → Int) : CForm :=
  let srcs := cvtSrcs src f a b
  { plainForm i k srcs 7 (List.replicate (src.perRow * srcs.length / f.perRow) (.single f)) (cvtMade src f m e) with
    check := fun _ kinds _ => singlesOnly kinds
    hold := srHold }

/-- The form of TCVT (spec/11 R263). -/
def formTcvt (src : Fmt) (a b : Opnd) (f : Fmt) (k : Toks) (m : Fin 4) : CForm :=
  cvtForm (.tcvt src a b f k m) src f a b k m.val fun _ => 0

/-- TCVT (spec/11 R263). -/
def execTcvt (src : Fmt) (a b : Opnd) (f : Fmt) (k : Toks) (m : Fin 4) (s : State) : Out3 := dispatch (formTcvt src a b f k m) s

/-- The form of TQNT (spec/11 R264). -/
def formTqnt (src : Fmt) (a b : Opnd) (f : Fmt) (k : Toks) (m : Fin 4) : CForm :=
  cvtForm (.tqnt src a b f k m) src f a b k m.val quantExp

/-- TQNT (spec/11 R264). -/
def execTqnt (src : Fmt) (a b : Opnd) (f : Fmt) (k : Toks) (m : Fin 4) (s : State) : Out3 := dispatch (formTqnt src a b f k m) s

end Sys2Proof.Machine
end

