-- ==== Sys2Proof/Machine/Attention.lean ====
section
/-! DEFINITION. What the attention commands and SELACT compute (spec/11 R273-R279, spec/12 R281-R283, spec/21
R387-R389, spec/10 R247). A command reads what it reads when it starts and lists the writes it will make; a fault that
it meets stands behind the writes of the units before it (spec/21 R380). -/

namespace Sys2Proof.Machine

/-- What an engine obtains by reading. -/
inductive Got (α : Type) where
  | ok (s : State) (a : α)
  | flt (f : Flt)
  | wait

/-- The state notes a read of the command that is being prepared, of global memory (spec/12 R285). -/
def noteRead (s : State) (a : Word) (n : Nat) : State :=
  if bits a.toNat 62 2 = 0 then { s with reads := (bits a.toNat 0 52, n) :: s.reads } else s

/-- An engine's read of `n` bytes. -/
def engRead (s : State) (c kind : Nat) (a : Word) (n : Nat) : Got (List Byte) :=
  match resolve s (Acc.load c kind 0 0) a n with
  | .ok s ps => .ok (noteRead s a n) (readPieces s ps)
  | .flt _ f => .flt f
  | .wait => .wait

/-- An address with its space. -/
def inSpace (space a : Nat) : Word := spaceAddr space (a : Int)

/-! ## Score helpers -/

/-- The sum of a group of 16 terms in order; +0 for a group past the end (spec/11 R275). -/
def groupSum : List Num → Num
  | [] => .fin false 0 0
  | v :: r => r.foldl add32 v

/-- Tree of spec/11 R275. -/
def treeSum (v : List Num) : Num :=
  let g := fun m => groupSum ((v.drop (16 * m)).take 16)
  add32 (add32 (add32 (g 0) (g 1)) (add32 (g 2) (g 3))) (add32 (add32 (g 4) (g 5)) (add32 (g 6) (g 7)))

/-- Dot of spec/11 R275. -/
def kvDot (q k : List Num) : Num := treeSum (List.zipWith mul32 q k)

/-- Bound of spec/11 R275. -/
def kvBound (q mn mx : List Num) : Num :=
  treeSum ((List.zip q (List.zip mn mx)).map fun e => Num.max (mul32 e.1 e.2.1) (mul32 e.1 e.2.2))

/-- a / b rounded once to a format (spec/11 R278). -/
def divRound (f : FpF) (a b : Num) : Num :=
  match a, b with
  | .nan, _ | _, .nan => .nan
  | .inf _, .inf _ => .nan
  | .inf x, .fin y _ _ => .inf (x != y)
  | .fin x _ _, .inf y => .fin (x != y) 0 0
  | .fin x m e, .fin y n g =>
    if n = 0 then (if m = 0 then .nan else .inf (x != y))
    else
      let k := bitLen n + 64
      let q := (m <<< k) / n
      let low := if (m <<< k) % n = 0 then 0 else 1
      f.round .rne (.fin (x != y) (2 * q + low) (e - g - k - 1))

/-- One step of the online softmax over a token (spec/11 R278): m, l and the accumulators. -/
def softStep (q : List Num) (scale : Num) (st : Num × Num × List Num) (kv : List Num × List Num) :
    Num × Num × List Num :=
  let (m, l, acc) := st
  let s := mul32 (kvDot q kv.1) scale
  let mx := Num.max m s
  if mx == .inf true then st
  else
    let a := exp2Num (add32 m mx.neg)
    let p := exp2Num (add32 s mx.neg)
    (mx, add32 (mul32 l a) p, List.zipWith (fun x v => add32 (mul32 x a) (mul32 p v)) acc kv.2)

/-- One result row: the encoded elements (spec/11 R278). -/
def softRow (of : Fmt) (d : Nat) (q : List Num) (scale : Num) (toks : List (List Num × List Num)) : List Nat :=
  let (_, l, acc) := toks.foldl (softStep q scale) (.inf true, .fin false 0 0, List.replicate d (.fin false 0 0))
  acc.map fun x => if l.isZero then 0 else (fpOf of).encode (divRound (fpOf of) x l)

/-! ## Rows and pages -/

/-- `n` elements of a format from a list of bytes. -/
def numsOf (f : Fmt) (n : Nat) (bs : List Byte) : List Num :=
  let v := leNat bs
  (List.range n).map fun j => (fpOf f).decode (elem f.width v j)

/-- The address of page p (spec/05 R114). -/
def Slab.page (m : Slab) (p : Nat) : Nat := m.base + p * m.pstride

/-- The slab map entry: the one that the command has read at its start, else the one that memory holds (spec/11 R273). -/
def slabEntry (s : State) (x : Cmd) : Got Nat :=
  if x.mapped then .ok s x.map.toNat
  else match engRead s x.c 6 (wd (kvBlk x.blk.toNat).map) 16 with
    | .ok s bs => .ok s (leNat bs)
    | .flt f => .flt f
    | .wait => .wait

/-- Read and check the slab map entry (spec/11 R273, spec/12 R282). -/
def readSlab (s : State) (x : Cmd) (k : KvBlk) : Got Slab :=
  match slabEntry s x with
  | .ok s e =>
    if slabOk e && decide (512 + 128 * k.row ≤ (slabOf e).pstride) then .ok s (slabOf e) else .flt ⟨0x2A, 1, 0, 0⟩
  | .flt f => .flt f
  | .wait => .wait

/-- Read the summary of a page: the bits of MN and MX (spec/12 R281). -/
def readSummary (s : State) (c d pa : Nat) : Got (List Nat × List Nat) :=
  match engRead s c 6 (wd pa) (2 * d) with
  | .ok s a => match engRead s c 6 (wd (pa + 0x100)) (2 * d) with
    | .ok s b => .ok s ((List.range d).map (elem 16 (leNat a)), (List.range d).map (elem 16 (leNat b)))
    | .flt f => .flt f
    | .wait => .wait
  | .flt f => .flt f
  | .wait => .wait

/-- The writes of a summary; each half retires `r` bytes. -/
def summaryOuts (pa r elem : Nat) (mn mx : List Nat) : List Out :=
  [⟨wd pa, leBytes (2 * mn.length) (packList 16 mn), r, elem⟩,
    ⟨wd (pa + 0x100), leBytes (2 * mx.length) (packList 16 mx), r, elem⟩]

/-- MN_p[0] says that the page is in quarantine (spec/21 R387). -/
def quarantined (mn0 : Nat) : Bool := (bf16.decode mn0).isNan

/-- The NaN that a quarantined summary holds. -/
def quarFill (d : Nat) : List Nat := List.replicate d 0x7FC0

/-- The first element of a token that is not finite: channel and value bit as FR_INFO holds them (spec/21 R387,
R389). -/
def badElem (ks vs : List Num) : Option Nat :=
  match ks.findIdx? fun x => !x.isFin with
  | some ch => some (ch * 2 ^ 23)
  | none => (vs.findIdx? fun x => !x.isFin).map fun ch => ch * 2 ^ 23 + 2 ^ 30

/-- FR_INFO of a quarantine (spec/21 R389). -/
def quarInfo (p r ch : Nat) : Word := wd (p % 2 ^ 17 + r % 64 * 2 ^ 17 + ch)

/-! ## Appending -/

/-- The state of an append: the page in progress with its summary, the writes so far (last first), the pages put
into quarantine, the rows appended (last first). -/
structure App where
  cur : Option (Nat × List Nat × List Nat)
  outs : List Out
  quar : List (Nat × Word)
  rows : List (List Num × List Num)
  deriving DecidableEq, Repr

/-- Write the summary of the page in progress (spec/11 R274). -/
def App.flush (m : Slab) (elem : Nat) (a : App) : App :=
  match a.cur with
  | none => a
  | some (p, mn, mx) =>
    { a with cur := none, outs := (summaryOuts (m.page p) (2 * mn.length) elem mn mx).reverse ++ a.outs }

/-- The summary of a page after a token, and whether the page has just entered quarantine (spec/11 R274, spec/21 R387,
R388). `was` says that it was in quarantine before. -/
def nextSummary (d r : Nat) (was : Bool) (mn mx : List Nat) (ks : List Num) (bad : Bool) : List Nat × List Nat × Bool :=
  if bad then (quarFill d, quarFill d, !was)
  else if r = 0 then (ks.map bf16.encode, ks.map bf16.encode, false)
  else if was then (mn, mx, false)
  else
    (List.zipWith (fun o k => bf16.encode (Num.min (bf16.decode o) k)) mn ks,
      List.zipWith (fun o k => bf16.encode (Num.max (bf16.decode o) k)) mx ks, false)

/-- What an append comes to. -/
inductive AppRes where
  | ok (s : State) (a : App)
  | bad (s : State) (a : App) (f : Flt) (elem : Nat)
  | wait

/-- The summary with which a page's first touched token begins: at row 0 it counts for nothing (spec/11 R274). -/
def beginPage (s : State) (c : Nat) (k : KvBlk) (m : Slab) (p r : Nat) : Got (List Nat × List Nat) :=
  if r = 0 then .ok s (List.replicate k.d 0, List.replicate k.d 0) else readSummary s c k.d (m.page p)

/-- Whether the page of a token that is not finite was in quarantine before it: at row 0 the page's MN[0] says so
(spec/21 R389). -/
def wasQuarantined (s : State) (c : Nat) (m : Slab) (p r mn0 : Nat) (bad : Bool) : Got Bool :=
  if r = 0 && bad then
    match engRead s c 6 (wd (m.page p)) 2 with
    | .ok s b => .ok s (quarantined (leNat b))
    | .flt f => .flt f
    | .wait => .wait
  else .ok s (r != 0 && quarantined mn0)

/-- Append one token: its rows are read, checked and listed (spec/11 R274). `n` is the command's NTOK, `t` the
token, `i` its index in the command. -/
def appendOne (c : Nat) (k : KvBlk) (m : Slab) (src n t i : Nat) (s : State) (a : App) : AppRes :=
  let p := t / 64
  let r := t % 64
  let a := match a.cur with
    | some (q, _) => if q ≠ p then a.flush m (i - 1) else a
    | none => a
  if 2 ^ m.logp ≤ p then .bad s a ⟨0x2A, 2, 0, 0⟩ i
  else
    let got := match a.cur with
      | some (_, mn, mx) => Got.ok s (mn, mx)
      | none => beginPage s c k m p r
    match got with
    | .flt f => .bad s a f i
    | .wait => .wait
    | .ok s (mn, mx) => match engRead s c 6 (inSpace k.sspace (src + i * k.row)) k.row with
      | .flt f => .bad s a f i
      | .wait => .wait
      | .ok s kb => match engRead s c 6 (inSpace k.sspace (src + (n + i) * k.row)) k.row with
        | .flt f => .bad s a f i
        | .wait => .wait
        | .ok s vb =>
          let f := fmtCode k.kf
          let ks := numsOf f k.d kb
          let vs := numsOf f k.d vb
          let bad := badElem ks vs
          match wasQuarantined s c m p r (nth mn 0 0) bad.isSome with
          | .flt f => .bad s a f i
          | .wait => .wait
          | .ok s was =>
          let (mn', mx', fresh) := nextSummary k.d r was mn mx ks bad.isSome
          let pa := m.page p
          .ok s
            { cur := some (p, mn', mx')
              outs := ⟨wd (pa + 0x200 + (64 + r) * k.row), vb, k.row, i⟩ :: ⟨wd (pa + 0x200 + r * k.row), kb, k.row, i⟩ ::
                a.outs
              quar := if fresh then a.quar ++ [(1, quarInfo p r (bad.getD 0))] else a.quar
              rows := (ks, vs) :: a.rows }

/-- Append the tokens from index `i` on. -/
def appendFrom (c : Nat) (k : KvBlk) (m : Slab) (src n pos : Nat) : Nat → Nat → State → App → AppRes
  | 0, i, s, a => .ok s (a.flush m (i - 1))
  | fuel + 1, i, s, a =>
    match appendOne c k m src n (pos + i) i s a with
    | .ok s a => appendFrom c k m src n pos fuel (i + 1) s a
    | r => r

/-! ## Reading pages -/

/-- What a page gives to the softmax: its tokens, or the quarantine that the reading finds (spec/21 R387, R388). -/
inductive PageRead where
  | rows (l : List (List Num × List Num))
  | quar (info : Word)

/-- Read the first `nt` tokens of a page (spec/11 R278). -/
def readPage (s : State) (c : Nat) (k : KvBlk) (m : Slab) (p nt : Nat) : Got PageRead :=
  let pa := m.page p
  match engRead s c 6 (wd pa) 2 with
  | .flt f => .flt f
  | .wait => .wait
  | .ok s b =>
    if quarantined (leNat b) || nt = 0 then .ok s (.rows [])
    else match engRead s c 6 (wd (pa + 0x200)) (nt * k.row) with
      | .flt f => .flt f
      | .wait => .wait
      | .ok s kb => match engRead s c 6 (wd (pa + 0x200 + 64 * k.row)) (nt * k.row) with
        | .flt f => .flt f
        | .wait => .wait
        | .ok s vb =>
          let f := fmtCode k.kf
          let rows := (List.range nt).map fun r =>
            (numsOf f k.d ((kb.drop (r * k.row)).take k.row), numsOf f k.d ((vb.drop (r * k.row)).take k.row))
          match rows.findIdx? fun e => (badElem e.1 e.2).isSome with
          | some r =>
            let e := nth rows r ([], [])
            .ok s (.quar (quarInfo p r ((badElem e.1 e.2).getD 0)))
          | none => .ok s (.rows rows)

/-- What reading the pages of a list comes to: the tokens in order, each with its position, the writes and entries of
the quarantines found. -/
structure Pages where
  toks : List (Nat × List Num × List Num)
  outs : List Out
  quar : List (Nat × Word)

/-- Pages read, a fault at an entry of the list, or a wait. -/
inductive PagesRes where
  | ok (s : State) (a : Pages)
  | bad (s : State) (a : Pages) (f : Flt) (elem : Nat)
  | wait

/-- Read pages in order; `lim` is the first position that takes no part, `m` counts the entries. -/
def readPages (c : Nat) (k : KvBlk) (sl : Slab) (lim : Nat) : List Nat → Nat → State → Pages → PagesRes
  | [], _, s, a => .ok s a
  | p :: r, m, s, a =>
    match readPage s c k sl p (min 64 (lim - 64 * p)) with
    | .flt f => .bad s a f m
    | .wait => .wait
    | .ok s (.rows l) =>
      readPages c k sl lim r (m + 1) s
        { a with toks := a.toks ++ (List.zip (List.range l.length) l).map fun (j, e) => (64 * p + j, e) }
    | .ok s (.quar info) =>
      readPages c k sl lim r (m + 1) s
        { a with
          outs := a.outs ++ summaryOuts (sl.page p) 0 m (quarFill k.d) (quarFill k.d)
          quar := a.quar ++ [(2, info)] }

/-- The entries of a gather list from entry `m` on (spec/11 R277, R278): `n` of them are left, `prev` is the last page
read, 0 standing for none and p + 1 for page p. -/
def readList (c : Nat) (list pages : Nat) (space : Nat) : Nat → Nat → Nat → State → List Nat →
    Sum (State × List Nat) (Option (State × Flt × Nat))
  | 0, _, _, s, acc => .inl (s, acc.reverse)
  | n + 1, m, prev, s, acc =>
    match engRead s c 6 (inSpace space (list + 8 + 8 * m)) 8 with
    | .flt f => .inr (some (s, f, m))
    | .wait => .inr none
    | .ok s b =>
      let p := bits (leNat b) 0 32
      if p < prev || pages ≤ p then .inr (some (s, ⟨0x2A, 4, 0, 0⟩, m))
      else readList c list pages space n (m + 1) (p + 1) s (p :: acc)

/-- Read `n` rows of a query (spec/11 R278). -/
def readQuery (s : State) (c : Nat) (k : KvBlk) (q n : Nat) : Got (List (List Num)) :=
  match engRead s c 6 (inSpace k.sspace q) (n * k.d * k.qw) with
  | .ok s bs =>
    .ok s ((List.range n).map fun r => numsOf (fmtCode k.qf) k.d ((bs.drop (r * k.d * k.qw)).take (k.d * k.qw)))
  | .flt f => .flt f
  | .wait => .wait

/-! ## The commands -/

/-- A command after its reading: what it will write, or a wait. -/
inductive Prep where
  | ok (s : State) (k : Cmd)
  | wait

/-- The command ends in a fault at `elem`, after the writes it has listed. -/
def failAt (s : State) (k : Cmd) (outs : List Out) (f : Flt) (elem : Nat) : Prep :=
  .ok s { k with ready := true, outs := outs, bad := some (f, elem) }

/-- KVAPP (spec/11 R274). -/
def prepKvapp (s : State) (x : Cmd) : Prep :=
  let b := x.blk.toNat
  let k := kvBlk b
  match readSlab s x k with
  | .wait => .wait
  | .flt f => failAt s x [] f 0
  | .ok s m => match appendFrom x.c k m (bits b 64 52) (bits b 256 7) (bits b 224 32) (bits b 256 7) 0 s ⟨none, [], [], []⟩ with
    | .wait => .wait
    | .bad s a f i => failAt s x a.outs.reverse f i
    | .ok s a => .ok s { x with ready := true, outs := a.outs.reverse, quar := a.quar }

/-- x is above y (spec/11 R276). -/
def above (x y : Num) : Bool := if x.isNan then !y.isNan else y.lt x

/-- Bounds that rank alike (spec/11 R276). -/
def sameBound (x y : Num) : Bool := (x.isNan && y.isNan) || x.eq y

/-- The bounds of `n` pages from page `p`, without the quarantined ones (spec/21 R388); `i` counts the pages. -/
def readBounds (c : Nat) (k : KvBlk) (m : Slab) (q : List Num) : Nat → Nat → Nat → State → List (Nat × Num) →
    Sum (State × List (Nat × Num)) (Option (State × Flt × Nat))
  | 0, _, _, s, acc => .inl (s, acc.reverse)
  | n + 1, p, i, s, acc =>
    match readSummary s c k.d (m.page p) with
    | .flt f => .inr (some (s, f, i))
    | .wait => .inr none
    | .ok s (mn, mx) =>
      readBounds c k m q n (p + 1) (i + 1) s
        (if quarantined (nth mn 0 0) then acc else (p, kvBound q (mn.map bf16.decode) (mx.map bf16.decode)) :: acc)

/-- The pages that KVSEL keeps (spec/11 R276). -/
def keptPages (l : List (Nat × Num)) (budget top : Nat) (thresh : Num) : List (Nat × Num) :=
  l.filter fun e =>
    let rank := (l.filter fun o => above o.2 e.2 || (sameBound o.2 e.2 && decide (o.1 < e.1))).length
    decide (rank < budget) || above e.2 thresh || decide (top ≤ e.1)

/-- KVSEL (spec/11 R276, R277). -/
def prepKvsel (s : State) (x : Cmd) : Prep :=
  let b := x.blk.toNat
  let k := kvBlk b
  let first := bits b 224 17
  let n := bits b 256 17
  match readSlab s x k with
  | .wait => .wait
  | .flt f => failAt s x [] f 0
  | .ok s m =>
    if m.pages < first + n then failAt s x [] ⟨0x2A, 3, 0, 0⟩ 0
    else match readQuery s x.c k (bits b 64 52) 1 with
      | .wait => .wait
      | .flt f => failAt s x [] f 0
      | .ok s q => match readBounds x.c k m (nth q 0 []) n first 0 s [] with
        | .inr none => .wait
        | .inr (some (s, f, i)) => failAt s x [] f i
        | .inl (s, l) =>
          let kept := keptPages l (bits b 288 17) (first + n - bits b 320 17) (fp32.decode (bits b 352 32))
          let list := bits b 128 52
          let head : Out := ⟨inSpace k.dspace list, leBytes 8 kept.length, 8, 0⟩
          let ents := (List.zip (List.range kept.length) kept).map fun (j, e) =>
            (⟨inSpace k.dspace (list + 8 + 8 * j), leBytes 8 (e.1 + fp32.encode e.2 * 2 ^ 32), 8, e.1 - first⟩ : Out)
          .ok s { x with ready := true, outs := head :: ents }

/-- The writes of result rows at DST, `elem` the unit of each (spec/11 R278, R279). -/
def rowOuts (k : KvBlk) (dst : Nat) (rows : List (List Nat)) (elem : Nat → Nat) : List Out :=
  (List.zip (List.range rows.length) rows).map fun (n, r) =>
    ⟨inSpace k.dspace (dst + n * k.d * k.ow), leBytes (k.d * k.ow) (packList (8 * k.ow) r), k.d * k.ow, elem n⟩

/-- The tile that a KVATT with OMODE 1 delivers (spec/11 R278). -/
def deliveryTile (k : KvBlk) (rows : List (List Nat)) : Val :=
  let f := fmtCode k.ofmt
  let es := rows.flatten.map fun b => (b, ((fpOf f).decode b).isNan)
  tileFrom f (runsOf f.perRow 64 (es ++ List.replicate (64 * f.perRow - es.length) (0, false)))

/-- KVATT (spec/11 R278). -/
def prepKvatt (s : State) (x : Cmd) : Prep :=
  let b := x.blk.toNat
  let k := kvBlk b
  let list := bits b 128 52
  let nq := bits b 352 7
  match readSlab s x k with
  | .wait => .wait
  | .flt f => failAt s x [] f 0
  | .ok s m => match readQuery s x.c k (bits b 64 52) nq with
    | .wait => .wait
    | .flt f => failAt s x [] f 0
    | .ok s q => match engRead s x.c 6 (inSpace k.dspace list) 4 with
      | .wait => .wait
      | .flt f => failAt s x [] f 0
      | .ok s cb => match readList x.c list m.pages k.dspace (min (leNat cb) (m.pages + 1)) 0 0 s [] with
        | .inr none => .wait
        | .inr (some (s, f, i)) => failAt s x [] f i
        | .inl (s, ps) => match readPages x.c k m (bits b 224 32) ps 0 s ⟨[], [], []⟩ with
          | .wait => .wait
          | .bad s a f i => failAt s x a.outs f i
          | .ok s a =>
            let rows := q.map fun qn =>
              softRow (fmtCode k.ofmt) k.d qn (fp32.decode (bits b 320 32)) (a.toks.map (·.2))
            let outs := if k.omode then [] else rowOuts k (bits b 256 52) rows fun _ => ps.length
            .ok s { x with
              ready := true
              outs := a.outs ++ outs
              quar := a.quar
              deliver := if k.omode then some (bits b 360 4, deliveryTile k rows) else none }

/-- KVPRE (spec/11 R279): the append, then one row for each of its tokens over the pages up to its own, whose rows it
has just appended. -/
def prepKvpre (s : State) (x : Cmd) : Prep :=
  let b := x.blk.toNat
  let k := kvBlk b
  let pos := bits b 224 32
  match readSlab s x k with
  | .wait => .wait
  | .flt f => failAt s x [] f 0
  | .ok s m => match appendFrom x.c k m (bits b 128 52) 64 pos 64 0 s ⟨none, [], [], []⟩ with
    | .wait => .wait
    | .bad s a f i => failAt s x a.outs.reverse f i
    | .ok s a =>
      let outs := a.outs.reverse
      let own := if a.rows.any fun e => (badElem e.1 e.2).isSome then []
        else (List.zip (List.range 64) a.rows.reverse).map fun (j, e) => (pos + j, e)
      match readQuery s x.c k (bits b 64 52) 64 with
      | .wait => .wait
      | .flt f => failAt s x outs f 0
      | .ok s q => match readPages x.c k m pos (List.range (pos / 64)) 0 s ⟨[], [], []⟩ with
        | .wait => .wait
        | .bad s g f _ => failAt s x (outs ++ g.outs.map fun o => { o with elem := 0 }) f 0
        | .ok s g =>
          let toks := g.toks ++ own
          let rows := (List.zip (List.range 64) q).map fun (i, qn) =>
            softRow (fmtCode k.ofmt) k.d qn (fp32.decode (bits b 320 32))
              ((toks.filter fun t => decide (t.1 ≤ pos + i)).map (·.2))
          .ok s { x with
            ready := true
            outs := outs ++ (g.outs.map fun o => { o with elem := 0 }) ++ rowOuts k (bits b 256 52) rows id
            quar := a.quar ++ g.quar }

/-- The list stores of the set elements of mask block `i`, with the count after it (spec/10 R247). -/
def maskOuts (f : Fmt) (list space maxn base : Nat) (i : Nat) (bs : List Byte) (st : Nat × List Out) : Nat × List Out :=
  let v := leNat bs
  (List.range f.perRow).foldl (fun (n, outs) j =>
    if elem f.width v j = 0 then (n, outs)
    else
      let e := i * f.perRow + j
      (n + 1, if n < maxn then ⟨inSpace space (list + 4 * n), leBytes 4 (base + e), 4, e⟩ :: outs else outs)) st

/-- Read the 64 rows of a mask tile in order; the stores come last first. -/
def readMask (c : Nat) (f : Fmt) (mask mspace list lspace maxn base : Nat) : Nat → Nat → State → Nat × List Out →
    Sum (State × Nat × List Out) (Option (State × Flt × Nat × List Out))
  | 0, _, s, st => .inl (s, st)
  | n + 1, i, s, st =>
    match engRead s c 6 (inSpace mspace (mask + 64 * i)) 64 with
    | .flt g => .inr (some (s, g, i * f.perRow, st.2))
    | .wait => .inr none
    | .ok s bs => readMask c f mask mspace list lspace maxn base n (i + 1) s (maskOuts f list lspace maxn base i bs st)

/-- SELACT (spec/10 R247). -/
def prepSelact (s : State) (x : Cmd) : Prep :=
  let b := x.blk.toNat
  let f := fmtCode (bits b 192 4)
  match readMask x.c f (bits b 0 52) (bits b 216 2) (bits b 64 52) (bits b 218 2) (bits b 224 32) (bits b 256 32) 64 0 s
    (0, []) with
  | .inr none => .wait
  | .inr (some (s, g, e, outs)) => failAt s x outs.reverse g e
  | .inl (s, n, outs) =>
    .ok s { x with
      ready := true
      outs := outs.reverse ++ [⟨inSpace (bits b 220 2) (bits b 128 52), leBytes 4 n, 4, 64 * f.perRow⟩] }

end Sys2Proof.Machine
end

