-- ==== Sys2Proof/Machine/Memory.lean ====
section
/-! DEFINITION. Scalar memory instructions of the K lane: loads, stores, acquires, releases, atomics, CAS, MONW and
FENCE (spec/10 R218-R222, spec/09 R206). An access performs whole when its instruction does, so acquire, release and
class add nothing that one machine in order can show (spec/06; log 1). -/

namespace Sys2Proof.Machine

/-- FR_INFO of a scalar access, layout L: its class (spec/21 R376). -/
def classInfo (cls : BitVec 4) : Word := wd (cls.toNat * 16)

/-- The bytes of a size field (spec/08 R158). -/
def sizeOf (z : BitVec 2) : Nat := 2 ^ z.toNat

/-- The K lane's reply is no longer outstanding. -/
def noMiss (s : State) (c : Nat) : State := s.modCtx c fun x => { x with kmiss := none }

/-- A scalar access that a fault stops: it is precise at the instruction, which has had no effect (spec/21 R377). -/
def memFault (s : State) (c : Nat) (i : Instr) (f : Flt) : State := takeFault (noMiss s c) c .k f (wordOf i)

/-- Resolve a scalar load or atomic and go on with its pieces; a fault is taken, a page under relocation, a stack or a die
that does not answer makes the lane wait, and so does a held store that comes before the access (spec/06 R119, R121); `rel` says that
the access is a release. -/
def access (i : Instr) (c : Nat) (a : Acc) (rel : Bool) (addr : Word) (n : Nat) (s : State)
    (f : State → List (Loc × Nat) → Out3) : Out3 :=
  match resolve s a addr n with
  | .flt s e => .next (memFault s c i e)
  | .wait => .next (blockQuiet s c .k)
  | .ok t ps => if storesFirst (s.ctx c) a.info rel ps then .next (blockQuiet s c .k) else f t ps

/-- Complete a scalar access of `len` bytes of code. -/
def memDone (s : State) (c len : Nat) : State := advance (noMiss s c) c .k len

/-- A scalar load into xD, zero or sign extended (spec/10 R218, R219). -/
def loadBody (i : Instr) (d a : XReg) (cls : BitVec 4) (z : BitVec 2) (signed : Bool) (c : Nat) (s : State) : Out3 :=
  let n := sizeOf z
  access i c (Acc.load c 0 z.toNat (classInfo cls)) false ((s.ctx c).rx a) n s fun s ps =>
    let v := leNat (readPieces s ps)
    .next (memDone (s.modCtx c fun x => x.wx d (if signed then sextW (8 * n) v else wd v)) c 4)

/-- The state in which every HBM stack, die and link answers. -/
def answering (s : State) : State :=
  { s with
    hbmStacks := s.hbmStacks.map fun k => if k = .retraining then .up else k
    dies := s.dies.map fun d => { d with inReset := false }
    links := s.links.map fun k => { k with trained := true } }

/-- The state in which a relocation of a cluster has moved every page, or in which none is active. -/
def relocationDone (s : State) (cl : Nat) (moved : Bool) : State :=
  s.modCluster cl fun x =>
    { x with fwdStat := if moved then putField x.fwdStat 32 17 (2 ^ 17 - 1) else putField x.fwdStat 63 1 0 }

/-- The pieces of an access that a resolution finds. -/
def Resolved.pieces : Resolved → List (Loc × Nat)
  | .ok _ ps => ps
  | .flt .. | .wait => []

/-- A piece lies in a peer's memory. -/
def onPeer : Loc × Nat → Bool
  | (.phys a _ _, _) => decide (2 ^ 51 ≤ a)
  | _ => false

/-- The record of a store that is held: its checks are made at its issue, on the page as it stands and as a relocation leaves it.
Where they cannot all be made then, or its peer or its stack may yet fail it (a supervisor's, since a parcel's launch ends with the
stack, spec/22 R409), it can still meet a fault, and K is noted as it stands (spec/21 R377). -/
def heldStore (s : State) (c : Nat) (i : Instr) (rel : Bool) (lg : Nat) (info addr : Word) (data : List Byte) : HeldStore :=
  let at_ := fun moved => (resolve (relocationDone (answering s) (clusterOf c) moved) (Acc.store c 1 lg info) addr data.length).pieces
  let x := s.ctx c
  let sure := !isSup c && [at_ true, at_ false].all fun l => !l.isEmpty && !l.any onPeer
  { addr := addr, lg := lg, info := info, data := data, pos := posOf s c .k, word := wordOf i, rel := rel, place := at_ true
    undo := if sure then none else some ⟨x.x, x.p, x.k⟩ }

/-- A store joins those of K that have issued and not performed, and K goes on (spec/10 R218); a watchpoint sees it as it issues
(spec/14 R319). -/
def holdStore (s : State) (c : Nat) (e : HeldStore) : State :=
  preciseWatch (memDone (s.modCtx c fun x => { x with stores := x.stores ++ [e] }) c 4) c .k e.addr e.data.length

/-- A scalar store of xD (spec/10 R218, R219). One whose page, stack or route does not answer yet, or that must follow such a
store, is held, and K goes on. -/
def storeBody (i : Instr) (rel : Bool) (d a : XReg) (cls : BitVec 4) (z : BitVec 2) (c : Nat) (s : State) : Out3 :=
  let n := sizeOf z
  let addr := (s.ctx c).rx a
  let data := leBytes n ((s.ctx c).rx d).toNat
  let info := classInfo cls
  match resolve s (Acc.store c 1 z.toNat info) addr n with
  | .flt s e => .next (memFault s c i e)
  | .wait => .next (holdStore s c (heldStore s c i rel z.toNat info addr data))
  | .ok t ps =>
    if storesFirst (s.ctx c) info rel ps then .next (holdStore s c (heldStore s c i rel z.toNat info addr data))
    else .next (preciseWatch (memDone (writePieces t (posOf t c .k) ps data) c 4) c .k addr n)

/-- K goes back to a store, which has met the fault `f` (spec/21 R377). -/
def undoTo (s : State) (c : Nat) (e : HeldStore) (u : KUndo) (f : Flt) : State :=
  let s := s.modCtx c fun x => { x with x := u.x, p := u.p, k := { u.k with wait := none, tokWait := none }, kmiss := none, monw := none }
  takeFaultAt s c 0 f e.pos e.word true false false

/-- K's held stores perform, each as far as it does not wait and none before it that it must follow is still held (`kept`). A store
that can still meet a fault does so with no other such before it: K then goes back to it. One whose checks were made at its issue
goes where it was translated to, unless its stack is out of service. -/
def drainStores (c : Nat) : List HeldStore → List HeldStore → State → State
  | kept, [], s => s.modCtx c fun x => { x with stores := kept }
  | kept, e :: r, s =>
    if kept.any fun k => k.before e.info e.rel e.place || (k.undo.isSome && e.undo.isSome) then drainStores c (kept ++ [e]) r s
    else match resolve s (Acc.store c 1 e.lg e.info) e.addr e.data.length with
      | .wait => drainStores c (kept ++ [e]) r s
      | .ok t ps => drainStores c kept r (writePieces t e.pos ps e.data)
      | .flt t f => match e.undo with
        | some u =>
          let t := t.modCtx c fun x => { x with stores := kept }
          if (t.ctx c).retired then t else undoTo t c e u f
        | none => drainStores c kept r (if f.cause = 0x41 then t else writePieces t e.pos e.place e.data)

/-- The refusal of an atomic by its target, if any (spec/15 R327, spec/21 R376): `swap` says that the host window
takes the operation as an AtomicOp. -/
def atomicRefused (swap : Bool) (addr info : Word) : List (Loc × Nat) → Option Flt
  | (.phys a _ _, _) :: _ => match targetOf a with
    | .host =>
      if !swap then some ⟨0x27, 1, addr, info⟩ else if !Config.hostAtomics then some ⟨0x27, 2, addr, info⟩ else none
    | .hbm | .peer _ | .reserved => none
  | _ => none

/-- Note an atomic's write for the watchpoints of its own and of other clusters (spec/14 R319). -/
def atomicWatch (s : State) (c : Nat) (who addr : Word) (n : Nat) (ps : List (Loc × Nat)) : State :=
  let s := match ps with
    | (.phys a _ _, _) :: _ =>
      if a < hbmEnd then remoteWatch s (if isSup c then none else some (clusterOf c)) who (bits addr.toNat 0 52) n (asidOf (s.ctx c))
      else s
    | _ => s
  preciseWatch s c .k addr n

/-- A read and write of `n` bytes in one indivisible step (spec/10 R221): `f` gives the new value of the old one, or
nothing for no write. `rel` says that it is a release. -/
def atomicBody (i : Instr) (rel : Bool) (d a : XReg) (cls : BitVec 4) (z : BitVec 2) (swap : Bool) (f : Ctx → Nat → Option Nat)
    (c : Nat) (s : State) : Out3 :=
  let n := sizeOf z
  let addr := (s.ctx c).rx a
  let pos := posOf s c .k
  access i c (Acc.rmw c z.toNat (classInfo cls)) rel addr n s fun s ps =>
    match atomicRefused swap addr (classInfo cls) ps with
    | some e => .next (memFault s c i e)
    | none => gated s c .k pos noPos 4 fun _ =>
      let old := leNat (readPieces s ps)
      let old' := sextW (8 * n) old
      noted s c .k pos noPos 4 old' (match f (s.ctx c) old with
        | none => .next (memDone (s.modCtx c fun x => x.wx d old') c 8)
        | some v =>
          let s := writePieces s pos ps (leBytes n v)
          let s := memDone (s.modCtx c fun x => x.wx d old') c 8
          .next (atomicWatch s c pos addr n ps))

/-- The operand of an atomic: the low bits of a register (spec/10 R221). -/
def operand (x : Ctx) (r : XReg) (z : BitVec 2) : Nat := (x.rx r).toNat % 2 ^ (8 * sizeOf z)

/-- A signed choice between two values of `n` bits. -/
def pickSigned (n : Nat) (least : Bool) (p q : Nat) : Nat :=
  if decide (sext n p < sext n q) == least then p else q

/-- The new value of an atomic by its opcode 0x80-0x88 (spec/10 R221). -/
def atomicValue (op n old b : Nat) : Nat :=
  match op with
  | 0x80 => (old + b) % 2 ^ n
  | 0x81 => old &&& b
  | 0x82 => old ||| b
  | 0x83 => old ^^^ b
  | 0x84 => pickSigned n true old b
  | 0x85 => pickSigned n false old b
  | 0x86 => min old b
  | 0x87 => max old b
  | _ => b

/-- An atomic of opcode `op`. -/
def atomicOp (i : Instr) (op : Nat) (o : BitVec 2) (d a b : XReg) (cls : BitVec 4) (z : BitVec 2) (c : Nat) (s : State) : Out3 :=
  atomicBody i (bitAt o 1) d a cls z (op == 0x80 || op == 0x88)
    (fun x old => some (atomicValue op (8 * sizeOf z) old (operand x b z))) c s

/-- CAS (spec/10 R221). -/
def casBody (i : Instr) (o : BitVec 2) (d a b y : XReg) (cls : BitVec 4) (z : BitVec 2) (c : Nat) (s : State) : Out3 :=
  atomicBody i (bitAt o 1) d a cls z true
    (fun x old => if old = operand x b z then some (operand x y z) else none) c s

/-- MONW loads the location: it ends where the value differs from xD, else the lane waits for a write to the block or
for 65,536 ticks (spec/09 R206). `setter` is the writer that woke it. -/
def monwBody (i : Instr) (d a : XReg) (cls : BitVec 4) (z : BitVec 2) (setter : Word) (c : Nat) (s : State) : Out3 :=
  let n := sizeOf z
  let addr := (s.ctx c).rx a
  let pos := posOf s c .k
  access i c (Acc.load c 0 z.toNat (classInfo cls)) false addr n s fun s ps =>
    let v := leNat (readPieces s ps)
    if v ≠ operand (s.ctx c) d z then
      gated s c .k pos noPos 5 fun _ =>
        let t := endWait s c .k setter (wd v)
        noted s c .k pos noPos 5 (wd v) (.next (memDone (t.modCtx c fun x => x.wx d (wd v)) c 4))
    else
      let gt := s.gtOf (dieOf c)
      let (sp, u, b) := match ps with
        | (l, _) :: _ => l.block
        | [] => (0, 0, 0)
      let s := blockLane (noMiss s c) c .k 4 0 0 addr true
      .next (s.modCtx c fun x => { x with monw := some ⟨i, sp, u, b, gt, wd v, none⟩ })

/-- Perform a scalar access of the K lane, at its issue or when its reply returns. -/
def perform (setter : Word) (i : Instr) (c : Nat) (s : State) : Out3 :=
  match i with
  | .ld _ d a cls z => loadBody i d a cls z false c s
  | .lds _ d a cls z => loadBody i d a cls z true c s
  | .lda _ d a cls z _ | .ldaSys _ d a cls z => loadBody i d a cls z false c s
  | .st _ d a cls z => storeBody i false d a cls z c s
  | .str _ d a cls z _ | .strSys _ d a cls z => storeBody i true d a cls z c s
  | .monw _ d a cls z => monwBody i d a cls z setter c s
  | .aadd _ d a b cls z o _ => atomicOp i 0x80 o d a b cls z c s
  | .aand _ d a b cls z o _ => atomicOp i 0x81 o d a b cls z c s
  | .aor _ d a b cls z o _ => atomicOp i 0x82 o d a b cls z c s
  | .axor _ d a b cls z o _ => atomicOp i 0x83 o d a b cls z c s
  | .amin _ d a b cls z o _ => atomicOp i 0x84 o d a b cls z c s
  | .amax _ d a b cls z o _ => atomicOp i 0x85 o d a b cls z c s
  | .aminu _ d a b cls z o _ => atomicOp i 0x86 o d a b cls z c s
  | .amaxu _ d a b cls z o _ => atomicOp i 0x87 o d a b cls z c s
  | .aswap _ d a b cls z o _ => atomicOp i 0x88 o d a b cls z c s
  | .cas _ d a b x cls z o _ => casBody i o d a b x cls z c s
  | _ => .next (noMiss s c)

/-- A scalar load or atomic: where it misses, the reply of SCALAR_ACCESS_REPLY performs it (spec/09 R179). -/
def mayMiss (i : Instr) (g : Guard) (len : Nat) (regs : List XReg) (s : State) : Out3 :=
  kInstr i g len regs (fun c s =>
    if s.turn.miss then .next (s.modCtx c fun x => { x with kmiss := some i }) else perform noPos i c s) s

/-- A scalar store never holds up K's issue (spec/10 R218). -/
def noMissed (i : Instr) (g : Guard) (regs : List XReg) (s : State) : Out3 :=
  kInstr i g 4 regs (fun c s => perform noPos i c s) s

/-- LD (spec/10 R218). -/
def execLd (g : Guard) (d a : XReg) (c : BitVec 4) (z : BitVec 2) (s : State) : Out3 :=
  mayMiss (.ld g d a c z) g 4 [d, a] s

/-- LDS (spec/10 R218). -/
def execLds (g : Guard) (d a : XReg) (c : BitVec 4) (z : BitVec 2) (s : State) : Out3 :=
  mayMiss (.lds g d a c z) g 4 [d, a] s

/-- ST (spec/10 R218). -/
def execSt (g : Guard) (d a : XReg) (c : BitVec 4) (z : BitVec 2) (s : State) : Out3 :=
  noMissed (.st g d a c z) g [d, a] s

/-- LDA (spec/10 R219). -/
def execLda (g : Guard) (d a : XReg) (c : BitVec 4) (z r : BitVec 2) (s : State) : Out3 :=
  mayMiss (.lda g d a c z r) g 4 [d, a] s

/-- LDA.SYS (spec/10 R219). -/
def execLdaSys (g : Guard) (d a : XReg) (c : BitVec 4) (z : BitVec 2) (s : State) : Out3 :=
  mayMiss (.ldaSys g d a c z) g 4 [d, a] s

/-- STR (spec/10 R219). -/
def execStr (g : Guard) (d a : XReg) (c : BitVec 4) (z r : BitVec 2) (s : State) : Out3 :=
  noMissed (.str g d a c z r) g [d, a] s

/-- STR.SYS (spec/10 R219). -/
def execStrSys (g : Guard) (d a : XReg) (c : BitVec 4) (z : BitVec 2) (s : State) : Out3 :=
  noMissed (.strSys g d a c z) g [d, a] s

/-- MONW (spec/09 R206). -/
def execMonw (g : Guard) (d a : XReg) (c : BitVec 4) (z : BitVec 2) (s : State) : Out3 :=
  mayMiss (.monw g d a c z) g 4 [d, a] s

/-- AADD (spec/10 R221). -/
def execAadd (g : Guard) (d a b : XReg) (c : BitVec 4) (z o : BitVec 2) (sc : BitVec 3) (s : State) : Out3 :=
  mayMiss (.aadd g d a b c z o sc) g 8 [d, a, b] s

/-- AAND (spec/10 R221). -/
def execAand (g : Guard) (d a b : XReg) (c : BitVec 4) (z o : BitVec 2) (sc : BitVec 3) (s : State) : Out3 :=
  mayMiss (.aand g d a b c z o sc) g 8 [d, a, b] s

/-- AOR (spec/10 R221). -/
def execAor (g : Guard) (d a b : XReg) (c : BitVec 4) (z o : BitVec 2) (sc : BitVec 3) (s : State) : Out3 :=
  mayMiss (.aor g d a b c z o sc) g 8 [d, a, b] s

/-- AXOR (spec/10 R221). -/
def execAxor (g : Guard) (d a b : XReg) (c : BitVec 4) (z o : BitVec 2) (sc : BitVec 3) (s : State) : Out3 :=
  mayMiss (.axor g d a b c z o sc) g 8 [d, a, b] s

/-- AMIN (spec/10 R221). -/
def execAmin (g : Guard) (d a b : XReg) (c : BitVec 4) (z o : BitVec 2) (sc : BitVec 3) (s : State) : Out3 :=
  mayMiss (.amin g d a b c z o sc) g 8 [d, a, b] s

/-- AMAX (spec/10 R221). -/
def execAmax (g : Guard) (d a b : XReg) (c : BitVec 4) (z o : BitVec 2) (sc : BitVec 3) (s : State) : Out3 :=
  mayMiss (.amax g d a b c z o sc) g 8 [d, a, b] s

/-- AMINU (spec/10 R221). -/
def execAminu (g : Guard) (d a b : XReg) (c : BitVec 4) (z o : BitVec 2) (sc : BitVec 3) (s : State) : Out3 :=
  mayMiss (.aminu g d a b c z o sc) g 8 [d, a, b] s

/-- AMAXU (spec/10 R221). -/
def execAmaxu (g : Guard) (d a b : XReg) (c : BitVec 4) (z o : BitVec 2) (sc : BitVec 3) (s : State) : Out3 :=
  mayMiss (.amaxu g d a b c z o sc) g 8 [d, a, b] s

/-- ASWAP (spec/10 R221). -/
def execAswap (g : Guard) (d a b : XReg) (c : BitVec 4) (z o : BitVec 2) (sc : BitVec 3) (s : State) : Out3 :=
  mayMiss (.aswap g d a b c z o sc) g 8 [d, a, b] s

/-- CAS (spec/10 R221). -/
def execCas (g : Guard) (d a b x : XReg) (c : BitVec 4) (z o : BitVec 2) (sc : BitVec 3) (s : State) : Out3 :=
  mayMiss (.cas g d a b x c z o sc) g 8 [d, a, b, x] s

/-- FENCE: it issues once every earlier access of the lane in a class of its mask has performed (spec/10 R222,
`HeldStore.stops`). -/
def execFence (g : Guard) (m : BitVec 16) (s : State) : Out3 :=
  kReg (.fence g m) g 4 [] id s

/-- After an access of K that had issued has completed: a step counts it (spec/14 R310), a fault that waited for K's boundary
is taken (spec/20 R352), and in a held team the resume point moves on (spec/20 R361). -/
def afterReply (c : Nat) (before : State) : Out3 → Out3
  | .next s => .next (keepPerf before c (recut (takeWaiting (noteStep before c .k s) c) c))
  | .fault f => .fault f
  | .refused r => .refused r

/-- Held stores perform; a fault that waits for K's boundary is taken, and a parcel that has ended retires, once they have (spec/20
R352, spec/03 R50). -/
def storesPerform (c : Nat) (s : State) : State :=
  if (s.ctx c).stores.isEmpty then s else maybeRetire (takeWaiting (drainStores c [] (s.ctx c).stores s) c) c

/-- The reply returns of an access that a parcel had issued before a supervisor ended it: the access performs (spec/03 R50); a
fault that it meets is one of an ended parcel, and nobody's. -/
def lastReply (c : Nat) (i : Instr) (s : State) : State :=
  match perform noPos i c s with
  | .next t =>
    if (t.ctx c).k.head != (s.ctx c).k.head then t
    else if (t.ctx c).kmiss.isSome then s
    else noMiss s c
  | .fault _ | .refused _ => s

/-- SCALAR_ACCESS_REPLY: K's held stores perform where they can (spec/10 R218), and the reply of an access that missed returns, which
performs or faults (spec/21 R377). -/
def execScalarAccessReply (c : Nat) (s : State) : Out3 :=
  let s := storesPerform c s
  match (s.ctx c).kmiss with
  | some i => if (s.ctx c).retired then .next (lastReply c i s) else afterReply c s (perform noPos i c s)
  | none => .next s

/-- MONW loads again. -/
def monwAgain (s : State) (c : Nat) (m : Monw) : Out3 :=
  afterReply c s (perform (m.woken.getD noPos) m.i c (s.modCtx c fun x => { x with monw := none }))

/-- MONW_WAKE: a write has reached the watched block (spec/09 R206). -/
def execMonwWake (c : Nat) (s : State) : Out3 :=
  match (s.ctx c).monw with
  | some m => if m.woken.isSome && !frozen s c .k then monwAgain s c m else .next s
  | none => .next s

/-- MONW_TIMEOUT: 65,536 ticks have passed since the last load (spec/09 R206). -/
def execMonwTimeout (c : Nat) (s : State) : Out3 :=
  match (s.ctx c).monw with
  | some m => if m.gt + 65536 ≤ s.gtOf (dieOf c) && !frozen s c .k then monwAgain s c m else .next s
  | none => .next s

end Sys2Proof.Machine
end

