-- ==== Sys2Proof/Machine/Engine.lean ====
section
/-! DEFINITION. The engines of a cluster: stamps and starts (spec/10 R234, R235), the copies and conversions of a copy
block (R239-R241, spec/13 R289, R290), arrivals and completion (R125, R234), faults (spec/21 R380-R382, R389) and slab
relocation (R242, spec/05 R115, R116, spec/12 R285, spec/21 R390). -/

namespace Sys2Proof.Machine

/-- A command of a cluster by its number. -/
def Cluster.cmd (x : Cluster) (id : Nat) : Option Cmd := x.cmds.find? fun k => k.id == id

/-- The state with a command replaced. -/
def putCmd (s : State) (cl : Nat) (k : Cmd) : State :=
  s.modCluster cl fun x => { x with cmds := replaceWhere (fun j => j.id == k.id) (fun _ => k) x.cmds }

/-- The position of a command (spec/14 R304). -/
def Cmd.at_ (k : Cmd) (cl : Nat) : Word := posEng cl k.eng.unit k.no

/-- A stop, a held team or a die in reset keeps queued commands of the context where they are; a pre-emption lets them
complete (spec/14 R307, spec/20 R361, spec/03 R64). -/
def mayStart (s : State) (cl c : Nat) : Bool :=
  match (s.cluster cl).team with
  | some t => t.saving.isSome || (t.held.isNone && !(s.ctx c).stopped)
  | none => false

/-! ## Stamps -/

/-- STAMP_REACHED: a command whose stamp is due leaves the time-sorted buffer, in issue order among those that may leave: one that
a stop of its context keeps there holds up no other (spec/10 R235, spec/14 R307). -/
def execStampReached (cl id : Nat) (s : State) : Out3 :=
  let x := s.cluster cl
  match x.cmd id with
  | some k =>
    let due := fun k : Cmd => stampDue s cl (copyBlk k.blk.toNat).stamp
    if k.phase == .stamped && due k && mayStart s cl k.c &&
      !(x.cmds.any fun j => j.phase == .stamped && decide (j.id < id) && due j && mayStart s cl j.c) then
      .next (putCmd s cl { k with phase := .queued, since := s.cycle })
    else .next s
  | none => .next s

/-! ## Input tokens -/

/-- An earlier input wait of the same context stands on the queue (spec/09 R204). -/
def earlierInput (x : Cluster) (c q id : Nat) : Bool :=
  (x.cmds.any fun j => decide (j.id < id) && j.c == c && j.phase == .queued && j.tws.head? == some q) ||
  (x.starts.any fun j => decide (j.id < id) && j.c == c && j.tw == q)

/-- What taking an engine's input token comes to. -/
inductive Fed where
  | ok (s : State)
  | no
  /-- Replay has stopped the team. -/
  | off (s : State)

/-- A command, a start or a kiln program that the context issued before `id` is still to push a token on a queue. -/
def tokenToCome (x : Cluster) (c q id : Nat) : Bool :=
  (x.cmds.any fun j => j.c == c && decide (j.id < id) && j.ts == q && j.phase != .done) ||
  (x.starts.any fun j => j.c == c && decide (j.id < id) && j.ts == q) ||
  x.run.any fun r => r.c == c && r.ts == q

/-- Take one token of a queue for an engine's input wait of position `pos` that began at `since` (spec/10 R234, spec/14
R311, R321). The token queues of a parcel that has retired no longer exist, and its commands run to completion all the same
(spec/03 R50): such a wait ends without a token once nothing that the parcel issued earlier would still push one there (DESIGN
CHOICE, log 55). -/
def feed (s : State) (cl c q id : Nat) (pos : Word) (since : Nat) : Fed :=
  if (s.ctx c).retired then (if tokenToCome (s.cluster cl) c q id then .no else .ok s)
  else match takeTokens (s.ctx c) q 1 pos with
  | none => .no
  | some (ps, x) =>
    if earlierInput (s.cluster cl) c q id || !turnToTake s c 4 q then .no
    else match recGate s cl pos (setterOf ps) 0 with
      | .hold => .no
      | .diverge d n v => .off (divergeAt s c 0 pos 0x43 d n v)
      | .go _ =>
        let s := logWait s (dieOfCluster cl) pos (setterOf ps) (some (inputWait q since)) 0 true
        let s := s.setCtx c { s.ctx c with tq := x.tq, taker := x.taker }
        .ok (syncEvent s c 0 pos (setterOf ps) 0 1)

/-- Take what input tokens a command can take now. -/
def feedCmd (cl : Nat) : Nat → State → Cmd → State
  | 0, s, _ => s
  | n + 1, s, k =>
    match k.tws with
    | [] => s
    | q :: rest => match feed s cl k.c q k.id (k.at_ cl) k.since with
      | .no => s
      | .off s => s
      | .ok s =>
        let k := { k with tws := rest, since := s.cycle }
        feedCmd cl n (putCmd s cl k) k

/-! ## Start -/

/-- The largest k with m * 2^k at most the largest value of a format (spec/10 R241). -/
def scaleExp (f : Fmt) (m : Num) : Int :=
  match m, (targetFor f 127).extreme false with
  | .fin _ a e, .fin _ b g =>
    let k : Int := (bitLen b + g) - (bitLen a + e)
    if magLt b g a (e + k) then k - 1 else k
  | _, _ => 0

/-- CPYQ reads its scale word once (spec/06 R128) and loads its generator (spec/10 R241). -/
def prepCpyq (s : State) (x : Cmd) : Prep :=
  let k := copyBlk x.blk.toNat
  let x := { x with ready := true, sr := if k.rnd = 4 then lfsrStart (wd k.srseed) else 0 }
  if !k.scale then .ok s x
  else match engRead s x.c 8 (wd k.fold) 4 with
    | .wait => .wait
    | .flt f => failAt s x [] f 0
    | .ok s b =>
      let w := leNat b
      .ok s { x with k := if 0 < w && w < 0x7F800000 then scaleExp k.df (fp32.decode w) else 0 }

/-- CPYREL sets the forwarding pair (spec/10 R242, spec/05 R115). -/
def prepCpyrel (s : State) (cl : Nat) (x : Cmd) : Prep :=
  let m := slabOf x.map.toNat
  let new := bits x.blk.toNat 64 52
  .ok (s.modCluster cl fun y =>
    { y with
      fwdOld := wd m.base
      fwdNew := wd new
      fwdStat := wd (m.pstride + m.logp * 2 ^ 49 + 2 ^ 63) }) { x with ready := true }

/-- A prepared command holds what it has read as data. -/
def Prep.withData : Prep → Prep
  | .ok s k => .ok { s with reads := [] } { k with data := s.reads }
  | .wait => .wait

/-- What a command reads and computes when it starts. -/
def prepare (s : State) (cl : Nat) (k : Cmd) : Prep :=
  Prep.withData <| match k.op with
  | .cpy => .ok s { k with ready := true }
  | .cpyq => prepCpyq s k
  | .cpyrel => prepCpyrel s cl k
  | .kvapp => prepKvapp s k
  | .kvsel => prepKvsel s k
  | .kvatt => prepKvatt s k
  | .kvpre => prepKvpre s k
  | .selact => prepSelact s k

/-- The command has started and not ended; one whose token finds no room has not ended, so that a relocation still waits for it (spec/12
R285; DESIGN CHOICE, log 60). -/
def Cmd.live (k : Cmd) : Bool := k.phase == .running || k.phase == .suspended || k.phase == .pushing

/-- A command whose tokens are taken may start: a CPYREL waits while a relocation is active (spec/05 R115), a KVAPP for the one
before it on the same slab map entry (spec/12 R283), but for no push of its token (spec/10 R234). -/
def canStart (x : Cluster) (k : Cmd) : Bool :=
  match k.op with
  | .cpyrel => !bitAt x.fwdStat 63
  | .kvapp =>
    !(x.cmds.any fun j => j.op == .kvapp && decide (j.no < k.no) && (j.phase == .running || j.pending) &&
      bits j.blk.toNat 0 52 == bits k.blk.toNat 0 52)
  | .cpy | .cpyq | .kvsel | .kvatt | .kvpre | .selact => true

/-- The command's turn has come: its tokens are taken, it may start, and no command that entered its engine before it and waits
for no token stands before it, one that may not start yet included (spec/10 R234, spec/12 R284; for a CPYREL that waits for
ACTIVE: DEDUCED, log 54). -/
def itsTurn (x : Cluster) (k : Cmd) : Bool :=
  let open_ := fun j : Cmd => j.phase == .queued && j.tws.isEmpty
  open_ k && canStart x k && !(x.cmds.any fun j => j.eng == k.eng && decide (j.no < k.no) && open_ j)

/-- An attention command that has started reads its slab map entry once (spec/11 R273). -/
def readMap (s : State) (cl : Nat) (k : Cmd) : State × Cmd :=
  match k.op with
  | .kvapp | .kvsel | .kvatt | .kvpre =>
    if k.mapped then (s, k)
    else match slabEntry s k with
      | .ok s e =>
        let k := { k with map := BitVec.ofNat 128 e, mapped := true }
        (putCmd { s with reads := [] } cl k, k)
      | .flt _ | .wait => (s, k)
  | .cpy | .cpyq | .cpyrel | .selact => (s, k)

/-- Make a running command ready where it is not: nothing while it waits (DEDUCED, log 38). -/
def readied (s : State) (cl : Nat) (k : Cmd) : Option (State × Cmd) :=
  if k.ready then some (s, k)
  else match prepare s cl k with
    | .wait => none
    | .ok s k => some (putCmd s cl k, k)

/-- ENGINE_COMMAND_START: a queued command takes the tokens that it can, and starts in its turn (spec/10 R234). -/
def execEngineCommandStart (cl id : Nat) (s : State) : Out3 :=
  match (s.cluster cl).cmd id with
  | none => .next s
  | some k =>
    if k.phase != .queued || !mayStart s cl k.c then .next s
    else
      let s := feedCmd cl k.tws.length s k
      match (s.cluster cl).cmd id with
      | none => .next s
      | some k =>
        if !mayStart s cl k.c || !itsTurn (s.cluster cl) k then .next s
        else
          let k := { k with phase := .running }
          let (s, k) := readMap (progress (putCmd s cl k) cl) cl k
          match readied s cl k with
          | some (s, _) => .next s
          | none => .next s

/-! ## Completion and faults -/

/-- Drop the completed prefix of an engine's commands and move its head past it (spec/14 R303). -/
def settleFrom (e : Eng) : Nat → Cluster → Cluster
  | 0, x => x
  | n + 1, x =>
    let h := vget x.heads e.idx 0
    if x.cmds.any fun k => k.eng == e && k.no == h && k.phase == .done then
      settleFrom e n { x with
        cmds := x.cmds.filter (fun k => !(k.eng == e && k.no == h))
        heads := vput x.heads e.idx (h + 1) }
    else x

/-- A command has ended. -/
def endCmd (s : State) (cl : Nat) (k : Cmd) : State :=
  let s := putCmd s cl { k with phase := .done }
  progress (s.modCluster cl fun x => settleFrom k.eng (x.cmds.length + 1) x) cl

/-- Layout E of FR_INFO (spec/21 R376). -/
def layoutE (elem left : Nat) : Word := wd (elem % 2 ^ 32 + left % 2 ^ 31 * 2 ^ 32)

/-- Queue an engine fault for delivery (spec/21 R375). -/
def queueFlt (s : State) (cl : Nat) (k : Cmd) (f : Flt) : State :=
  s.modCluster cl fun x => { x with flts := x.flts ++ [⟨f, k.c, 0, k.at_ cl⟩] }

/-- The fault of a command as its record holds it: conversion and command faults name the block (spec/21 R376). -/
def cmdFlt (k : Cmd) (f : Flt) (elem left : Nat) : Flt :=
  { f with
    addr := if f.cause = 0x29 || f.cause = 0x2A then k.blkAddr else f.addr
    info := layoutE elem left }

/-- A command ends in a fault: what it has written is retired, the rest stays posted, no token is pushed (spec/21
R380, R381). -/
def failCmd (s : State) (cl : Nat) (k : Cmd) (f : Flt) (elem : Nat) : State :=
  endCmd (queueFlt s cl k (cmdFlt k f elem k.left)) cl k

/-- Retire bytes of a command's post. -/
def retireCmd (s : State) (cl : Nat) (k : Cmd) (n : Nat) : State × Cmd :=
  let n := min n k.left
  (retireEc s cl k.ec n (k.at_ cl), { k with left := k.left - n })

/-- Perform an engine's write, for the watchpoints too (spec/14 R319). -/
def engWrite (s : State) (cl c : Nat) (who a : Word) (ps : List (Loc × Nat)) (bs : List Byte) : State :=
  engineWatch (writePieces s who ps bs) cl who (bits a.toNat 62 2) (bits a.toNat 0 52) bs.length (asidOf (s.ctx c))

/-! ## The box of CPY and CPYQ -/

/-- Bytes that a read overlapping an earlier write of the same command returns: before or after it (spec/13 R289; log
10). -/
def mixBytes (n : Nat) : List Byte → List Byte → List Byte
  | a :: r, b :: t => (if a = b then a else if Config.overlapNew n then b else a) :: mixBytes (n + 1) r t
  | l, _ => l

/-- Read pieces of a source, part of which earlier writes of the command may have reached since `old`. -/
def readMixed (old s : State) (ps : List (Loc × Nat)) : State × List Byte :=
  let a := readPieces old ps
  ({ s with fresh := s.fresh + a.length }, mixBytes s.fresh a (readPieces s ps))

/-- Source elements read in order, and what stopped the reading: nothing, a wait, or a fault. -/
structure SrcRead where
  s : State
  vals : List Nat
  stop : Option (Option Flt)

/-- Read `n` source elements of a box from element `e`, whose first bytes `part` have been read (spec/10 R239, spec/13 R289). -/
def readSrc (old : State) (k : CopyBlk) (c : Nat) : List Byte → Nat → Nat → State → SrcRead
  | _, 0, _, s => ⟨s, [], none⟩
  | part, n + 1, e, s =>
    let w := k.sf.width
    match resolve s (Acc.load c 6 0 0) (k.srcAt e + wd part.length) ((w + 7) / 8 - part.length) with
    | .wait => ⟨s, [], some none⟩
    | .flt _ f => ⟨s, [], some (some f)⟩
    | .ok s ps =>
      let (s, bs) := readMixed old s ps
      let v := leNat (part ++ bs)
      let r := readSrc old k c [] n (e + 1) s
      { r with vals := (if w = 4 then bits v (4 * (e % 2)) 4 else v) :: r.vals }

/-- The rounding modes of `n` elements, with the generator after them. -/
def drawModes (rnd n : Nat) (sr : Word) : List Rm × Word :=
  if rnd = 4 then (modesFrom n sr, lfsrSteps (16 * n) sr) else (List.replicate n (Rm.ofCode rnd), sr)

/-- A unit converted: its elements' bits, the scale byte of a granule, the first conversion fault with its place. -/
structure CopyUnit where
  bits_ : List Nat
  scale : Nat
  bad : Option (Nat × Nat)

/-- The first fault among conversions: its place, its DETAIL. -/
def firstBad : Nat → List Conv → Option (Nat × Nat)
  | _, [] => none
  | n, .bad d :: _ => some (n, d)
  | n, .ok .. :: r => firstBad (n + 1) r

/-- Convert the source values of a unit (spec/10 R241, spec/13 R296). -/
def convUnit (df : Fmt) (pol : Nat) (rms : List Rm) (k : Int) (xs : List Num) : CopyUnit :=
  let b := if df.isMx then scaleFor df.width (mxQ df) (largest xs) else 127
  let t := targetFor df b
  let cs := (List.zip xs rms).map fun (x, rm) => convert t pol rm (if df.isMx then x else x.scale k)
  ⟨cs.map fun c => t.encode (convVal c), b, firstBad 0 cs⟩

/-- The bytes of a unit's destination. -/
def unitBytes (df : Fmt) (u : CopyUnit) : List Byte :=
  let n := u.bits_.length
  leBytes ((n * df.width + 7) / 8) (packList df.width u.bits_) ++ (if df.isMx then [BitVec.ofNat 8 u.scale] else [])

/-- What one unit of a copy comes to: done, with the bytes written; a wait; a fault at an element. -/
inductive UnitRes where
  | ok (s : State) (k : Cmd) (n : Nat)
  | wait
  | flt (s : State) (k : Cmd) (f : Flt) (elem : Nat)

/-- Write a unit's bytes at the destination of element `e`. -/
def putUnit (s : State) (cl : Nat) (b : CopyBlk) (k : Cmd) (e : Nat) (bs : List Byte) : UnitRes :=
  let a := b.dstAt e
  match resolve s (Acc.store k.c 7 0 0) a bs.length with
  | .wait => .wait
  | .flt _ f => .flt s k f e
  | .ok s ps => .ok (engWrite s cl k.c (k.at_ cl) a ps bs) k bs.length

/-- A fault at the second element of a byte of E2M1: the first element is written, the other half of its byte stays
(spec/21 R380). -/
def putHalf (s : State) (cl : Nat) (b : CopyBlk) (k : Cmd) (e : Nat) (v : Nat) (f : Flt) : UnitRes :=
  let a := b.dstAt e
  match resolve s (Acc.store k.c 7 0 0) a 1 with
  | .wait => .wait
  | .flt _ f => .flt s k f e
  | .ok s ps =>
    let old := leNat (readPieces s ps)
    .flt (engWrite s cl k.c (k.at_ cl) a ps [BitVec.ofNat 8 (v % 16 + old / 16 * 16)]) k f (e + 1)

/-- A unit read and converted: the bytes to write; or a fault at its element `j`, with the first element's bits. -/
inductive UnitRead where
  | ok (s : State) (k : Cmd) (bs : List Byte)
  | wait
  | flt (s : State) (k : Cmd) (f : Flt) (j first : Nat)

/-- The `n` source elements from `e`: those read ahead, then the others. -/
def takeSrc (old : State) (b : CopyBlk) (k : Cmd) (n e : Nat) (s : State) : SrcRead :=
  let held := k.ahead.take n
  let r := readSrc old b k.c k.part (n - held.length) (e + held.length) s
  { r with vals := held ++ r.vals }

/-- Read and convert the unit of a copy command that begins with element `e` (spec/10 R241, spec/13 R289). -/
def readUnit (old : State) (b : CopyBlk) (k : Cmd) (e : Nat) (s : State) : UnitRead :=
  let r := takeSrc old b k b.unit e s
  let conv := k.op == .cpyq
  let xs := r.vals.map (elemNum b.sf)
  let (rms, sr) := drawModes b.rnd b.unit k.sr
  let u := if conv then convUnit b.df b.policy rms k.k xs else ⟨r.vals, 127, none⟩
  let k := { k with
    sr := sr, mx := if conv then xs.foldl (fun m x => maxW m (magPattern x)) k.mx else k.mx
    ahead := k.ahead.drop b.unit
    part := if b.unit ≤ k.ahead.length then k.part else [] }
  let srcFlt := match r.stop with
    | some (some f) => some (r.vals.length, f)
    | some none | none => none
  let stop := if b.df.isMx && srcFlt.isSome then srcFlt else match u.bad with
    | some (j, d) => some (j, ⟨0x29, d, 0, 0⟩)
    | none => srcFlt
  match r.stop, stop with
  | some none, _ => .wait
  | _, none => .ok r.s k (unitBytes b.df u)
  | _, some (j, f) => .flt r.s k f j (nth u.bits_ 0 0)

/-- One unit of a copy command from element `e`: sources, conversion, destination (spec/10 R241, spec/13 R289). -/
def copyUnit (old : State) (cl : Nat) (b : CopyBlk) (k : Cmd) (e : Nat) (s : State) : UnitRes :=
  match readUnit old b k e s with
  | .wait => .wait
  | .ok s k bs => putUnit s cl b k e bs
  | .flt s k f j v =>
    if j = 1 && b.unit = 2 then putHalf s cl b k e v f
    else .flt s k f (if b.df.isMx then e else e + j)

/-- The write at `a` goes on, in the same aligned 8-byte word, behind one of `n` bytes at `p` (spec/06 R118). -/
def joins (p : Word) (n : Nat) (a : Word) : Bool := a == p + wd n && a.toNat % 8 != 0

/-- Units that one step writes together, since they share aligned 8-byte words: element, bytes, the command after it; and what
stopped the reading (spec/06 R118, spec/13 R289). -/
structure UnitGroup where
  s : State
  k : Cmd
  units : List (Nat × List Byte × Cmd)
  stop : Option (Option (Flt × Nat × Nat))

/-- Read the units from element `e` that share words with the one before them. -/
def readGroup (old : State) (b : CopyBlk) : Nat → Nat → State → Cmd → List (Nat × List Byte × Cmd) → UnitGroup
  | 0, _, s, k, l => ⟨s, k, l, none⟩
  | n + 1, e, s, k, l =>
    match readUnit old b k e s with
    | .wait => ⟨s, k, l, some none⟩
    | .flt s k f j v => ⟨s, k, l, some (some (f, j, v))⟩
    | .ok s k bs =>
      let l := l ++ [(e, bs, k)]
      if e + b.unit < b.count && joins (b.dstAt e) bs.length (b.dstAt (e + b.unit)) then readGroup old b n (e + b.unit) s k l
      else ⟨s, k, l, none⟩

/-- No write of the group waits. -/
def groupReady (s : State) (b : CopyBlk) (c : Nat) (l : List (Nat × List Byte × Cmd)) : Bool :=
  l.all fun u => match resolve s (Acc.store c 7 0 0) (b.dstAt u.1) u.2.1.length with
    | .wait => false
    | .ok .. | .flt .. => true

/-- Element `e` of a source stands in the same aligned 8-byte word as the element before it, next to it. -/
def srcJoins (b : CopyBlk) (e : Nat) : Bool :=
  let p := b.srcAt (e - 1)
  let a := b.srcAt e
  let w := b.sf.width
  if w = 4 && e % 2 = 1 then a == p else joins p ((w + 7) / 8) a

/-- Read the source elements from `e` on that share the word of the one before them, of the last one perhaps only the bytes that
stand in that word; one that faults or waits is left to its own turn (spec/06 R118). -/
def readAhead (old : State) (b : CopyBlk) (c : Nat) : Nat → Nat → State → List Nat → State × List Nat × List Byte
  | 0, _, s, l => (s, l, [])
  | n + 1, e, s, l =>
    let a := b.srcAt e
    let room := 8 - a.toNat % 8
    if !(e < b.count && srcJoins b e) then (s, l, [])
    else if (b.sf.width + 7) / 8 ≤ room then
      let r := readSrc old b c [] 1 e s
      if r.stop.isSome then (s, l, []) else readAhead old b c n (e + 1) r.s (l ++ r.vals)
    else match resolve s (Acc.load c 6 0 0) a room with
      | .wait | .flt .. => (s, l, [])
      | .ok s ps =>
        let (s, bs) := readMixed old s ps
        (s, l, bs)

/-- The state, and the command with what it reads ahead. -/
def withAhead (old : State) (b : CopyBlk) (s : State) (k : Cmd) : State × Cmd :=
  if !k.part.isEmpty then (s, k)
  else
    let (s, l, part) := readAhead old b k.c 16 (k.e + k.ahead.length) s k.ahead
    (s, { k with ahead := l, part := part })

/-- After a fault, later units that the choice lets through have been written all the same (spec/21 R380; log 10). -/
def lateUnits (old : State) (cl : Nat) (b : CopyBlk) : Nat → Nat → State → Cmd → State × Cmd
  | 0, _, s, k => (s, k)
  | n + 1, e, s, k =>
    if b.count ≤ e then (s, k)
    else
      let want := Config.lateWrite s.fresh
      let s := { s with fresh := s.fresh + 1 }
      match (if want then copyUnit old cl b { k with ahead := [], part := [] } e s else .wait) with
      | .ok s k w =>
        let (s, k) := retireCmd s cl k w
        lateUnits old cl b n (e + b.unit) s k
      | .wait | .flt .. => lateUnits old cl b n (e + b.unit) s { k with sr := (drawModes b.rnd b.unit k.sr).2 }

/-- Write the units of a group in order: each retires its bytes but the last of the box, which the completion retires. A fault
ends the command (spec/10 R239, spec/21 R380). -/
def putGroup (old : State) (cl : Nat) (b : CopyBlk) : List (Nat × List Byte × Cmd) → State → Cmd → State × Option Cmd
  | [], s, k => (s, some k)
  | (e, bs, kr) :: r, s, k =>
    let k := { k with sr := kr.sr, mx := kr.mx, ahead := kr.ahead, part := kr.part }
    match putUnit s cl b k e bs with
    | .wait => (s, some k)
    | .flt s k f e =>
      let (s, k) := lateUnits old cl b (b.count / b.unit) ((e / b.unit + 1) * b.unit) s { k with ahead := [], part := [] }
      (failCmd s cl k f e, none)
    | .ok s k w =>
      let k := { k with e := e + b.unit }
      let (s, k) := if b.count ≤ k.e then (s, k) else retireCmd s cl k w
      putGroup old cl b r s k

/-- A group's reading met a fault in the unit behind those that it has written. -/
def failGroup (old : State) (cl : Nat) (b : CopyBlk) (s : State) (k : Cmd) (f : Flt) (j v : Nat) : State :=
  let end_ := fun (s : State) (k : Cmd) (f : Flt) (e : Nat) =>
    let (s, k) := lateUnits old cl b (b.count / b.unit) ((e / b.unit + 1) * b.unit) s { k with ahead := [], part := [] }
    failCmd s cl k f e
  if j = 1 && b.unit = 2 then
    match putHalf s cl b k k.e v f with
    | .wait => putCmd s cl k
    | .flt s k f e => end_ s k f e
    | .ok s k _ => putCmd s cl k
  else end_ s k f (if b.df.isMx then k.e else k.e + j)

/-- At least `n` units of a copy, in groups that share words; `m` bounds the groups (spec/10 R239, spec/06 R118). -/
def copyFrom (old : State) (cl : Nat) (b : CopyBlk) : Nat → Nat → State → Cmd → State
  | 0, _, s, k => putCmd s cl k
  | m + 1, n, s, k =>
    if n = 0 || b.count ≤ k.e then putCmd s cl k
    else
      let g := readGroup old b (b.count / b.unit) k.e s k []
      if g.stop == some none || !groupReady s b k.c g.units then putCmd s cl k
      else match putGroup old cl b g.units g.s k with
        | (s, none) => s
        | (s, some k) => match g.stop with
          | some (some (f, j, v)) => failGroup old cl b s { k with sr := g.k.sr, ahead := g.k.ahead, part := g.k.part } f j v
          | some none => putCmd s cl k
          | none =>
            let (s, k) := withAhead old b s k
            copyFrom old cl b m (n - g.units.length) s k

/-! ## The listed writes of the other commands -/

/-- After a fault, later listed writes that the choice lets through (spec/21 R380; log 10). -/
def lateOuts (cl : Nat) : List Out → State → Cmd → State × Cmd
  | [], s, k => (s, k)
  | o :: r, s, k =>
    let want := Config.lateWrite s.fresh
    let s := { s with fresh := s.fresh + 1 }
    if !want then lateOuts cl r s k
    else match resolve s (Acc.store k.c 7 0 0) o.addr o.bytes.length with
      | .wait | .flt .. => lateOuts cl r s k
      | .ok s ps =>
        let (s, k) := retireCmd (engWrite s cl k.c (k.at_ cl) o.addr ps o.bytes) cl k o.retire
        lateOuts cl r s k

/-- The listed write that stands first, with those that share its aligned 8-byte word, waits for none of them (spec/06 R118). -/
def outsReady (s : State) (c : Nat) : List Out → Bool
  | [] => true
  | o :: r =>
    (match resolve s (Acc.store c 7 0 0) o.addr o.bytes.length with
      | .wait => false
      | .ok .. | .flt .. => true) &&
    (match r with
      | p :: _ => !joins o.addr o.bytes.length p.addr || outsReady s c r
      | [] => true)

/-- The next listed write shares the word of the one before it. -/
def nextJoins (o : Out) : List Out → Bool
  | [] => false
  | p :: _ => joins o.addr o.bytes.length p.addr

/-- Perform at least `n` listed writes of at most `m`, those that share a word together; the last one's bytes are retired by
the completion. -/
def outsFrom (cl : Nat) : Nat → Nat → Bool → State → Cmd → State
  | 0, _, _, s, k => putCmd s cl k
  | m + 1, n, mid, s, k =>
    match k.outs with
    | [] => putCmd s cl k
    | o :: r =>
      if (n = 0 && !mid) || (!mid && !outsReady s k.c (o :: r)) then putCmd s cl k
      else match resolve s (Acc.store k.c 7 0 0) o.addr o.bytes.length with
      | .wait => putCmd s cl k
      | .flt _ f =>
        let (s, k) := lateOuts cl r s k
        failCmd s cl k f o.elem
      | .ok s ps =>
        let s := engWrite s cl k.c (k.at_ cl) o.addr ps o.bytes
        let k := { k with outs := r }
        if r.isEmpty && k.bad.isNone then putCmd s cl k
        else
          let (s, k) := retireCmd s cl k o.retire
          outsFrom cl m (n - 1) (nextJoins o r) s k

/-- COPY_ARRIVAL: `n` destination writes of a running command perform, in order, with those that share an aligned 8-byte word
with the last of them (spec/10 R239, spec/06 R118). -/
def execCopyArrival (cl id n : Nat) (s : State) : Out3 :=
  match (s.cluster cl).cmd id with
  | none => .next s
  | some k =>
    if k.phase != .running then .next s
    else
      let (s, k) := readMap s cl k
      match readied s cl k with
      | none => .next s
      | some (s, k) =>
        let s := progress s cl
        match k.op with
        | .cpy | .cpyq =>
          if k.bad.isSome then .next s else .next (copyFrom s cl (copyBlk k.blk.toNat) n n s k)
        | .kvapp | .kvsel | .kvatt | .kvpre | .selact => .next (outsFrom cl k.outs.length n false s k)
        | .cpyrel => .next s

/-! ## Completion -/

/-- Push a command's completion token where there is room, and end it; its quarantine entries are raised now (spec/10
R234, spec/21 R389). -/
def pushDone (s : State) (cl : Nat) (k : Cmd) : State :=
  let x := s.ctx k.c
  if k.ts ≠ 15 && !x.retired && !tokenRoom x k.ts 1 then putCmd s cl { k with phase := .pushing }
  else
    let s := if k.ts = 15 then s else pushTo s k.c k.ts 1 (k.at_ cl)
    let map := wd (bits k.blk.toNat 0 52)
    let s := k.quar.foldl (fun s q => queueFlt s cl k ⟨0x2E, q.1, map, q.2⟩) s
    endCmd s cl k

/-- The last decrement, then the token (spec/06 R125). -/
def finishCmd (s : State) (cl : Nat) (k : Cmd) : State :=
  let (s, k) := retireCmd s cl k k.left
  pushDone s cl k

/-- Some byte of the pieces is poisoned. -/
def anyPoison (s : State) (ps : List (Loc × Nat)) : Bool :=
  ps.any fun (l, n) => match l with
    | .phys a _ _ => marked s.poisoned 64 a n
    | .cl .. | .co .. => false

/-- The fold is performed at the base die: every cluster's watchpoints see it (spec/14 R319). -/
def foldWatch (s : State) (cl c : Nat) (who a : Word) (ps : List (Loc × Nat)) : State :=
  match ps with
  | (.phys p _ _, _) :: _ =>
    if p < hbmEnd then remoteWatch s none who (bits a.toNat 0 52) 4 (asidOf (s.ctx c))
    else engineWatch s cl who 0 (bits a.toNat 0 52) 4 (asidOf (s.ctx c))
  | _ => s

/-- A fault found once every destination byte has been written (spec/21 R380). -/
def failLate (s : State) (cl : Nat) (k : Cmd) (f : Flt) (elem : Nat) : State :=
  let (s, k) := retireCmd s cl k k.left
  failCmd s cl k f elem

/-- The fold of a CPYQ, the store of k before it; both are checked first (spec/10 R241, spec/13 R290, spec/21 R380). The fold is
checked for W alone, as R380 says, where spec/05 R99 gives an atomic both RD and W (DESIGN CHOICE, log 52). It writes the
larger of M and the word, the word itself included (spec/10 R241). -/
def foldCpyq (s : State) (cl : Nat) (k : Cmd) : State :=
  let b := copyBlk k.blk.toNat
  let who := k.at_ cl
  let fa := wd b.fold
  let ka := wd (b.fold + 4)
  match resolve s (Acc.store k.c 8 0 0) fa 4 with
  | .wait => s
  | .flt _ f => failLate s cl k f b.count
  | .ok s fp => match atomicRefused false fa 0 fp with
    | some f => failLate s cl k f b.count
    | none => match (if b.scale then resolve s (Acc.store k.c 8 0 0) ka 4 else .ok s []) with
      | .wait => s
      | .flt _ f => failLate s cl k f b.count
      | .ok s kp =>
        let s := if b.scale then engWrite s cl k.c who ka kp (leBytes 4 (k.k % (2 ^ 32 : Nat)).toNat) else s
        if anyPoison s fp then failLate s cl k ⟨0x2F, 8, fa, 0⟩ b.count
        else
          let old := BitVec.ofNat 32 (leNat (readPieces s fp))
          finishCmd (foldWatch (writePieces s who fp (leBytes 4 (max old.toNat k.mx.toNat))) cl k.c who fa fp) cl k

/-- KVAPP and KVPRE raise PAGES by an atomic once everything is written (spec/11 R274). -/
def raisePages (s : State) (cl : Nat) (k : Cmd) : State :=
  let b := k.blk.toNat
  let n := if k.op == .kvapp then bits b 256 7 else 64
  let want := (bits b 224 32 + n - 1) / 64 + 1
  let a := wd (bits b 0 52 + 8)
  match resolve s ⟨k.c, 7, 2, true, true, false, 0⟩ a 4 with
  | .wait => s
  | .flt _ f => failLate s cl k f n
  | .ok s ps => match atomicRefused true a 0 ps with
    | some f => failLate s cl k f n
    | none =>
      let old := leNat (readPieces s ps)
      if bits old 8 17 < want then
        let v := (putField (BitVec.ofNat 32 old) 8 17 want).toNat
        finishCmd (foldWatch (writePieces s (k.at_ cl) ps (leBytes 4 v)) cl k.c (k.at_ cl) a ps) cl k
      else finishCmd s cl k

/-- Deliver the tile of a KVATT into its stream's arrival queue, as though a READ had issued and the tile had arrived;
it waits for a free entry (spec/11 R278). -/
def deliverTile (s : State) (cl : Nat) (k : Cmd) (n : Nat) (v : Val) : State :=
  let x := s.ctx k.c
  let t := vget x.strm n Strm.init
  if x.retired then finishCmd s cl { k with deliver := none }
  else if !deliverOk k.blk.toNat t then failCmd s cl k ⟨0x2A, 5, 0, 0⟩ 0
  else if 4 ≤ t.arr.length + t.claimed then s
  else
    let s := s.setCtx k.c (x.setStrm n { t with arr := t.arr ++ [⟨t.rpos, .here v⟩], rpos := t.rpos + 1 })
    finishCmd s cl { k with deliver := none }

/-- ENGINE_COMMAND_COMPLETE: once every write has performed, a command makes its fold or its raise of PAGES, its last
decrement, and pushes its token; or it ends in the fault that it has met (spec/10 R234). -/
def execEngineCommandComplete (cl id : Nat) (s : State) : Out3 :=
  match (s.cluster cl).cmd id with
  | none => .next s
  | some k =>
    if k.phase == .pushing then .next (pushDone s cl k)
    else if k.phase != .running then .next s
    else
      let (s, k) := readMap s cl k
      match readied s cl k with
      | none => .next s
      | some (s, k) => match k.bad with
        | some (f, e) => if k.outs.isEmpty then .next (failCmd s cl k f e) else .next s
        | none => match k.op with
          | .cpy => if k.e < (copyBlk k.blk.toNat).count then .next s else .next (finishCmd s cl k)
          | .cpyq => if k.e < (copyBlk k.blk.toNat).count then .next s else .next (foldCpyq s cl k)
          | .kvapp | .kvpre => if k.outs.isEmpty then .next (raisePages s cl k) else .next s
          | .kvsel | .selact => if k.outs.isEmpty then .next (finishCmd s cl k) else .next s
          | .kvatt =>
            if !k.outs.isEmpty then .next s
            else match k.deliver with
              | some (n, v) => .next (deliverTile s cl k n v)
              | none => .next (finishCmd s cl k)
          | .cpyrel => .next s

/-! ## Slab relocation -/

/-- The poisoned 64-byte blocks of a run of pieces, as offsets from its first byte. -/
def poisonOffsets (s : State) : Nat → List (Loc × Nat) → List Nat
  | _, [] => []
  | o, (l, n) :: r =>
    (match l with
      | .phys a _ _ => (s.poisoned.filter fun b => decide (a ≤ 64 * b) && decide (64 * b < a + n)).map fun b => o + (64 * b - a)
      | .cl .. | .co .. => []) ++ poisonOffsets s (o + n) r

/-- The physical block at an offset of a run of pieces. -/
def blockAtOffset : Nat → List (Loc × Nat) → Option Nat
  | _, [] => none
  | o, (l, n) :: r =>
    if o < n then match l with
      | .phys a _ _ => if a < hbmEnd then some ((a + o) / 64) else none
      | .cl .. | .co .. => none
    else blockAtOffset (o - n) r

/-- Carry poison marks from a copied source to its destination (spec/21 R390). -/
def carryPoison (s : State) (src dst : List (Loc × Nat)) : State :=
  let marks := (poisonOffsets s 0 src).filterMap fun o => blockAtOffset o dst
  { s with poisoned := s.poisoned ++ marks.filter fun b => !s.poisoned.contains b }

/-- The poisoned blocks of a run of pieces. -/
def blocksOf (ps : List (Loc × Nat)) (b : Nat) : Bool :=
  ps.any fun (l, n) => match l with
    | .phys a _ _ => decide (64 * b < a + n) && decide (a < 64 * b + 64)
    | .cl .. | .co .. => false

/-- The relocation's own read: it is not routed, and poison in the data does not stop it (spec/05 R116, spec/21 R390); poison in
a page table does. -/
def relocRead (s : State) (c : Nat) (a n : Nat) : Resolved :=
  let go := fun bad => resolveBy false { s with poisoned := bad } (Acc.load c 6 0 0) (wd a) n
  match go [] with
  | .flt _ f => .flt s f
  | .wait => .wait
  | .ok _ ps => match go (s.poisoned.filter fun b => !blocksOf ps b) with
    | .ok t ps => .ok { t with poisoned := s.poisoned } ps
    | .flt _ f => .flt s f
    | .wait => .wait

/-- The faults that suspend a relocation: address, translation, permission, key and window (spec/21 R390). -/
def suspends (f : Flt) : Bool := f.cause == 0x20 || f.cause == 0x21 || f.cause == 0x22 || f.cause == 0x25 || f.cause == 0x27

/-- A relocation meets a fault at page `pg`, 2^LOGP for the writes to the slab map entry (of which R390 does not speak: DESIGN
CHOICE, log 52). One of the five kinds suspends it, and its post stays whole; another ends it as it ends any command (spec/21
R380), and ACTIVE clears as at the end of its team (spec/21 R390; DEDUCED, log 54). -/
def relocFault (s : State) (cl : Nat) (k : Cmd) (f : Flt) (pg : Nat) : State :=
  if suspends f then queueFlt (putCmd s cl { k with phase := .suspended }) cl k (cmdFlt k f pg k.left)
  else failCmd (s.modCluster cl fun x => { x with fwdStat := putField x.fwdStat 63 1 0 }) cl k f pg

/-- Copy page `pg` of a relocation and advance MOVED (spec/10 R242). -/
def movePage (s : State) (cl : Nat) (k : Cmd) (pg : Nat) : State :=
  let m := slabOf k.map.toNat
  let new := bits k.blk.toNat 64 52
  let src := m.base + pg * m.pstride
  let dst := new + pg * m.pstride
  match relocRead s k.c src m.pstride with
  | .wait => s
  | .flt _ f => relocFault s cl k f pg
  | .ok s sp => match resolveBy false s (Acc.store k.c 7 0 0) (wd dst) m.pstride with
    | .wait => s
    | .flt _ f => relocFault s cl k f pg
    | .ok s dp =>
      let s := engWrite s cl k.c (k.at_ cl) (wd dst) dp (readPieces s sp)
      let s := carryPoison s sp dp
      let s := s.modCluster cl fun x => { x with fwdStat := putField x.fwdStat 32 17 (pg + 1) }
      putCmd s cl { k with e := pg + 1 }

/-- RELOCATION_PAGE_MOVED: the next page of a running relocation has been copied (spec/10 R242). -/
def execRelocationPageMoved (cl id : Nat) (s : State) : Out3 :=
  match (s.cluster cl).cmd id with
  | none => .next s
  | some k =>
    if k.op == .cpyrel && k.phase == .running && k.ready && decide (k.e < 2 ^ (slabOf k.map.toNat).logp) then
      .next (progress (movePage s cl k k.e) cl)
    else .next s

/-- A started command has read bytes of the slab map entry at `map` as data: what it reads at its start, or a part of the box of a
copy. -/
def readsAt (j : Cmd) (map : Nat) : Bool :=
  j.data.any (fun r => overlap r.1 r.2 map 16) ||
  match j.op with
  | .cpy | .cpyq =>
    let k := copyBlk j.blk.toNat
    let n := j.e + j.ahead.length
    k.sspace == 0 && (overlap (k.srcAt n).toNat j.part.length map 16 ||
      (List.range n).any fun e => overlap (k.srcAt e).toNat ((k.sf.width + 7) / 8) map 16)
  | .cpyrel | .kvapp | .kvsel | .kvatt | .kvpre | .selact => false

/-- The command has read the slab map entry at `map` as its own. -/
def Cmd.mapsFrom (j : Cmd) (map : Nat) : Bool :=
  match j.op with
  | .kvapp | .kvsel | .kvatt | .kvpre => (j.mapped || j.ready) && bits j.blk.toNat 0 52 == map
  | .cpy | .cpyq | .cpyrel | .selact => false

/-- The commands that have read the slab map entry of a relocation and not completed (spec/12 R285): the four engines' own, no kiln
program that has read it, whose start the copy engine only queues (DESIGN CHOICE, log 60). -/
def readersOf (x : Cluster) (k : Cmd) : List Nat :=
  let map := bits k.blk.toNat 0 52
  (x.cmds.filter fun j => j.id != k.id && j.live && (j.mapsFrom map || readsAt j map)).map (·.id)

/-- The relocation goes to stage `e` of its writes to the slab map entry. -/
def mapStage (s : State) (cl : Nat) (k : Cmd) (e : Nat) : State :=
  putCmd s cl { k with e := e, readers := readersOf (s.cluster cl) k }

/-- A relocation raises LOGP in its slab map entry, by an atomic that keeps PAGES and PSTRIDE (spec/10 R242): the base die
performs it, and every cluster's watchpoints see it (spec/14 R319). -/
def raiseLogp (s : State) (cl : Nat) (k : Cmd) : State :=
  let m := slabOf k.map.toNat
  let a := wd (bits k.blk.toNat 0 52 + 8)
  match resolveBy false s ⟨k.c, 7, 2, true, true, false, 0⟩ a 4 with
  | .wait => s
  | .flt _ f => relocFault s cl k f (2 ^ m.logp)
  | .ok s ps => match atomicRefused true a 0 ps with
    | some f => relocFault s cl k f (2 ^ m.logp)
    | none =>
      let v := putField (BitVec.ofNat 32 (leNat (readPieces s ps))) 0 5 (m.logp + 1)
      let s := foldWatch (writePieces s (k.at_ cl) ps (leBytes 4 v.toNat)) cl k.c (k.at_ cl) a ps
      mapStage s cl k (2 ^ m.logp + 1)

/-- A relocation releases BASE in its slab map entry (spec/10 R242). -/
def releaseBase (s : State) (cl : Nat) (k : Cmd) : State :=
  let m := slabOf k.map.toNat
  let a := wd (bits k.blk.toNat 0 52)
  match resolveBy false s (Acc.store k.c 7 2 0) a 8 with
  | .wait => s
  | .flt _ f => relocFault s cl k f (2 ^ m.logp)
  | .ok s ps =>
    mapStage (engWrite s cl k.c (k.at_ cl) a ps (leBytes 8 (bits k.blk.toNat 64 52))) cl k (2 ^ m.logp + 2)

/-- RELOCATION_FINISH: once every page has moved, LOGP is raised, then BASE is released; once the commands that read the
entry before that have completed, ACTIVE clears and the CPYREL completes (spec/10 R242, spec/12 R285). -/
def execRelocationFinish (cl id : Nat) (s : State) : Out3 :=
  match (s.cluster cl).cmd id with
  | none => .next s
  | some k =>
    let m := slabOf k.map.toNat
    let n := 2 ^ m.logp
    if k.op != .cpyrel || k.phase != .running || k.e < n then .next s
    else if k.e = n then .next (raiseLogp s cl k)
    else if k.e = n + 1 then .next (releaseBase s cl k)
    else if (s.cluster cl).cmds.any fun j => k.readers.contains j.id && j.live then .next s
    else
      let s := s.modCluster cl fun x => { x with fwdStat := putField x.fwdStat 63 1 0 }
      .next (finishCmd s cl k)

/-! ## Delivery of faults -/

/-- ENGINE_FAULT: the oldest fault of a cluster's engines and kiln reaches its issuer (spec/21 R375). -/
def execEngineFault (cl : Nat) (s : State) : Out3 :=
  match (s.cluster cl).flts with
  | [] => .next s
  | e :: r => .next (takeEngineFault (s.modCluster cl fun x => { x with flts := r }) e)

end Sys2Proof.Machine
end

