-- ==== Sys2Proof/Machine/Kiln.lean ====
section
/-! DEFINITION. The kiln (spec/13 R291-R302, spec/10 R246, spec/21 R391): its starts, its words, the cluster token
counters. -/

namespace Sys2Proof.Machine

/-! ## Starts -/

/-- The kiln's position (spec/14 R304). -/
def kilnPos (s : State) (cl : Nat) : Word := posEng cl 9 (s.cluster cl).knHead

/-- Push the completion tokens of kiln programs that find room. -/
def pushKiln (cl : Nat) : List (Nat × Nat × Word) → State → State
  | [], s => s
  | (c, q, w) :: r, s =>
    if (s.ctx c).retired || tokenRoom (s.ctx c) q 1 then pushKiln cl r (pushTo s c q 1 w)
    else
      let s := pushKiln cl r s
      s.modCluster cl fun x => { x with kpush := (c, q, w) :: x.kpush }

/-- Push what completion tokens of kiln programs can be pushed. -/
def pushKilns (s : State) (cl : Nat) : State :=
  let l := (s.cluster cl).kpush
  pushKiln cl l (s.modCluster cl fun x => { x with kpush := [] })

/-- Take the input tokens that the queued starts can take, in their order (spec/10 R234). -/
def feedStarts (cl : Nat) : List KStart → State → State
  | [], s => s
  | k :: r, s =>
    if k.tw = 15 || !mayStart s cl k.c then feedStarts cl r s
    else match feed s cl k.c k.tw k.id (kilnPos s cl) k.since with
      | .no => feedStarts cl r s
      | .off s => s
      | .ok s => feedStarts cl r (s.modCluster cl fun x =>
          { x with starts := replaceWhere (fun j => j.id == k.id) (fun j => { j with tw := 15 }) x.starts })

/-- The program state at a start (spec/13 R291). -/
def kilnInit (k : KStart) : KRun where
  blkAddr := k.blkAddr
  c := k.c
  pos := k.pos
  ts := k.ts
  pc := bits k.blk.toNat 64 12
  g := Vector.ofFn fun i : Fin 16 => if i.val < 6 then wd (bits k.blk.toNat (128 + 64 * i.val) 64) else 0
  loops := []
  cfg := 0
  sr := lfsrStart 1
  loading := bits k.blk.toNat 89 1 == 1
  blk := k.blk
  wait := none

/-- KILN_START: the kiln takes the next start of its queue that waits for no token, where it runs no program (spec/10
R234, R246, spec/13 R291); a start that waits for its token holds no later one up, as R234 says of commands, where R246 speaks
of the queue's order (DESIGN CHOICE, log 52). A resumed team's ranges are loaded first (spec/13 R302). -/
def execKilnStart (cl : Nat) (s : State) : Out3 :=
  let s := pushKilns s cl
  let s := feedStarts cl (s.cluster cl).starts s
  let x := s.cluster cl
  match x.run, pickFirst (fun k : KStart => k.tw == 15 && x.reload.isEmpty && mayStart s cl k.c) x.starts with
  | none, some (k, rest) =>
    .next (progress (s.setCluster cl { x with starts := rest, run := some (kilnInit k) }) cl)
  | _, _ => .next s

/-- A kiln program ends in a fault: FR_INFO holds its PC, its token is not pushed (spec/21 R376, R391). -/
def kilnFail (s : State) (cl : Nat) (r : KRun) (f : Flt) : State :=
  let e : EngFlt := ⟨{ f with info := wd (r.pc % 4096) }, r.c, 0, kilnPos s cl⟩
  progress (s.modCluster cl fun x => { x with run := none, flts := x.flts ++ [e] }) cl

/-- Write `bs` as instruction words from word `o`. -/
def imemPut : Nat → List Byte → FMap W32 → FMap W32
  | o, a :: b :: c :: d :: r, m => imemPut (o + 1) r (FMap.insert m o (BitVec.ofNat 32 (leNat [a, b, c, d])))
  | _, _, m => m

/-- Load `n` words from `a` to word `o`: the words that were loaded, and what stopped the load. -/
def loadWords (cl c : Nat) : Nat → Nat → Nat → State → State × Nat × Option (Option Flt)
  | 0, _, _, s => (s, 0, none)
  | n + 1, a, o, s =>
    match resolve s (Acc.load c 11 0 0) (wd a) 4 with
    | .wait => (s, 0, some none)
    | .flt _ f => (s, 0, some (some f))
    | .ok s ps =>
      let bs := readPieces s ps
      let s := s.modCluster cl fun x => { x with imem := imemPut o bs x.imem }
      let (s, k, stop) := loadWords cl c n (a + 4) (o + 1) s
      (s, k + 1, stop)

/-- The marks of the 8-byte words of kiln memory that a load covers whole are cleared, and the load is noted for a
later resumption (spec/21 R393, spec/13 R302). -/
def noteLoad (s : State) (cl off n : Nat) (prog : Word) (c : Nat) : State :=
  if n = 0 then s
  else
    let s := s.modCluster cl fun x => { x with imemBad := clearMarks x.imemBad 8 (4 * off) (4 * n) }
    modTeam s cl fun t => { t with loads := t.loads ++ [(off, n, prog, c)] }

/-- Reload the ranges of kiln memory that a resumed team's starts loaded, in order, as far as no read waits (spec/13 R302). A
word that cannot be read keeps its saved value (DEDUCED, log 50). -/
def reloadKiln (cl : Nat) : List (Nat × Nat × Word × Nat) → State → State
  | [], s => s.modCluster cl fun x => { x with reload := [] }
  | e :: r, s =>
    match loadWords cl e.2.2.2 e.2.1 e.2.2.1.toNat e.1 s with
    | (_, _, some none) => s.modCluster cl fun x => { x with reload := e :: r }
    | (t, n, _) => reloadKiln cl r (t.modCluster cl fun x => { x with imemBad := clearMarks x.imemBad 8 (4 * e.1) (4 * n) })

/-- KILN_LOAD_COMPLETE: the image of a start has been read and the program begins, or the load has met a fault (spec/10
R246); before that, the ranges of a resumed team have been read (spec/13 R302). -/
def execKilnLoadComplete (cl : Nat) (s : State) : Out3 :=
  let s := if (s.cluster cl).reload.isEmpty then s else reloadKiln cl (s.cluster cl).reload s
  match (s.cluster cl).run with
  | none => .next s
  | some r =>
    if !r.loading || !(s.cluster cl).reload.isEmpty then .next s
    else
      let b := r.blk.toNat
      let off := bits b 64 12
      let prog := bits b 0 52
      let old := s
      let (s, n, stop) := loadWords cl r.c (bits b 76 13) prog off s
      match stop with
      | some none => .next old
      | some (some f) => .next (kilnFail (noteLoad s cl off n (wd prog) r.c) cl r f)
      | none =>
        .next (progress ((noteLoad s cl off n (wd prog) r.c).modCluster cl fun x =>
          { x with run := some { r with loading := false } }) cl)

/-! ## Words -/

/-- The kiln may execute its next word: a program runs, is loaded, and its context's scope is not stopped (spec/14
R307, spec/03 R64). -/
def kilnRuns (s : State) (cl : Nat) : Bool :=
  match (s.cluster cl).run, (s.cluster cl).team with
  | some r, some t =>
    !r.loading && (s.cluster cl).reload.isEmpty && t.held.isNone && t.saving.isNone && !(s.ctx r.c).stopped && !(s.die (dieOfCluster cl)).inReset
  | _, _ => false

/-- What fetching a kiln word comes to. -/
inductive KFetch where
  | word (w : Nat)
  | flt (f : Flt)

/-- The word at a PC of the instruction memory (spec/13 R291, R294, spec/21 R393). A program that runs past word 4,095 completes that
word, and faults at the fetch behind it; FR_INFO shows the PC modulo 4,096, which is 0 (`kilnFail`; DESIGN CHOICE, log 55). -/
def kilnFetch (x : Cluster) (pc : Nat) : KFetch :=
  if 4096 ≤ pc then .flt ⟨0x2D, 3, 0, 0⟩
  else if x.imemBad.contains (pc / 2) then .flt ⟨0x2F, 11 + 16 * 4, wd (4 * pc), 0⟩
  else .word (FMap.find x.imem pc 0).toNat

/-- Run a meaning on the kiln whose turn it is: a malformed word is a kiln illegal instruction (spec/13 R293). -/
def kilnDo (i : Instr) (body : Nat → KRun → State → Out3) (s : State) : Out3 :=
  onKiln s fun cl => match (s.cluster cl).run with
    | none => .next s
    | some r => if !i.wf then .next (kilnFail s cl r ⟨0x2D, 1, 0, 0⟩) else body cl r s

/-- The word completes and the program goes on at `pc` (spec/14 R303). -/
def kilnTo (s : State) (cl : Nat) (r : KRun) (pc : Nat) : State :=
  progress (s.modCluster cl fun x => { x with run := some { r with pc := pc, wait := none }, knHead := x.knHead + 1 }) cl

/-- The word completes. -/
def kilnNext (s : State) (cl : Nat) (r : KRun) : State := kilnTo s cl r (r.pc + 1)

/-- A word whose whole effect is on the program's registers. -/
def kilnReg (i : Instr) (f : KRun → KRun) (s : State) : Out3 :=
  kilnDo i (fun cl r s => .next (kilnNext s cl (f r))) s

/-- Write a general register. -/
def KRun.put (r : KRun) (d : GReg) (v : Word) : KRun := { r with g := r.g.set d v }

/-- XNOP (spec/13 R294). -/
def execXnop (s : State) : Out3 := kilnReg .xnop id s

/-- The word after the XEND that matches, from `pc` and before word 4,095, or the fault of the search: no such word, or a damaged one
before it (spec/21 R393). `depth` counts nested XLOOPs. A word is told by its opcode (DEDUCED, log 35). -/
def skipLoop (x : Cluster) : Nat → Nat → Nat → Sum Nat Flt
  | 0, _, _ => .inr ⟨0x2D, 2, 0, 0⟩
  | n + 1, pc, depth => match kilnFetch x pc with
    | .flt f => .inr f
    | .word w => match fld w 24 8 with
      | 0x01 => skipLoop x n (pc + 1) (depth + 1)
      | 0x02 => match depth with
        | 0 => .inl (pc + 1)
        | d + 1 => skipLoop x n (pc + 1) d
      | _ => skipLoop x n (pc + 1) depth

/-- XLOOP with its count (spec/13 R295). -/
def kilnLoop (cnt : W32) (cl : Nat) (r : KRun) (s : State) : Out3 :=
  if cnt = 0 then
    match skipLoop (s.cluster cl) (4094 - r.pc) (r.pc + 1) 0 with
    | .inl pc => .next (kilnTo s cl r pc)
    | .inr f => .next (kilnFail s cl r f)
  else if 4 ≤ r.loops.length then .next (kilnFail s cl r ⟨0x2D, 2, 0, 0⟩)
  else .next (kilnNext s cl { r with loops := (r.pc + 1, cnt) :: r.loops })

/-- XLOOP with an immediate count. -/
def execXloopImm (i : BitVec 12) (s : State) : Out3 := kilnDo (.xloopImm i) (kilnLoop (i.zeroExtend 32)) s

/-- XLOOP with the count in a register. -/
def execXloopReg (a : GReg) (s : State) : Out3 :=
  kilnDo (.xloopReg a) (fun cl r s => kilnLoop (r.g[a].truncate 32) cl r s) s

/-- XEND (spec/13 R295). -/
def execXend (s : State) : Out3 :=
  kilnDo .xend (fun cl r s => match r.loops with
    | [] => .next (kilnFail s cl r ⟨0x2D, 2, 0, 0⟩)
    | (start, left) :: rest =>
      if left - 1 = 0 then .next (kilnNext s cl { r with loops := rest })
      else .next (kilnTo s cl { r with loops := (start, left - 1) :: rest } start)) s

/-- XLI (spec/13 R294). -/
def execXli (d : GReg) (i : BitVec 16) (s : State) : Out3 :=
  kilnReg (.xli d i) (fun r => r.put d (i.signExtend 64)) s

/-- XADDI. -/
def execXaddi (d a : GReg) (i : BitVec 12) (s : State) : Out3 :=
  kilnReg (.xaddi d a i) (fun r => r.put d (r.g[a] + i.signExtend 64)) s

/-- XADDR. -/
def execXaddr (d a b : GReg) (sh : BitVec 6) (s : State) : Out3 :=
  kilnReg (.xaddr d a b sh) (fun r => r.put d (r.g[a] + (r.g[b] <<< sh.toNat))) s

/-- Resolve a kiln access and go on with its pieces; a fault ends the program (spec/13 R294, spec/21 R391). It is routed as an
access of the cluster's cores and engines is, where spec/05 R116 does not name the kiln among them (DESIGN CHOICE, log 55). Where the access
waits, the word has done nothing yet: the state is that before the word, `old`. -/
def kilnAcc (old : State) (cl : Nat) (r : KRun) (a : Acc) (addr : Word) (n : Nat) (s : State)
    (f : State → List (Loc × Nat) → Out3) : Out3 :=
  match resolve s a addr n with
  | .wait => .next old
  | .flt _ e => .next (kilnFail s cl r e)
  | .ok s ps => f s ps

/-- XLD (spec/13 R294): `lg` is the size as log2. -/
def kilnLoad (d a : GReg) (lg : Nat) (cl : Nat) (r : KRun) (s : State) : Out3 :=
  kilnAcc s cl r (Acc.load r.c 11 lg 0) r.g[a] (2 ^ lg) s fun s ps =>
    .next (kilnNext s cl (r.put d (wd (leNat (readPieces s ps)))))

/-- XLD.W. -/
def execXldW (d a : GReg) (s : State) : Out3 := kilnDo (.xldW d a) (kilnLoad d a 2) s
/-- XLD.D. -/
def execXldD (d a : GReg) (s : State) : Out3 := kilnDo (.xldD d a) (kilnLoad d a 3) s

/-- A value that CFG may take (spec/13 R292). -/
def cfgOk (v : Word) : Bool := bits v.toNat 48 16 == 0 && bits v.toNat 23 9 == 0 && decide (bits v.toNat 20 3 < 5)

/-- XCFG (spec/13 R292). -/
def execXcfg (a : GReg) (s : State) : Out3 :=
  kilnDo (.xcfg a) (fun cl r s =>
    let v := r.g[a]
    if cfgOk v then .next (kilnNext s cl { r with cfg := v, sr := lfsrStart (wd (bits v.toNat 32 16)) })
    else .next (kilnFail s cl r ⟨0x2D, 1, 0, 0⟩)) s

/-! ## Moves and conversions -/

/-- XMOVE of `n` eight-byte words, from word `k` on (spec/13 R294, R298). A source byte that an earlier word of it has written is
read before or after that write, freely; one that a later word writes is read before it (DESIGN CHOICE, log 10). -/
def moveWords (old : State) (cl : Nat) (r : KRun) (src dst : Word) : Nat → Nat → State → Out3
  | 0, _, s => .next (kilnNext s cl r)
  | n + 1, k, s =>
    let da := dst + wd (8 * k)
    kilnAcc old cl r (Acc.load r.c 11 3 0) (src + wd (8 * k)) 8 s fun s sp =>
      kilnAcc old cl r (Acc.store r.c 11 3 0) da 8 s fun s dp =>
        let (s, bs) := readMixed old s sp
        moveWords old cl r src dst n (k + 1) (engWrite s cl r.c (kilnPos s cl) da dp bs)

/-- XMOVE. -/
def execXmove (d a : GReg) (i : BitVec 12) (s : State) : Out3 :=
  kilnDo (.xmove d a i) (fun cl r s => moveWords s cl r r.g[a] r.g[d] i.toNat 0 s) s

/-- Read an image of `n` bytes at gA and write the image of `m` bytes that `f` makes of it at gD, both 64-byte aligned;
`f` may answer a fault, and then nothing is written (spec/13 R294, R297). Where the two images overlap, the whole source is read
before anything is written (R298 allows either of each byte: DESIGN CHOICE, log 10). An access fault of the
destination is reported before what `f` finds (the spec gives no order: DESIGN CHOICE, log 60). -/
def kilnImage (d a : GReg) (n m : Nat) (f : Nat → Sum (List Byte) Flt) (cl : Nat) (r : KRun) (s : State) : Out3 :=
  let old := s
  kilnAcc old cl r (Acc.load r.c 11 6 0) r.g[a] n s fun s sp =>
    kilnAcc old cl r (Acc.store r.c 11 6 0) r.g[d] m s fun s dp =>
      match f (leNat (readPieces s sp)) with
      | .inr e => .next (kilnFail s cl r e)
      | .inl bs => .next (kilnNext (engWrite s cl r.c (kilnPos s cl) r.g[d] dp bs) cl r)

/-- A tile image transposed (spec/05 R107). -/
def imageXpose (x n : Nat) : Sum (List Byte) Flt :=
  let (p, b) := xposeBy x (ofImage n)
  .inl (leBytes 4352 (imageNat p b))

/-- XMOVE.B8. -/
def execXmoveB8 (d a : GReg) (s : State) : Out3 := kilnDo (.xmoveB8 d a) (kilnImage d a 4352 4352 (imageXpose 1)) s
/-- XMOVE.B16. -/
def execXmoveB16 (d a : GReg) (s : State) : Out3 := kilnDo (.xmoveB16 d a) (kilnImage d a 4352 4352 (imageXpose 2)) s

/-- XPACK (spec/13 R297, spec/05 R113). -/
def execXpack (d a : GReg) (s : State) : Out3 :=
  kilnDo (.xpack d a) (fun cl r s =>
    let f := fmtCode (bits r.cfg.toNat 0 4)
    if !f.isMx then .next (kilnFail s cl r ⟨0x2D, 4, 0, 0⟩)
    else kilnImage d a 4352 4288 (fun n =>
      let (p, b) := ofImage n
      match packTile f p b with
      | some bs => .inl bs
      | none => .inr ⟨0x29, 5, r.blkAddr, 0⟩) cl r s) s

/-- The format byte of a packed image names an MX format. -/
def packedFmt (n : Nat) : Option Fmt :=
  match Fmt.ofCode (bits n (8 * 4097) 8) with
  | some f => if f.isMx then some f else none
  | none => none

/-- XUNPACK (spec/13 R297, spec/07 R416). -/
def execXunpack (d a : GReg) (s : State) : Out3 :=
  kilnDo (.xunpack d a) (fun cl r s => kilnImage d a 4288 4352 (fun n =>
    match packedFmt n with
    | none => .inr ⟨0x2D, 6, r.g[a], 0⟩
    | some f =>
      if packedOk f n then
        let (p, b) := expandTile f n
        .inl (leBytes 4352 (imageNat p b))
      else .inr ⟨0x29, 6, r.blkAddr, 0⟩) cl r s) s

/-- Elements that XCONV reads and writes together (spec/13 R296). -/
def convStep (sf df : Fmt) : Nat :=
  if sf.isMx || df.isMx then 32 else if sf.width = 4 || df.width = 4 then 2 else 1

/-- The rule of spec/13 R296 on formats and counts. -/
def xconvOk (cfg : Word) (n : Nat) : Bool :=
  let a := bits cfg.toNat 0 4
  let b := bits cfg.toNat 4 4
  decide (a ≤ 10) && decide (b ≤ 10) && n % convStep (fmtCode a) (fmtCode b) == 0

/-- The values of a unit's source bytes. -/
def unitValues (sf : Fmt) (n : Nat) (bs : List Byte) : List Num :=
  let v := leNat bs
  (List.range n).map fun j => scaledNum sf (bits v (32 * sf.width) 8) (bits v (sf.width * j) sf.width)

/-- Convert units from element `e` on: up to `n` of them (spec/13 R296). A source byte that an earlier unit has written is read before
or after that write, freely; one that a later unit writes is read before it (R298; DESIGN CHOICE, log 10). At a fault of
the conversion nothing of its granule and of later elements is written (spec/21 R380 lets each be written or not: DESIGN CHOICE, log
60). -/
def convFrom (old : State) (cl : Nat) (src dst : Word) (sf df : Fmt) (pol rnd : Nat) :
    Nat → Nat → KRun → State → Out3
  | 0, _, r, s => .next (kilnNext s cl r)
  | n + 1, e, r, s =>
    let u := convStep sf df
    let da := dst + wd (denseBytes df e)
    kilnAcc old cl r (Acc.load r.c 11 0 0) (src + wd (denseBytes sf e)) (denseBytes sf u) s fun s sp =>
      let (s, bs) := readMixed old s sp
      let (rms, sr) := drawModes rnd u r.sr
      let c := convUnit df pol rms 0 (unitValues sf u bs)
      match c.bad with
      | none =>
        let out := unitBytes df c
        kilnAcc old cl r (Acc.store r.c 11 0 0) da out.length s fun s dp =>
          convFrom old cl src dst sf df pol rnd n (e + u) { r with sr := sr } (engWrite s cl r.c (kilnPos s cl) da dp out)
      | some (j, d) =>
        let f : Flt := ⟨0x29, d, r.blkAddr, 0⟩
        if df.isMx || j = 0 then .next (kilnFail s cl r f)
        else
          let m := (j * df.width + 7) / 8
          kilnAcc old cl r (Acc.store r.c 11 0 0) da m s fun s dp =>
            let was := leNat (readPieces s dp)
            let v := packList df.width (c.bits_.take j) + (was >>> (j * df.width)) * 2 ^ (j * df.width)
            .next (kilnFail (engWrite s cl r.c (kilnPos s cl) da dp (leBytes m v)) cl r f)

/-- XCONV (spec/13 R296). -/
def execXconv (d a : GReg) (i : BitVec 12) (s : State) : Out3 :=
  kilnDo (.xconv d a i) (fun cl r s =>
    let v := r.cfg.toNat
    let sf := fmtCode (bits v 0 4)
    let df := fmtCode (bits v 4 4)
    if !xconvOk r.cfg i.toNat then .next (kilnFail s cl r ⟨0x2D, 4, 0, 0⟩)
    else convFrom s cl r.g[a] r.g[d] sf df (bits v 8 8) (bits v 20 3) (i.toNat / convStep sf df) 0 r s) s

/-! ## Cluster token counters -/

/-- A counter of a cluster. -/
def Cluster.counter (x : Cluster) (n : Nat) : Ct := vget x.ct n ⟨[], none⟩

/-- Change a counter. -/
def modCt (s : State) (cl n : Nat) (f : Ct → Ct) : State :=
  s.modCluster cl fun x => { x with ct := vput x.ct n (f (x.counter n)) }

/-- XBIND (spec/13 R299). -/
def execXbind (a : GReg) (q : Fin 16) (n : Fin 32) (s : State) : Out3 :=
  kilnDo (.xbind a q n) (fun cl r s =>
    let p := r.g[a].toNat
    let size := match (s.cluster cl).team with
      | some t => t.size
      | none => 0
    if p < 256 && p < size then .next (kilnNext (modCt s cl n.val fun t => { t with bind := some (p, q.val) }) cl r)
    else .next (kilnFail s cl r ⟨0x2D, 5, 0, 0⟩)) s

/-- XUNBIND. -/
def execXunbind (n : Fin 32) (s : State) : Out3 :=
  kilnDo (.xunbind n) (fun cl r s => .next (kilnNext (modCt s cl n.val fun t => { t with bind := none }) cl r)) s

/-- XSIG pushes on the counter, or on the queue it is bound to, once there is room (spec/13 R300). -/
def execXsig (c : BitVec 6) (n : Fin 32) (s : State) : Out3 :=
  kilnDo (.xsig c n) (fun cl r s =>
    let t := (s.cluster cl).counter n.val
    let who := kilnPos s cl
    match t.bind with
    | none =>
      if 63 < t.pushers.length + c.toNat then .next s
      else .next (kilnNext (modCt s cl n.val fun t => { t with pushers := t.pushers ++ List.replicate c.toNat who }) cl r)
    | some (p, q) =>
      let k := ctxOfParcel cl p
      if (s.ctx k).retired || tokenRoom (s.ctx k) q c.toNat then .next (kilnNext (pushTo s k q c.toNat who) cl r)
      else .next s) s

/-- The kiln's word waits as `w` says. -/
def kilnStands (s : State) (cl : Nat) (r : KRun) (w : Wait) : State :=
  s.modCluster cl fun x => { x with run := some { r with wait := some w } }

/-- A kiln wait begins or goes on (spec/14 R311). -/
def kilnWait (s : State) (cl n m : Nat) (r : KRun) : State :=
  if r.wait.any Wait.logged then s else kilnStands s cl r ⟨6, n, m, 0, s.cycle, true⟩

/-- An XWAIT that has its tokens waits for its turn in replay (spec/14 R324, spec/22 R398). -/
def kilnHeld (s : State) (cl : Nat) (r : KRun) : State :=
  if r.wait.isSome then s else kilnStands s cl r ⟨15, 0, 0, 0, s.cycle, false⟩

/-- XWAIT has its tokens, pushed by `ps`: `f` takes them (spec/14 R311, R321, R324). -/
def kilnTake (s : State) (cl : Nat) (r : KRun) (ps : List Word) (f : State → State) : Out3 :=
  let pos := kilnPos s cl
  match recGate s cl pos (setterOf ps) 0 with
  | .hold => .next (kilnHeld s cl r)
  | .diverge d q v => .next (divergeAt s r.c 0 pos 0x43 d q v)
  | .go _ =>
    let s := logWait s (dieOfCluster cl) pos (setterOf ps) r.wait 0 true
    .next (syncEvent (kilnNext (f s) cl r) r.c 0 pos (setterOf ps) 0 (wd ps.length))

/-- XWAIT takes from the counter, or from the queue it is bound to, after every engine command that waits there (spec/13
R300, spec/09 R204). A counter bound to a parcel that has retired has no queue to take from: the XWAIT goes on and takes nothing
(DESIGN CHOICE, log 55). -/
def execXwait (c : BitVec 6) (n : Fin 32) (s : State) : Out3 :=
  kilnDo (.xwait c n) (fun cl r s =>
    let x := s.cluster cl
    let t := x.counter n.val
    let m := c.toNat
    match t.bind with
    | none =>
      if t.pushers.length < m then .next (kilnWait s cl n.val m r)
      else kilnTake s cl r (t.pushers.take m) fun s =>
        modCt s cl n.val fun t => { t with pushers := t.pushers.drop m }
    | some (p, q) =>
      let k := ctxOfParcel cl p
      if (s.ctx k).retired then .next (kilnNext s cl r)
      else match takeTokens (s.ctx k) q m (kilnPos s cl) with
      | none => .next (kilnWait s cl n.val m r)
      | some (ps, y) =>
        if earlierInput x k q x.nextCmd || !turnToTake s k 4 q then .next (kilnWait s cl n.val m r)
        else kilnTake s cl r ps fun s => s.setCtx k { s.ctx k with tq := y.tq, taker := y.taker }) s

/-- XHALT ends the program; its token is pushed once there is room (spec/13 R301). -/
def execXhalt (s : State) : Out3 :=
  kilnDo .xhalt (fun cl r s =>
    let who := kilnPos s cl
    let s := s.modCluster cl fun x => { x with
      run := none
      knHead := x.knHead + 1
      kpush := if r.ts = 15 then x.kpush else x.kpush ++ [(r.c, r.ts, who)] }
    .next (progress (pushKilns s cl) cl)) s

/-- A word of no kiln instruction (spec/13 R293). -/
def kilnIllegal (s : State) (cl : Nat) : State :=
  match (s.cluster cl).run with
  | none => s
  | some r => kilnFail s cl r ⟨0x2D, 1, 0, 0⟩

end Sys2Proof.Machine
end

