-- ==== Sys2Proof/Machine/Launch.lean ====
section
/-! DEFINITION. The kernel header and its checks (spec/03 R40-R45), the launch queues (R47, R52, R54) and LAUNCH
(spec/09 R211). -/

namespace Sys2Proof.Machine

/-! ## The kernel header -/

/-- Contexts per core (spec/03 R44). -/
def ctxPerCore (subsoil : Nat) : Nat := if subsoil = 0 then 4 else min 4 (120 / subsoil)

/-- A kernel header as numbers (spec/03 R40). -/
structure Header where
  version : Nat
  idem : Bool
  record : Bool
  preempt : Bool
  xregs : Nat
  subsoil : Nat
  tickets : Nat
  team : Nat
  cmem : Nat
  bedrock : Nat
  /-- KOFF, LOFF, COFF, SOFF. -/
  koff : Nat
  loff : Nat
  coff : Nat
  soff : Nat
  trapOff : Nat
  /-- LOOP0 to LOOP3. -/
  rows : List Nat
  deriving DecidableEq, Repr

/-- Read a header's fields (spec/03 R40). -/
def Header.ofBits (h : Nat) : Header where
  version := bits h 0 8
  idem := bits h 8 1 == 1
  record := bits h 9 1 == 1
  preempt := bits h 10 1 == 1
  xregs := bits h 16 7
  subsoil := bits h 24 7
  tickets := bits h 32 11
  team := bits h 48 9
  cmem := bits h 64 25
  bedrock := bits h 96 32
  koff := bits h 128 32
  loff := bits h 160 32
  coff := bits h 192 32
  soff := bits h 224 32
  trapOff := bits h 256 32
  rows := [bits h 288 32, bits h 320 32, bits h 352 32, bits h 384 32]

/-- The header of a launch. -/
def Launch.header (l : Launch) : Header := Header.ofBits l.hdr.toNat

/-- EXTENT of a loop row (spec/03 R41). -/
def rowExtent (r : Nat) : Nat := bits r 0 16

/-- KIND of a loop row: 0 unused, 1 T, 2 C, 3 D (spec/03 R41). -/
def rowKind (r : Nat) : Nat := bits r 16 2

/-- The rows obey R41: an unused row has EXTENT zero, a used one has not, and no used row follows an unused one. -/
def rowsOk : Bool → List Nat → Bool
  | _, [] => true
  | unused, r :: rest =>
    if rowKind r = 0 then rowExtent r == 0 && rowsOk true rest
    else !unused && rowExtent r != 0 && rowsOk false rest

/-- Product of the extents of the levels of one kind, 1 where there is none (spec/03 R45). -/
def product (kind : Nat) (rows : List Nat) : Nat :=
  rows.foldl (fun n r => if rowKind r = kind then n * rowExtent r else n) 1

/-- The team count of a header (spec/03 R45). -/
def Header.teams (h : Header) : Nat := product 3 h.rows

/-- Some reserved field of a header is set (spec/03 R40, R41). -/
def reservedSet (h : Nat) : Bool :=
  bits h 11 5 != 0 || bits h 23 1 != 0 || bits h 31 1 != 0 || bits h 43 5 != 0 || bits h 57 7 != 0 ||
    bits h 89 7 != 0 || bits h 416 96 != 0 || bits h 306 14 != 0 || bits h 338 14 != 0 || bits h 370 14 != 0 ||
    bits h 402 14 != 0

/-- The first check of R42 that a header fails, by its number in the list; 0 where it passes (spec/03 R42, spec/20
R357). -/
def headerFails (n : Nat) : Nat :=
  let h := Header.ofBits n
  if h.version ≠ 1 then 1
  else if reservedSet n then 2
  else if 64 < h.xregs || 96 < h.subsoil || 16777216 < h.cmem then 3
  else if h.tickets = 0 || 1024 < h.tickets then 4
  else if h.koff % 4 ≠ 0 || h.loff % 4 ≠ 0 || h.coff % 4 ≠ 0 || h.soff % 4 ≠ 0 || h.trapOff % 4 ≠ 0 then 5
  else if !rowsOk false h.rows then 6
  else if h.team ≠ product 2 h.rows then 7
  else if 64 * ctxPerCore h.subsoil < h.team then 8
  else if 2 ^ 24 < h.teams then 9
  else 0

/-- The size of a parcel's bedrock region (spec/04 R77). -/
def Header.region (h : Header) : Nat := (h.bedrock + 4352 * h.subsoil + 69632 + 4095) / 4096 * 4096

/-- The share of each cluster in a die's bedrock pool, in bytes (spec/04 R77). -/
def shareOf (x : Die) : Nat := bits x.brLen.toNat 0 20 / 16 * 2 ^ 20

/-- The x registers of an allocation (spec/03 R43). -/
def allocated (xregs : Nat) : Nat := if xregs = 0 then 8 else (xregs + 7) / 8 * 8

/-- The index of a linear index at each level of one kind, the lowest level fastest (spec/03 R45). -/
def indexAt (kind : Nat) : Nat → List Nat → List Nat
  | _, [] => []
  | v, r :: rest =>
    if rowKind r = kind then v % rowExtent r :: indexAt kind (v / rowExtent r) rest else 0 :: indexAt kind v rest

/-- The indices of a parcel at the four levels: its own for C, its team's for D, 0 for T and unused levels (spec/03
R46). -/
def loopIndices (rows : List Nat) (c t : Nat) : List Nat :=
  List.zipWith (fun a b => a + b) (indexAt 2 c rows) (indexAt 3 t rows)

/-! ## Launch queues -/

/-- Unplaced teams of a queue. -/
def LQueue.count (q : LQueue) : Nat := q.ents.foldl (fun n e => n + e.n) 0

/-- A comes before b as passes compare: by the sign of their 64-bit difference (spec/03 R54). -/
def passLt (a b : Word) : Bool := decide ((a - b).toInt < 0)

/-- The larger of two passes. -/
def passMax (a b : Word) : Word := if passLt a b then b else a

/-- Change a queue of a die. -/
def Die.modQ (x : Die) (q : Nat) (f : LQueue → LQueue) : Die :=
  { x with q := vput x.q q (f (vget x.q q ⟨16, 0, []⟩)) }

/-- A queue of a die. -/
def Die.lq (x : Die) (q : Nat) : LQueue := vget x.q q ⟨16, 0, []⟩

/-- VPASS: the smallest PASS among queues other than `q` that hold an unplaced team (spec/03 R54). -/
def vpass (x : Die) (q : Nat) : Option Word :=
  ((List.range 16).filter fun k => k ≠ q && !(x.lq k).ents.isEmpty).foldl (fun m k => match m with
    | none => some (x.lq k).pass
    | some p => some (if passLt (x.lq k).pass p then (x.lq k).pass else p)) none

/-- Append an entry to a queue of a die; an empty queue takes PASS := max(PASS, VPASS) (spec/03 R54). -/
def enqueue (x : Die) (q : Nat) (e : LqEnt) : Die :=
  if e.n = 0 then x
  else
    let v := vpass x q
    x.modQ q fun y =>
      { y with
        pass := if y.ents.isEmpty then (v.map (passMax y.pass)).getD y.pass else y.pass
        ents := y.ents ++ [e] }

/-- The entry of a launch in the queue of home die `h` (spec/03 R47, R52). -/
def entryFor (n : Nat) (l : Launch) (h : Nat) : LqEnt :=
  let first := (h + 4 - l.die % 4) % 4
  ⟨n, first, (l.teams + 3 - first) / 4⟩

/-- The dies in service, home dies moved by R407 included: where a team homed on `h` queues. -/
def queueDie (s : State) (h : Nat) : Nat :=
  let live := fun d : Nat => !(s.die (d % 4)).inReset && (s.die (d % 4)).inService
  if live h then h else if live (h + 1) then (h + 1) % 4 else if live (h + 2) then (h + 2) % 4 else (h + 3) % 4

/-- The launch's queue on the die where teams homed on `h` queue holds 64 entries (spec/03 R52). -/
def queueFull (s : State) (l : Launch) (h : Nat) : Bool :=
  decide (64 ≤ ((s.die (queueDie s h)).lq l.queue).ents.length)

/-- Append a launch to its queue on the home dies of a list, die by die up to one whose queue is full: the state, and the dies
left (spec/03 R52, spec/09 R211). -/
def appendLaunch (n : Nat) (l : Launch) : List Nat → State → State × List Nat
  | [], s => (s, [])
  | h :: r, s =>
    if queueFull s l h then (s, h :: r)
    else appendLaunch n l r (s.modDie (queueDie s h) fun x => enqueue x l.queue (entryFor n l h))

/-- Some home die's share is too small for a team (spec/20 R370). -/
def shareRefused (s : State) (l : Launch) : Bool :=
  (homeDies l).any fun h => decide (shareOf (s.die h) < l.header.team * l.header.region)

/-! ## Launching -/

/-- What reading and checking a header gives. -/
inductive HeaderRead where
  | ok (s : State) (h : BitVec 512)
  | refused (detail : Nat)
  | flt (s : State) (f : Flt)
  | wait
  deriving DecidableEq, Repr

/-- Read the 64 bytes of a header for a context and check them (spec/09 R211, spec/03 R42): the address faults come
first, then the alignment of the header, then R42 (DEDUCED, log 20). -/
def readHeader (s : State) (c : Nat) (a : Word) : HeaderRead :=
  let acc := Acc.load c 9 0 0
  if bits a.toNat 62 2 ≠ 0 then .flt s (acc.flt 0x20 4 a)
  else match resolve s acc a 64 with
    | .flt s f => .flt s f
    | .wait => .wait
    | .ok s ps =>
      let h := leNat (readPieces s ps)
      if a.toNat % 64 ≠ 0 then .refused 10
      else match headerFails h with
        | 0 => .ok s (BitVec.ofNat 512 h)
        | d => .refused d

/-- The launch that LAUNCH makes (spec/09 R211). `root` is none for a launch that is its own root (spec/03 R51). -/
def mkLaunch (s : State) (h : BitVec 512) (a arg ptRoot : Word) (d q : Nat) (root : Option Nat) : Launch where
  hdrAddr := a
  hdr := h
  arg := arg
  ptRoot := ptRoot
  die := d
  queue := q
  root := root.getD s.nextLaunch
  teams := (Header.ofBits h.toNat).teams
  bars := []
  failed := none
  reported := false

/-- The launch that a LAUNCH at `key` has begun and not finished, with the home dies left. -/
def pendingLaunch (s : State) (c : Nat) (key : Word) : Option (Nat × List Nat) :=
  ((s.ctx c).launching.find? fun e => e.1 == key).map (·.2)

/-- Go on with a launch: append it die by die, and keep the dies left while a queue is full (spec/09 R211). -/
def goOnLaunch (s : State) (c : Nat) (key : Word) (n : Nat) (hs : List Nat) : State :=
  let (s, left) := appendLaunch n (s.launch n) hs s
  s.modCtx c fun x =>
    let rest := x.launching.filter fun e => e.1 != key
    { x with launching := if left.isEmpty then rest else (key, n, left) :: rest }

/-- Enter a launch in the table and, as far as they have room, in its queues (spec/09 R211). -/
def startLaunch (s : State) (c : Nat) (key : Word) (l : Launch) : State :=
  let n := s.nextLaunch
  goOnLaunch { s with launches := FMap.insert s.launches n l, nextLaunch := n + 1 } c key n (homeDies l)

/-- The root of the launch that a context runs; a supervisor context runs none. -/
def rootOf (s : State) (c : Nat) : Option Nat :=
  if isSup c then none else ((s.cluster (clusterOf c)).team).map fun t => (s.launch t.launch).root

/-- A LAUNCH completes once every entry is appended; while a queue is full, K stalls (spec/09 R211). -/
def launchDone (s : State) (c : Nat) : State :=
  if (pendingLaunch s c (s.ctx c).k.pc).isSome then blockQuiet s c .k else advance s c .k 4

/-- LAUNCH (spec/09 R211, spec/20 R370): a stalled one goes on where it stands. -/
def execLaunch (g : Guard) (q : Fin 16) (a b : XReg) (s : State) : Out3 :=
  kInstr (.launch g q a b) g 4 [a, b] (fun c s =>
    let x := s.ctx c
    let addr := x.rx a
    let word := wordOf (.launch g q a b)
    let refuse := fun (s : State) (d : Nat) => Host.Outcome.next (takeFault s c .k ⟨0x0C, d, addr, 0⟩ word)
    match pendingLaunch s c x.k.pc with
    | some (n, hs) => .next (launchDone (goOnLaunch s c x.k.pc n hs) c)
    | none => match readHeader s c addr with
      | .flt s f => .next (takeFault s c .k f word)
      | .wait => .next (blockQuiet s c .k)
      | .refused d => refuse s d
      | .ok s h =>
        let l := mkLaunch s h addr (x.rx b) x.ptRoot (dieOf c) q.val (rootOf s c)
        if shareRefused s l then refuse s 11
        else .next (launchDone (startLaunch s c x.k.pc l) c)) s

end Sys2Proof.Machine
end

