-- ==== Sys2Proof/Machine/Placement.lean ====
section
/-! DEFINITION. The die dispatcher: placing teams (spec/03 R48, R49, R54, spec/04 R75, R77), resuming pre-empted ones
(R65, spec/04 R91), stealing (R56, R57), the end of a team (R50, R51) and the ending of a launch (spec/20 R362). -/

namespace Sys2Proof.Machine

/-! ## Ending a launch -/

/-- The teams of a launch that are not yet placed leave their queues on every die, and a LAUNCH that is still appending them
appends no more (spec/20 R362). -/
def unqueue (s : State) (n : Nat) : State :=
  { s with
    dies := s.dies.map fun d => { d with q := d.q.map fun q => { q with ents := q.ents.filter fun e => e.launch ≠ n } }
    ctxs := s.ctxs.map fun (c, x) =>
      (c, { x with launching := x.launching.map fun e => if e.2.1 = n then (e.1, n, []) else e }) }

/-- Mark a launch as ended by a cause, and its root with it unless another cause came first (spec/20 R362; DEDUCED, log
22). -/
def markFailed (s : State) (n cause : Nat) : State :=
  let f := fun l : Launch => { l with failed := some (l.failed.getD cause) }
  (s.modLaunch n f).modLaunch (s.launch n).root f

/-- End a launch with a cause: unplaced teams are removed, placed teams run on (spec/20 R362). -/
def endLaunch (s : State) (n cause : Nat) : State := checkBars (markFailed (unqueue s n) n cause) n

/-! ## Free clusters -/

/-- The dies on which teams may be placed: not in reset, the module neither in hold-up nor stopped (spec/15 R342,
spec/22 R406, R414). -/
def placing (s : State) (d : Nat) : Bool :=
  decide (d < 4) && !(s.die d).inReset && (s.die d).inService && !s.holdUp && s.svc.boot != 3

/-- The lowest-numbered free cluster of a die (spec/03 R54). -/
def freeCluster (s : State) (d : Nat) : Option Nat :=
  ((List.range 16).find? fun k => (s.cluster (16 * d + k)).team.isNone).map fun k => 16 * d + k

/-- A cluster without a team, which keeps its caches, its watchpoints and their hits: what the placement of a team
starts from (spec/03 R49). The forwarding pair is zero again, of which spec/05 R115 says only that a CPYREL sets it and clears
ACTIVE (DESIGN CHOICE, log 52). -/
def clearCluster (x : Cluster) : Cluster :=
  { Cluster.init with
    tlb := x.tlb, bcache := x.bcache, wpBase := x.wpBase, wpCtl := x.wpCtl, wpOvf := x.wpOvf, hits := x.hits
    nextCmd := x.nextCmd }

/-- The contexts of a cluster leave it: every register is at its reset value again. What a debugger has written for a slot that held
no parcel stands for the slot's next one (spec/23 R415). -/
def clearCtxs (s : State) (cl : Nat) : State :=
  { s with ctxs := s.ctxs.filter fun e => isSup e.1 || clusterOf e.1 ≠ cl || !e.2.resident }

/-- The cluster is free (spec/03 R50). -/
def vacate (s : State) (cl : Nat) : State := (clearCtxs (dropNeed s cl) cl).modCluster cl clearCluster

/-! ## The recording that a team replays -/

/-- The records of team `t` in a region of `n` units of 32 bytes at `a`: sync records and interval hashes, in order
(spec/14 R315, R322, R323). `skip` counts the units of a record already read. The recording ends at the first unit whose START is
0, or at REC_LEN (R320 does not say where: DESIGN CHOICE, log 60). -/
def parseRegion (s : State) (key t : Nat) : Nat → Nat → Nat → List SyncRec × List (Nat × Word)
  | 0, _, _ => ([], [])
  | n + 1, skip, a =>
    match skip with
    | k + 1 => parseRegion s key t n k (a + 32)
    | 0 =>
      let b := leNat (readPhys s key a 64)
      if bits b 0 1 = 0 then ([], [])
      else
        let (es, hs) := parseRegion s key t n (bits b 1 3) (a + 32)
        if bits b 4 8 = 5 && bits b 192 24 == t then
          (⟨wd (bits b 64 64), wd (bits b 128 64), bits b 216 8, bits b 320 64, wd (bits b 384 64)⟩ :: es, hs)
        else if bits b 4 8 = 6 && bits b 64 24 == t then (es, (bits b 128 64, wd (bits b 192 64)) :: hs)
        else (es, hs)

/-- The recording state with which a team of a launch starts on a die (spec/14 R320, R324). -/
def startRec (s : State) (d : Nat) (h : Header) (t : Nat) : Option RecSt :=
  let x := s.die d
  let mode := bits x.recCtl.toNat 0 2
  if !h.record || mode = 0 || mode = 3 then none
  else if mode = 1 then some ⟨1, 0, 0, 0, [], [], [], false⟩
  else
    let (es, hs) := parseRegion s (bits x.recBase.toNat 0 6) t (x.recLen.toNat / 32) 0
      (bits x.recBase.toNat 12 40 * 4096)
    some ⟨2, 0, 0, 0, es, hs, [], false⟩

/-! ## Placing a team -/

/-- The start of a cluster's share of its die's bedrock pool (spec/04 R77). -/
def shareStart (s : State) (cl : Nat) : Nat :=
  let x := s.die (dieOfCluster cl)
  (poolOf x.brBase x.brLen).1 + cl % 16 * shareOf x

/-- The overflow registers of parcel `p` on a cluster (spec/04 R77): region start and OVF_LIMIT. -/
def regionOf (s : State) (cl : Nat) (h : Header) (p : Nat) : Nat × Nat :=
  let base := shareStart s cl + p * h.region
  (base, base + 64 * (h.bedrock / 64))

/-- A lane at the start of its section. -/
def laneAt (a : Word) : LaneSt := { LaneSt.init with pc := a }

/-- The four loop registers of a list. -/
def four (l : List Nat) : Vector W32 4 := Vector.ofFn fun i : Fin 4 => BitVec.ofNat 32 (nth l i.val 0)

/-- A parcel as it starts (spec/03 R46, R49). `dbg` holds DBG_CTL and DBG_BP0-3, as a debugger has written them for the placement
(spec/23 R415). -/
def startCtx (l : Launch) (t home p base limit : Nat) (dbg : Word × Vector Word 4) : Ctx :=
  let h := l.header
  let at_ := fun off : Nat => l.hdrAddr + wd off
  { Ctx.init with
    resident := true
    k := laneAt (at_ h.koff)
    l := laneAt (at_ h.loff)
    cl := laneAt (at_ h.coff)
    sl := laneAt (at_ h.soff)
    dbgCtl := dbg.1
    dbgBp := dbg.2
    lix := four (loopIndices h.rows p t)
    lex := four (h.rows.map rowExtent)
    larg := l.arg
    teamId := wd (home * 2 ^ 24 + t % 2 ^ 24)
    ptRoot := l.ptRoot
    hdr := l.hdrAddr
    trapOff := BitVec.ofNat 32 h.trapOff
    nx := allocated h.xregs
    tickets := h.tickets
    subsoil := h.subsoil
    ovfBase := wd base
    ovfPtr := wd base
    ovfLimit := wd limit }

/-- A core as a team finds it: its scratchpad reads as zero and its engines have completed nothing (spec/03 R49, spec/05
R93). -/
def startCore (x : CoreSt) : CoreSt := { CoreSt.init with tlb := x.tlb }

/-- The cores on which a team of `n` parcels has one, within their cluster (spec/03 R48). -/
def teamCores (n : Nat) : List Nat := List.range (min n 64)

/-- The team record of a placement. -/
def startTeam (s : State) (n t d : Nat) (l : Launch) : Team where
  launch := n
  t := t
  home := homeOf l t
  size := l.header.team
  seq := (s.die d).placeSeq
  held := none
  saving := none
  arrivals := []
  barOrd := 0
  waiting := none
  recd := startRec s d l.header t
  lastAct := s.cycle
  loads := []

/-- A die has placed a team in this cycle, and has taken up its pool registers (spec/04 R76). -/
def notePlaced (s : State) (d : Nat) : State :=
  let cyc := s.cycle
  s.modDie d fun x =>
    { x with placeSeq := x.placeSeq + 1, placedAt := some cyc, poolBase := x.brBase, poolLen := x.brLen }

/-- Die `d` has taken a team from queue `q` of die `v` in this cycle (spec/03 R57). -/
def noteTook (s : State) (d v q : Nat) : State :=
  let cyc := s.cycle
  s.modDie d fun x => { x with took := some (cyc, v, q) }

/-- Make parcel `p` of a team resident, with the debug registers that the debugger outside has asked for, or that have been written for
the slot (spec/23 R415). -/
def placeParcel (cl t : Nat) (l : Launch) (s : State) (p : Nat) : State :=
  let (base, limit) := regionOf s cl l.header p
  let c := ctxOfParcel cl p
  let dbg := FMap.find s.asked c ((s.ctx c).dbgCtl, (s.ctx c).dbgBp)
  { s with asked := FMap.erase s.asked c }.setCtx c (startCtx l t (homeOf l t) p base limit dbg)

/-- Place team `t` of a launch on a free cluster (spec/03 R48, R49). -/
def placeTeam (s : State) (cl n t : Nat) : State :=
  let d := dieOfCluster cl
  let l := s.launch n
  let tm := startTeam s n t d l
  let s := s.modCluster cl fun x => { clearCluster x with team := some tm }
  let s := (teamCores l.header.team).foldl (fun s k =>
    s.setCore (64 * cl + k) (startCore (s.core (64 * cl + k)))) s
  notePlaced ((List.range l.header.team).foldl (placeParcel cl t l) s) d

/-- Placement failed: the message names no cluster, and the launch ends (spec/20 R370). -/
def placementFailed (s : State) (d n t : Nat) : State :=
  let l := s.launch n
  let f : Flt := ⟨0x10, 0, 0, 0⟩
  let m : FltMsg := ⟨causeWord f 0 false false false false false, noPos, 0, 0, 0, wd (homeOf l t * 2 ^ 24 + t % 2 ^ 24),
    putField (putField l.hdrAddr 52 12 0) 52 8 0xFF⟩
  endLaunch (pushMsg s d m) n 0x10

/-- Place a team where it fits its cluster's share, else raise placement failed (spec/04 R77, spec/20 R370). -/
def placeOrFail (s : State) (cl n t : Nat) : State :=
  let d := dieOfCluster cl
  let h := (s.launch n).header
  if shareOf (s.die d) < h.team * h.region then placementFailed s d n t else placeTeam s cl n t

/-! ## Resuming a team -/

/-- The first pre-empted team of a die that may resume (spec/03 R65), and the others (DEDUCED, log 50). -/
def nextResumed (x : Die) : Option (Saved × List Saved) := pickFirst (fun v => v.until_.isNone) x.resumed

/-- A context number of one cluster carried to another. -/
def moveCtx (cl c : Nat) : Nat := 256 * cl + c % 256

/-- A saved context with its bedrock region at its new place (spec/04 R91); the engine faults that it holds are those of context
`c` now (spec/21 R375). -/
def rebase (c base limit : Nat) (x : Ctx) : Ctx :=
  let off := x.ovfPtr.toNat - x.ovfBase.toNat
  { x with
    ovfBase := wd base, ovfLimit := wd limit, ovfPtr := wd (base + off)
    heldFlts := x.heldFlts.map fun e => { e with c := c }
    dbgNext := x.dbgNext.map fun t =>
      { t with c := moveCtx (clusterOf c) t.c, recs := t.recs.map fun r => { r with c := moveCtx (clusterOf c) r.c } } }

/-- The saved cluster on another cluster: everything that names a context names the new one. -/
def moveCluster (cl : Nat) (old v : Cluster) : Cluster :=
  { v with
    tlb := old.tlb, bcache := old.bcache, wpBase := old.wpBase, wpCtl := old.wpCtl, wpOvf := old.wpOvf, hits := old.hits
    starts := v.starts.map fun k => { k with c := moveCtx cl k.c }
    run := v.run.map fun r => { r with c := moveCtx cl r.c }
    kpush := v.kpush.map fun k => (moveCtx cl k.1, k.2)
    cmds := v.cmds.map fun k => { k with c := moveCtx cl k.c }
    flts := v.flts.map fun e => { e with c := moveCtx cl e.c } }

/-- Restore a pre-empted team on a free cluster of its die (spec/03 R65, spec/04 R91); what its kiln had loaded is loaded again
(spec/13 R302), and its K lanes go past a barrier that has released meanwhile. -/
def resumeTeam (s : State) (cl : Nat) (v : Saved) : State :=
  let d := dieOfCluster cl
  let h := (s.launch v.team.launch).header
  let loads := v.team.loads.map fun e => (e.1, e.2.1, e.2.2.1, moveCtx cl e.2.2.2)
  let tm := { v.team with saving := none, seq := (s.die d).placeSeq, lastAct := s.cycle, loads := loads }
  let s := s.modCluster cl fun old => { moveCluster cl old v.cluster with team := some tm }
  let s := v.cores.foldl (fun s (k, x) =>
    s.setCore (64 * cl + k) { x with tlb := (s.core (64 * cl + k)).tlb, wasReady := [] }) s
  let s := v.ctxs.foldl (fun s (p, x) =>
    let (base, limit) := regionOf s cl h p
    s.setCtx (ctxOfParcel cl p) (rebase (ctxOfParcel cl p) base limit x)) s
  openSaved (notePlaced (reloadKiln cl loads s) d) cl

/-! ## The dispatcher -/

/-- The queue with the least PASS among those that hold a team, ties to the lower number (spec/03 R54). -/
def leastQueue (x : Die) : Option Nat :=
  ((List.range 16).filter fun k => !(x.lq k).ents.isEmpty).foldl (fun b k => match b with
    | none => some k
    | some j => if passLt (x.lq k).pass (x.lq j).pass then some k else b) none

/-- Take the next team of a queue: its launch, its number, the queue without it (spec/03 R52). -/
def takeFirst (q : LQueue) : Option (Nat × Nat × LQueue) :=
  match q.ents with
  | [] => none
  | e :: r =>
    let rest := if e.n ≤ 1 then r else { e with first := e.first + 4, n := e.n - 1 } :: r
    some (e.launch, e.first, { q with ents := rest })

/-- Take the last unplaced team of a queue (spec/03 R56). -/
def takeLast (q : LQueue) : Option (Nat × Nat × LQueue) :=
  match q.ents.getLast? with
  | none => none
  | some e =>
    let rest := if e.n ≤ 1 then q.ents.dropLast else q.ents.dropLast ++ [{ e with n := e.n - 1 }]
    some (e.launch, e.first + 4 * (e.n - 1), { q with ents := rest })

/-- STRIDE of a queue under its tickets at this placement (spec/03 R53, R54). -/
def strideOf (q : LQueue) : Nat := 2 ^ 20 / (bits q.cfg.toNat 0 11)

/-- The die may place a team now: at most one in a cycle (spec/03 R54). -/
def mayPlace (s : State) (d : Nat) : Bool := placing s d && (s.die d).placedAt != some s.cycle

/-- TEAM_PLACE: a resumed team, else the next team of the queue with the least PASS, goes to the lowest free cluster
(spec/03 R54, R65). A team that fits no share is not placed (spec/20 R370), and its queue's PASS stays (DESIGN CHOICE, log 60). -/
def execTeamPlace (d : Nat) (s : State) : Out3 :=
  if !mayPlace s d then .next s
  else match freeCluster s d with
    | none => .next s
    | some cl => match nextResumed (s.die d) with
      | some (v, rest) => .next (resumeTeam (s.modDie d fun x => { x with resumed := rest }) cl v)
      | none => match leastQueue (s.die d) with
        | none => .next s
        | some q => match takeFirst ((s.die d).lq q) with
          | none => .next s
          | some (n, t, rest) =>
            let fits := decide ((s.launch n).header.team * (s.launch n).header.region ≤ shareOf (s.die d))
            let rest := if fits then { rest with pass := rest.pass + wd (strideOf rest) } else rest
            .next (placeOrFail (noteTook (s.modDie d fun x => x.modQ q fun _ => rest) d d q) cl n t)

/-- Die `d` may steal: a free cluster, no resumed team waiting, all its queues empty (spec/03 R56). -/
def maySteal (s : State) (d : Nat) : Bool :=
  mayPlace s d && (freeCluster s d).isSome && (nextResumed (s.die d)).isNone && (leastQueue (s.die d)).isNone

/-- The unplaced teams that a queue held when the cycle began: those it holds and those taken from it in this cycle (spec/03
R57). -/
def startCount (s : State) (e : Nat × Nat) : Nat :=
  ((s.die e.1).lq e.2).count +
    ((List.range 4).filter fun d => (s.die d).took == some (s.cycle, e.1, e.2)).length

/-- The victim of die `d`: die and queue with the most unplaced teams among its two neighbours as the cycle began, ties to the
lower die, then the lower queue (spec/03 R56, R57). -/
def victimOf (s : State) (d : Nat) : Option (Nat × Nat) :=
  let a := (d + 1) % 4
  let b := (d + 3) % 4
  let all := ((List.range 16).map fun q => (min a b, q)) ++ ((List.range 16).map fun q => (max a b, q))
  all.foldl (fun m e =>
    let n := startCount s e
    match m with
    | none => if n = 0 then none else some e
    | some j => if startCount s j < n then some e else m) none

/-- The home die reaches the last team of a queue itself in this cycle, or a lower-numbered thief takes one from the
queue first (spec/03 R57). -/
def servedBefore (s : State) (d : Nat) (v : Nat × Nat) : Bool :=
  (((s.die v.1).lq v.2).count == 1 && mayPlace s v.1 && (freeCluster s v.1).isSome &&
    (nextResumed (s.die v.1)).isNone && leastQueue (s.die v.1) == some v.2) ||
  (List.range d).any fun e => maySteal s e && victimOf s e == some v

/-- TEAM_STEAL: an idle die takes the last unplaced team of a neighbour's fullest queue and places it at once, if the dies
served before it have left one (spec/03 R56, R57). -/
def execTeamSteal (d : Nat) (s : State) : Out3 :=
  if !maySteal s d then .next s
  else match freeCluster s d, victimOf s d with
    | some cl, some v =>
      if servedBefore s d v then .next s
      else match takeLast ((s.die v.1).lq v.2) with
        | none => .next s
        | some (n, t, rest) =>
          .next (placeOrFail (noteTook (s.modDie v.1 fun x => x.modQ v.2 fun _ => rest) d v.1 v.2) cl n t)
    | _, _ => .next s

/-! ## The end of a team -/

/-- A command that keeps its team from ending: a suspended relocation ends with the team (spec/20 R390). -/
def Cmd.unended (k : Cmd) : Bool := k.phase != .done && k.phase != .suspended

/-- A parcel has retired, its issued accesses have performed (spec/03 R50), and no debugger stop keeps a fault of it. -/
def Ctx.over (x : Ctx) : Bool := x.retired && x.kmiss.isNone && x.stores.isEmpty && x.dbgFlt.isNone

/-- Every parcel of a team has retired, and no fault of it is to be taken. -/
def parcelsOver (s : State) (cl : Nat) (t : Team) : Bool :=
  t.held.isNone && t.saving.isNone && (teamCtxs s cl).all (fun c => (s.ctx c).over) && (s.cluster cl).flts.isEmpty

/-- Every parcel of a team has retired and its commands and kiln programs have completed (spec/03 R50). -/
def teamOver (s : State) (cl : Nat) (t : Team) : Bool :=
  let x := s.cluster cl
  parcelsOver s cl t && !x.cmds.any Cmd.unended && x.starts.isEmpty && x.run.isNone

/-- The suspended relocation of a team whose parcels have all retired, which no handler will let go on: what waits behind it or for its
page goes on once it has ended (spec/21 R390). -/
def endingReloc (s : State) (cl : Nat) (t : Team) : Option Cmd :=
  if parcelsOver s cl t then (s.cluster cl).cmds.find? fun k => k.phase == .suspended else none

/-- A suspended relocation ends with its team: its slab map entry is not written, and ACTIVE clears (spec/21 R390). -/
def endReloc (s : State) (cl : Nat) (k : Cmd) : State :=
  endCmd (s.modCluster cl fun x => { x with fwdStat := putField x.fwdStat 63 1 0 }) cl k

/-- A recorded event that no queue of an ending team has made (spec/22 R398, 6). -/
def leftOver (t : Team) : Option SyncRec :=
  match t.recd with
  | some r => if r.mode = 2 then r.events.head? else none
  | none => none

/-- TEAM_END: the cluster is free, and barriers that waited for the team may release (spec/03 R50, R60). -/
def execTeamEnd (cl : Nat) (s : State) : Out3 :=
  match (s.cluster cl).team with
  | none => .next s
  | some t => match endingReloc s cl t with
    | some k => .next (endReloc s cl k)
    | none =>
    if !teamOver s cl t then .next s
    else match leftOver t with
    | some e => .next (divergeAt s (ctxOfParcel cl 0) 0 e.pos 0x43 6 e.seq e.value)
    | none =>
      let s := vacate s cl
      let s := { s with dies := s.dies.map fun x =>
        { x with lastSaves := x.lastSaves.filter fun v => !(v.team.launch == t.launch && v.team.t == t.t) } }
      .next (checkBars s t.launch)

end Sys2Proof.Machine
end

