-- ==== Sys2Proof/Machine/Teams.lean ====
section
/-! DEFINITION. Teams that wait, stall, are held and are pre-empted: the dispatcher's requests (spec/03 R62, spec/20
R371), team stalls (R369), the fault ring (R359, R360, spec/22 R414), FLT_CTL (R361, R362) and PREEMPT_CTL (spec/03 R63,
R64, spec/20 R372, R373). -/

namespace Sys2Proof.Machine

/-! ## Making room for waiting teams -/

/-- The clusters of a die on which teams of a launch run. -/
def placedOn (s : State) (d n : Nat) : List Nat := (launchClusters s n).filter fun cl => dieOfCluster cl == d

/-- The team on a cluster waits at a die or device barrier with every parcel. -/
def waitsAtBar (s : State) (cl : Nat) : Bool :=
  match (s.cluster cl).team with
  | some t => t.waiting.isSome
  | none => false

/-- Order of placement of the team on a cluster. -/
def seqOf (s : State) (cl : Nat) : Nat := ((s.cluster cl).team.map Team.seq).getD 0

/-- The most recently placed of some clusters. -/
def newest (s : State) : List Nat → Option Nat
  | [] => none
  | cl :: r => match newest s r with
    | some k => if seqOf s k < seqOf s cl then some cl else some k
    | none => some cl

/-- The cluster to be freed for an unplaced team of a launch, where its placed teams on the die all wait (spec/03
R62). -/
def roomFor (s : State) (d n : Nat) : Option Nat :=
  let l := placedOn s d n
  if l.all (waitsAtBar s) then newest s l else none

/-- The launches with an unplaced team in a die's queues, queue by queue in launch order. -/
def queuedLaunches (x : Die) : List Nat := (x.q.toList.map fun q => q.ents.map LqEnt.launch).flatten

/-- The need of R62 on a die, for a launch that does or does not set PREEMPT: the cluster of the most recently placed of
the waiting teams (DEDUCED, log 41). -/
def need (s : State) (d : Nat) (preempt : Bool) : Option Nat :=
  if !placing s d || (freeCluster s d).isSome then none
  else ((queuedLaunches (s.die d)).filter fun n => (s.launch n).header.preempt == preempt).findSome? (roomFor s d)

/-- Level of the barrier at which the team on a cluster waits. -/
def waitLevel (s : State) (cl : Nat) : Nat :=
  match (s.cluster cl).team with
  | some t => (t.waiting.map (·.1)).getD 0
  | none => 0

/-- The header address of the launch whose team runs on a cluster. -/
def hdrOf (s : State) (cl : Nat) : Word :=
  match (s.cluster cl).team with
  | some t => (s.launch t.launch).hdrAddr
  | none => 0

/-- A fault that names a waiting team: barrier level, header, die (spec/20 R357). -/
def waitFlt (s : State) (cl cause : Nat) : Flt := ⟨cause, waitLevel s cl, hdrOf s cl, wd (dieOfCluster cl)⟩

/-- The message of a pre-emption request (spec/03 R62, spec/20 R360); it stops no team. -/
def requestMsg (s : State) (cl : Nat) : FltMsg :=
  let f := waitFlt s cl 0x13
  ⟨causeWord f 0 false false false false false, noPos, 0, f.addr, f.info,
    ((s.cluster cl).team.map teamIdOf).getD 0, putField (putField (hdrOf s cl) 52 12 0) 52 8 cl⟩

/-- The pre-emption of a waiting team of the die has started. -/
def savesWaiting (s : State) (d : Nat) : Bool :=
  match (s.die d).saving with
  | some cl => waitsAtBar s cl
  | none => false

/-- A request of a die is outstanding: the team that it named still waits (spec/03 R62). -/
def outstanding (s : State) (d : Nat) : Bool :=
  match (s.die d).request with
  | some (cl, _) => waitsAtBar s cl
  | none => false

/-- Write a request for a cluster's team. -/
def writeRequest (s : State) (d cl : Nat) : State :=
  let cyc := s.cycle
  (pushMsg s d (requestMsg s cl)).modDie d fun x => { x with request := some (cl, cyc) }

/-- PREEMPT_REQUEST (spec/03 R62). -/
def execPreemptRequest (d : Nat) (s : State) : Out3 :=
  match need s d true with
  | some cl => .next (if outstanding s d || savesWaiting s d then s else writeRequest s d cl)
  | none => .next s

/-- PREEMPT_REQUEST_REPEAT: 2^24 cycles later the need remains and no pre-emption has started (spec/03 R62). -/
def execPreemptRequestRepeat (d : Nat) (s : State) : Out3 :=
  match need s d true, (s.die d).request with
  | some cl, some (_, at_) =>
    .next (if outstanding s d && !savesWaiting s d && decide (2 ^ 24 ≤ s.cycle - at_) then writeRequest s d cl else s)
  | _, _ => .next s

/-- Hold the team on a cluster with a cause that names no lane: each context that has not retired records it at its K
lane's position, and one message carries the lowest-numbered parcel's record (spec/20 R369; DEDUCED, log 23). -/
def holdWhole (s : State) (cl : Nat) (f : Flt) : State :=
  let l := (teamCtxs s cl).filter fun c => !(s.ctx c).retired
  let low := l.foldl (fun m c => min m (parcelOf c)) 256
  takeTeamFault s ⟨f, ctxOfParcel cl (if low = 256 then 0 else low), 0, l.map fun c => ⟨c, f, posOf s c .k, wordAt s c, false⟩⟩

/-- Raise cause 0x12 on a waiting team (spec/20 R371). -/
def raiseNoPreempt (s : State) (d cl : Nat) : State :=
  let cyc := s.cycle
  (holdWhole s cl (waitFlt s cl 0x12)).modDie d fun x => { x with noPre := some (cl, cyc) }

/-- The team on a cluster is held. -/
def isHeld (s : State) (cl : Nat) : Bool :=
  match (s.cluster cl).team with
  | some t => t.held.isSome
  | none => false

/-- BARRIER_WITHOUT_PREEMPTION: the need of a launch without PREEMPT holds the most recently placed waiting team (spec/20
R371). -/
def execBarrierWithoutPreemption (d : Nat) (s : State) : Out3 :=
  match need s d false with
  | none => .next s
  | some cl =>
    let raised := match (s.die d).noPre with
      | some (k, _) => k == cl
      | none => false
    .next (if raised || isHeld s cl || savesWaiting s d then s else raiseNoPreempt s d cl)

/-- BARRIER_NO_PREEMPT_REPEAT: a resumed team still waits 2^24 cycles later, and the need is still there (spec/20
R371). -/
def execBarrierNoPreemptRepeat (d : Nat) (s : State) : Out3 :=
  match need s d false, (s.die d).noPre with
  | some cl, some (_, at_) =>
    .next (if !isHeld s cl && !savesWaiting s d && decide (2 ^ 24 ≤ s.cycle - at_) then raiseNoPreempt s d cl else s)
  | _, _ => .next s

/-! ## Team stalls -/

/-- A lane is parked, or has waited 2^24 cycles for what only its team could provide (spec/20 R369). -/
def laneStuck (cycle : Nat) (y : LaneSt) : Bool :=
  y.parked || match y.wait with
    | some w => decide (2 ^ 24 ≤ cycle - w.since) &&
        (w.kind ≤ 3 || w.kind == 7 || (w.kind == 8 && w.logged) || w.kind == 14)
    | none => false

/-- Nothing of a context can move without its team. -/
def ctxStuck (cycle : Nat) (x : Ctx) : Bool :=
  x.retired || (!x.stopped && [x.k, x.l, x.cl, x.sl].all (laneStuck cycle) && x.infl.isEmpty && x.kmiss.isNone &&
    x.monw.isNone && x.readSigs.isEmpty && x.strm.toList.all fun t => t.arr.all fun e => match e.st with
      | .flight _ | .flightBad _ => false
      | .here _ | .bad _ | .retry => true)

/-- Lanes of a context that wait. -/
def lanesWaiting (x : Ctx) : Nat :=
  if x.retired then 0 else ([x.k, x.l, x.cl, x.sl].filter fun y => !y.parked).length

/-- TEAM_STALL; a team that waits for others at a die or device barrier is none, since they can end its wait (spec/20
R369). -/
def execTeamStall (cl : Nat) (s : State) : Out3 :=
  let x := s.cluster cl
  match x.team with
  | none => .next s
  | some t =>
    let l := teamCtxs s cl
    let n := l.foldl (fun n c => n + lanesWaiting (s.ctx c)) 0
    if t.held.isNone && t.saving.isNone && t.waiting.isNone && decide (0 < n) && decide (2 ^ 24 ≤ s.cycle - t.lastAct) &&
        l.all (fun c => ctxStuck s.cycle (s.ctx c)) && !x.cmds.any Cmd.unended && x.starts.isEmpty && x.run.isNone then
      .next (holdWhole s cl ⟨0x0E, 0, 0, wd n⟩)
    else .next s

/-! ## The fault ring -/

/-- The physical address of the slot of a die's next message (spec/20 R359). -/
def fqSlot (x : Die) : Nat :=
  bits x.fqBase.toNat 12 40 * 4096 + 64 * (x.msgN % (max 1 (bits x.fqLen.toNat 0 13)))

/-- The slot of the next message is free (spec/20 R359). -/
def fqFree (s : State) (x : Die) : Bool :=
  bits x.fqLen.toNat 0 13 != 0 && leNat (readPhys s (bits x.fqBase.toNat 0 6) (fqSlot x) 8) == 0

/-- The bytes of a message after its first word (spec/20 R360). -/
def msgBytes (m : FltMsg) : List Byte :=
  leBytes 8 m.cause.toNat ++ leBytes 8 m.pos.toNat ++ leBytes 8 m.word.toNat ++ leBytes 8 m.addr.toNat ++
    leBytes 8 m.info.toNat ++ leBytes 8 m.team.toNat ++ leBytes 8 m.hdr.toNat

/-- FAULT_MESSAGE_WRITE: the oldest message goes into its slot, bytes 0x08 to 0x3F first, once the slot is free (spec/20
R359). -/
def execFaultMessageWrite (d : Nat) (s : State) : Out3 :=
  let x := s.die d
  match x.msgs with
  | [] => .next s
  | m :: rest =>
    if x.inReset || s.svc.boot == 3 then .next s
    else if fqFree s x then
      let a := fqSlot x
      let key := bits x.fqBase.toNat 0 6
      let s := writePieces s noPos [(.phys (a + 8) key false, 56)] (msgBytes m)
      let s := writePieces s noPos [(.phys a key false, 8)] (leBytes 8 (x.msgN + 1))
      .next (s.modDie d fun x => { x with msgs := rest, msgN := x.msgN + 1, fqFull := none })
    else .next (s.modDie d fun x => { x with fqFull := some (x.fqFull.getD (s.gtOf d)) })

/-- Ticks of global time in a second (spec/01 R12). -/
def tickSecond : Nat := 1100000000

/-- FAULT_RING_TIMEOUT: a full ring of which no slot has been freed for 1 s is a fatal error (spec/22 R414). -/
def execFaultRingTimeout (d : Nat) (s : State) : Out3 :=
  let x := s.die d
  match x.fqFull with
  | none => .next s
  | some t =>
    .next (if !x.msgs.isEmpty && bits x.fqLen.toNat 0 13 != 0 && !fqFree s x && decide (t + tickSecond ≤ s.gtOf d) then
      fatal s 0x84 else s)

/-! ## FLT_CTL -/

/-- A context goes on after a hold: at its resume points where it is not in handler state or its record is that of the
hold, else where its handler stands (spec/20 R361; DEDUCED, log 21). -/
def resumeHeld (cause : Nat) (x : Ctx) : Ctx :=
  if x.retired then x
  else if inHandler x && bits x.frCause.toNat 0 8 ≠ cause then { x with k := { x.k with wait := none, tokWait := none } }
  else resumeLanes x

/-- The 2^24 cycles after which cause 0x12 is raised again run from the resume of the team that it held (spec/20 R371). -/
def noPreAgain (cl cyc : Nat) (x : Die) : Die :=
  { x with noPre := x.noPre.map fun e => if e.1 = cl then (cl, cyc) else e }

/-- A context of a resumed team that is not in handler state goes on with what it holds: relocations that its fault had suspended
(spec/21 R390), and the first of its held engine faults, unless one has held the team again (spec/20 R351, R354). -/
def afterHold (s : State) (c : Nat) : State :=
  if inHandler (s.ctx c) || teamHeld s c then s else takeHeld (unsuspend s c) c

/-- Resume a team held by a fault; after a divergence or a full region it runs unrecorded (spec/20 R361, spec/22 R399,
R400). A parcel that retired while it was held counts as arrived (spec/03 R60). Nothing where the team is not held. -/
def fltResume (s : State) (cl : Nat) : Option State :=
  match (s.cluster cl).team with
  | none => none
  | some t => match t.held with
    | none => none
    | some cause =>
      let cyc := s.cycle
      let s := modTeam s cl fun t =>
        { t with held := none, lastAct := cyc, recd := if cause = 0x43 || cause = 0x44 then none else t.recd }
      let s := s.modDie (dieOfCluster cl) (noPreAgain cl cyc)
      let s := (teamCtxs s cl).foldl (fun s c => maybeRetire (s.modCtx c (resumeHeld cause)) c) s
      some ((teamCtxs s cl).foldl afterHold (checkTeamBar s cl))

/-- End a team held by a fault: every parcel retires at its cut, without a new divergence, and the launch ends with the cause
(spec/20 R362, spec/22 R399). -/
def fltEnd (s : State) (cl : Nat) : Option State :=
  match (s.cluster cl).team with
  | none => none
  | some t => match t.held with
    | none => none
    | some cause =>
      let s := modTeam s cl fun t => { t with recd := none }
      let s := (teamCtxs s cl).foldl (fun s c =>
        if (s.ctx c).retired then s else retireParcel (drain s c) c) s
      let s := modTeam s cl fun t => { t with held := none, arrivals := [], waiting := none }
      some (endLaunch s t.launch cause)

/-- FLT_RESUME (spec/20 R361); a write that names no held team is refused at the CSRW. -/
def execFltResume (cl : Nat) (s : State) : Out3 := .next ((fltResume s cl).getD s)

/-- FLT_END (spec/20 R362). -/
def execFltEnd (cl : Nat) (s : State) : Out3 := .next ((fltEnd s cl).getD s)

/-! ## Resume points -/

/-- A write of FR_RESUMEn (spec/20 R353): the DETAIL of the first check that fails, or the new state. The supervisor may
write those of a held team (R361; by a supervisor: DEDUCED, log 34). -/
def frResumeWrite (s : State) (c : Nat) (ln : Lane) (v : Word) (held : Bool) : Nat × State :=
  let x := s.ctx c
  let old := vget x.frResume ln.num 0
  if !inHandler x && !held then (5, s)
  else if bitAt old 0 then (7, s)
  else if bits v.toNat 0 2 ≠ 0 then (2, s)
  else (0, s.setCtx c { x with
    frResume := vput x.frResume ln.num v
    resumeWritten := vput x.resumeWritten ln.num true })

/-- FR_RESUME_WRITE: a handler writes a resume point, or meets an illegal operation (spec/20 R353). -/
def execFrResumeWrite (c : Nat) (ln : Lane) (v : Word) (s : State) : Out3 :=
  match frResumeWrite s c ln v false with
  | (0, s) => .next s
  | (d, s) => .next (takeFault s c .k ⟨0x02, d, 0, wd (0x608 + ln.num)⟩ (wordAt s c))

/-! ## Pre-emption -/

/-- The instruction is a SEEDFIT. -/
def isSeedfit (i : Instr) : Bool :=
  match i with
  | .seedfit .. => true
  | _ => false

/-- The compute lane's cut at a pre-emption: dispatched instructions complete, but an uncommitted SEEDFIT is cancelled
with every later one (spec/20 R372), as is one that meets its fault. -/
def cutFrom (c : Nat) : Nat → State → State
  | 0, s => s
  | n + 1, s => match (s.ctx c).infl with
    | [] => s
    | j :: _ => if isSeedfit j.i || j.flt.isSome then unwindAll s c else cutFrom c n (commitOldest s c)

/-- A context in which no entry moves (spec/04 R90, R91). -/
def settleCtx (x : Ctx) : Ctx :=
  setOvf { x with stack := x.stack.map fun e => { e with res := e.res.settled, got := 0 } }

/-- A context at its cut. A lane that waits has not issued (spec/20 R352); of a team already held the resume points are those of
this cut (spec/20 R361, R372). Its entries stand where their moves end, the residence that the save keeps (spec/04 R91): none is
lifted from then on. -/
def cutCtx (s : State) (c : Nat) : State :=
  let s := giveBack (logStanding s c) c
  let s := (cutFrom c (s.ctx c).infl.length s).modCtx c settleCtx
  let stop := fun y : LaneSt => { y with wait := none, tokWait := none }
  let s := s.modCtx c fun x =>
    { x with k := stop x.k, l := stop x.l, cl := stop x.cl, sl := stop x.sl, monw := none, yielded := none }
  recut s c

/-- The size of a team's save region (spec/03 R64). -/
def saveSize (h : Header) : Nat :=
  h.team * (589824 + h.region) + 524288 * (teamCores h.team).length + h.cmem + 1024

/-- A write of PREEMPT_CTL (spec/03 R63, R64, spec/20 R373): the DETAIL of the illegal operation, or the new state
(DEDUCED, log 43). -/
def preemptGo (s : State) (d : Nat) (v : Word) : Nat × State :=
  let x := s.die d
  let cl := 16 * d + bits v.toNat 4 4
  let save := bits v.toNat 12 40 * 4096
  if bitAt x.preemptCtl 0 then (6, s)
  else if bits v.toNat 52 12 ≠ 0 || bits v.toNat 8 4 ≠ 0 || bits v.toNat 1 3 ≠ 0 then (2, s)
  else if !bitAt v 0 then (0, s.setDie d { x with preemptCtl := v })
  else match (s.cluster cl).team with
    | none => (2, s)
    | some t =>
      if hbmEnd < save + saveSize (s.launch t.launch).header then (2, s)
      else
        let s := s.setDie d { x with preemptCtl := v, saving := some cl }
        let s := modTeam s cl fun t => { t with saving := some (wd save) }
        (0, (teamCtxs s cl).foldl (fun s c => if (s.ctx c).retired then s else cutCtx s c) s)

/-- PREEMPT_GO (spec/03 R64); an illegal write is refused at the CSRW. -/
def execPreemptGo (d : Nat) (v : Word) (s : State) : Out3 := .next (preemptGo s d v).2

/-- Nothing of a context that the save waits for is under way (spec/03 R64). -/
def ctxQuiet (x : Ctx) : Bool :=
  x.kmiss.isNone && x.stores.isEmpty && x.infl.isEmpty && x.readSigs.isEmpty && x.lat.toList.all (fun l => !l.busy) &&
    x.strm.toList.all fun t => t.storing.isEmpty && t.arr.all fun e => match e.st with
      | .flight _ | .flightBad _ => false
      | .here _ | .bad _ | .retry => true

/-- The command waits in the copy engine for a suspended relocation to end: it is a CPYREL, or stands behind one (spec/05 R115, spec/10
R234). -/
def Cmd.behindReloc (x : Cluster) (k : Cmd) : Bool :=
  k.eng == .ce && k.phase == .queued && (x.cmds.any fun j => j.phase == .suspended) &&
    x.cmds.any fun j => j.op == .cpyrel && j.phase == .queued && decide (j.no ≤ k.no)

/-- The team on a cluster stands at its cut: reads have arrived, commands have completed, stamped ones included, but a
suspended relocation is saved, with the commands that wait for its end (spec/03 R64, spec/21 R390; DEDUCED, log 40). -/
def teamQuiet (s : State) (cl : Nat) : Bool :=
  (teamCtxs s cl).all (fun c => (s.ctx c).retired || ctxQuiet (s.ctx c)) &&
    !(s.cluster cl).cmds.any fun k => k.unended && !k.behindReloc (s.cluster cl)

/-- Bytes of a region whose layout is not architecture have been written (spec/03 R64; log 9). -/
def markLayout (s : State) (a n : Nat) : State :=
  { s with tags := FMap.insertRange s.tags (a / 16) ((n + 15) / 16) 0 }

/-- The team waits for its barrier's release before it resumes: it was pre-empted at the dispatcher's request, or held by
cause 0x12 (spec/03 R62, spec/20 R371; DEDUCED, log 42). -/
def untilOf (s : State) (d cl : Nat) (t : Team) : Option Nat :=
  let asked := match (s.die d).request with
    | some (k, _) => k == cl
    | none => false
  if asked || t.held == some 0x12 then t.waiting.map (·.2) else none

/-- What the save of the team on a cluster holds: the residence of its entries is that of the cut (spec/04 R91). -/
def savedOf (s : State) (d cl : Nat) (t : Team) (save : Word) : Saved where
  team := { t with saving := none, held := if t.held = some 0x12 then none else t.held }
  save := save
  ctxs := (teamCtxs s cl).map fun c => (parcelOf c, s.ctx c)
  cores := (teamCores t.size).map fun k => (k, s.core (64 * cl + k))
  cluster := s.cluster cl
  until_ := untilOf s d cl t

/-- A save enters the list of last saves in place of an older one of its team (spec/22 R408). -/
def keepLast (v : Saved) (l : List Saved) : List Saved :=
  l.filter (fun w => !(w.team.launch == v.team.launch && w.team.t == v.team.t)) ++ [v]

/-- Something that the save of a team reads holds an error that cannot be corrected: a stack image, a core space, cluster memory
(spec/20 R373, spec/21 R393). -/
def saveDamaged (s : State) (cl : Nat) (t : Team) : Bool :=
  ((teamCtxs s cl).any fun c => (s.ctx c).stack.any Entry.damaged) ||
  ((teamCores t.size).any fun k => !(s.core (64 * cl + k)).scratchBad.isEmpty) || marked (s.cluster cl).cmemBad 8 0 (cmemOf s t)

/-- A save fails: what it could write is written, GO clears and the team is held at the cut (spec/20 R373). -/
def saveFailed (s : State) (d cl : Nat) (t : Team) (save : Word) : State :=
  let s := markLayout s save.toNat (saveSize (s.launch t.launch).header)
  let s := modTeam s cl fun t => { t with saving := none }
  let s := s.modDie d fun x => { x with preemptCtl := putField x.preemptCtl 0 1 0, saving := none }
  holdWhole s cl ⟨0x0F, 0, 0, 0⟩

/-- A save completes: the team waits in the resumed-team position and its cluster is free (spec/03 R64, R65). -/
def saveDone (s : State) (d cl : Nat) (t : Team) (save : Word) : State :=
  let v := savedOf s d cl t save
  let s := markLayout s save.toNat (saveSize (s.launch t.launch).header)
  (vacate s cl).modDie d fun x =>
    { x with
      preemptCtl := putField x.preemptCtl 0 1 0
      saving := none
      resumed := x.resumed ++ [v]
      lastSaves := keepLast v x.lastSaves }

/-- PREEMPT_SAVE_COMPLETE: the save of a die completes, or fails on an uncorrectable error (spec/03 R64, spec/20
R373). -/
def execPreemptSaveComplete (d : Nat) (unc : Bool) (s : State) : Out3 :=
  match (s.die d).saving with
  | none => .next s
  | some cl => match (s.cluster cl).team with
    | none => .next s
    | some t =>
      if !teamQuiet s cl then .next s
      else if unc || saveDamaged s cl t then .next (saveFailed s d cl t (t.saving.getD 0))
      else .next (saveDone s d cl t (t.saving.getD 0))

end Sys2Proof.Machine
end

