-- ==== Sys2Proof/Machine/Debug.lean ====
section
/-! DEFINITION. Debug, trace and replay: DBG_CTL and stops (spec/14 R307-R310), triggers (R316, R317, spec/22 R405), samples
(spec/14 R314), the ring's read offset (spec/22 R402), replay's waits (R398), and the invalidation of translation caches
(spec/05 R103). -/

namespace Sys2Proof.Machine

/-! ## Stops -/

/-- A lane's position as DBG_HEAD shows it: a READ or WRITE whose tiles are still under way does not count as completed
(spec/14 R303). -/
def headOf (s : State) (c : Nat) (ln : Lane) : Word :=
  let x := s.ctx c
  let open_ := match ln with
    | .l => x.readSigs.length
    | .s => x.strm.toList.foldl (fun n t => n + (t.storing.filter (·.1)).length) 0
    | .k | .c => 0
  posOf s c ln - wd open_

/-- HALT stops the scope (spec/14 R307). -/
def dbgHalt (s : State) (c : Nat) : State := stopScope s c 1 0

/-- A stopped context runs again: a fault that the stop has recorded goes on, and those that have waited behind it are taken. -/
def runCtx (s : State) (c : Nat) : State :=
  let x := s.ctx c
  if !x.stopped then s
  else
    let s := s.setCtx c { x with stopped := false, stepLeft := 0, stepOld := 0, dbgStat := 0, dbgFlt := none, dbgNext := [] }
    let s := match x.dbgFlt with
      | none => maybeRetire s c
      | some (f, _, true) => superviseFault s c f
      | some (f, lane, false) =>
        passFault s c lane f x.frPos x.frWord (bitAt x.frCause 16) (bitAt x.frCause 17) (bitAt x.frCause 22)
    x.dbgNext.foldl takeTeamFault s

/-- RUN resumes the scope of the stop, which the stop has kept (spec/18 R346); a fault that the stop has recorded goes on to the
handler or the supervisor (spec/14 R308, spec/20 R351). -/
def dbgRun (s : State) (c : Nat) : State :=
  if !(s.ctx c).stopped then s
  else
    let scope := (s.ctx c).stopSc
    (scopeOf s c scope).foldl runCtx (runCtx s c)

/-- STEP lets the lane STEPL issue STEPN instructions; a K lane that stands in a MONW waits for its partner from the start
(spec/14 R310). -/
def dbgStep (s : State) (c : Nat) : State :=
  s.modCtx c fun x =>
    let n := bits x.dbgCtl.toNat 24 8
    let watches := bits x.dbgCtl.toNat 20 2 == 0 && x.monw.isSome
    if !x.stopped || n = 0 then x
    else { x with stepLeft := n, stepOld := if bits x.dbgCtl.toNat 20 2 = 2 then x.infl.length else 0, dbgStat := putField (putField x.dbgStat 0 4 0) 7 1 (if watches then 1 else 0) }

/-- DBG_HALT (spec/14 R307). -/
def execDbgHalt (c : Nat) (s : State) : Out3 := .next (dbgHalt s c)

/-- DBG_RUN (spec/14 R308). -/
def execDbgRun (c : Nat) (s : State) : Out3 := .next (dbgRun s c)

/-- DBG_STEP (spec/14 R310). -/
def execDbgStep (c : Nat) (s : State) : Out3 := .next (dbgStep s c)

/-- STEP_DONE: the stepped lane has completed its instructions and stops with REASON 6 (spec/14 R310). -/
def execStepDone (c : Nat) (s : State) : Out3 :=
  .next (s.modCtx c fun x =>
    if stepping x && x.stepLeft == 0 && x.kmiss.isNone && x.infl.isEmpty then
      { x with dbgStat := putField (putField x.dbgStat 0 4 6) 7 1 0 }
    else x)

/-- Everything that a stop lets complete has completed: dispatched instructions, reads, stores and the commands that had
started (spec/14 R307). -/
def stopFormed (s : State) (c : Nat) : Bool :=
  let x := s.ctx c
  x.infl.isEmpty && x.kmiss.isNone && x.stores.isEmpty && x.readSigs.isEmpty &&
    x.strm.toList.all (fun t => t.storing.isEmpty && t.arr.all fun e => match e.st with
      | .flight _ | .flightBad _ => false
      | .here _ | .bad _ | .retry => true) &&
    (isSup c || !(s.cluster (clusterOf c)).cmds.any fun k =>
      k.c == c && (k.phase == .running || k.phase == .pushing))

/-- STOP_FORMED: the cut of a stop is complete (spec/14 R307, R308). -/
def execStopFormed (c : Nat) (s : State) : Out3 :=
  if (s.ctx c).stopped && stopFormed s c then .next (s.modCtx c fun x => { x with dbgStat := putField x.dbgStat 6 1 0 })
  else .next s

/-- A breakpoint register of value `b` matches a lane that stands at `pc` with its head at `head`: its next word, which it is
about to issue (`issues`), or the head that it has reached (spec/14 R309). -/
def bpMatches (b : Word) (ln : Lane) (pc : Word) (head : Nat) (issues : Bool) : Bool :=
  bitAt b 63 && bits b.toNat 60 2 == ln.num &&
    (if bitAt b 62 then bits b.toNat 0 46 == head % 2 ^ 46 else issues && bits b.toNat 0 52 == pc.toNat)

/-- A breakpoint matches a lane of a running context, or the lane that a stopped one steps (spec/14 R309). -/
def breaks (s : State) (c : Nat) (ln : Lane) : Bool :=
  let x := s.ctx c
  let y := x.lane ln
  let head := y.head.toNat + (if ln = .c then x.infl.length else 0)
  let issues := !y.parked && !y.parking && (ln != .k || (x.kmiss.isNone && x.monw.isNone)) && (!x.stopped || steps x ln)
  bitAt x.dbgCtl 0 && !y.passBp && (!x.stopped || (stepping x && ln.num == bits x.dbgCtl.toNat 20 2)) &&
    x.dbgBp.toList.any fun b => bpMatches b ln y.pc head issues

/-- BREAKPOINT_MATCH: the scope stops with the lane's head at the matched instruction (spec/14 R309). -/
def execBreakpointMatch (c : Nat) (ln : Lane) (s : State) : Out3 :=
  if breaks s c ln then
    let s := s.modCtx c fun x => x.setLane ln { x.lane ln with passBp := true }
    .next (stopScope s c 2 0)
  else .next s

/-! ## Triggers -/

/-- TRIGGER_FIRE (spec/14 R316). -/
def execTriggerFire (c : Nat) (s : State) : Out3 := .next (sendTrigger s c)

/-- The latest GT at which a trigger of origin GT `t` is received: 440 ticks within the module, 2,200 more over a hop
(spec/14 R317; DEDUCED, log 49). -/
def triggerBound (own : Bool) (t : Nat) : Nat := t + (if own then 440 else 2640)

/-- A die takes a trigger: TRIG_LAST, the record, the end of its capture, and the stops that it asks for (spec/14
R317). -/
def receiveTrigger (s : State) (d : Nat) (org : Word) (t : Nat) (id : Byte) : State :=
  let s := s.modDie d fun x => { x with trigLast := wd t }
  let s := ringWrite s d 1 3 (leBytes 8 org.toNat ++ leBytes 8 t ++ [id])
  let s := s.modDie d fun x =>
    let e := t + 1024 * bits x.sbufCtl.toNat 16 16
    if bitAt x.sbufCtl 2 then { x with capEnd := some (min e (x.capEnd.getD e)) } else x
  ((FMap.keys s.ctxs).filter fun c => dieOf c == d && (s.ctx c).resident).foldl (fun s c =>
    if bitAt (s.ctx c).trigCtl 3 && bitAt (s.ctx c).dbgCtl 0 then stopScope s c 5 0 else s) s

/-- TRIGGER_RECEIVE: a trigger of the module that is on its way, or one of a peer, reaches a die; one that comes later
than its bound is discarded, as is one that the die has taken (spec/14 R317, spec/22 R405). A peer's GT leads by at most 32
ticks (spec/01 R13). -/
def execTriggerReceive (d : Nat) (org at_ : Word) (id : Byte) (s : State) : Out3 :=
  let x := s.die d
  let now := s.gtOf d
  let seen := (org, at_.toNat, id.toNat)
  let note := fun s : State => s.modDie d fun x =>
    { x with trigSeen := seen :: x.trigSeen.filter fun e => decide (now ≤ triggerBound false e.2.1) }
  match pickFirst (fun e : Word × Nat × Nat => e.1 == org && e.2.1 == at_.toNat && e.2.2 == id.toNat) x.trigIn with
  | some (_, rest) =>
    let s := s.setDie d { x with trigIn := rest }
    .next (if x.inReset || triggerBound true at_.toNat < now then s else receiveTrigger (note s) d org at_.toNat id)
  | none =>
    .next (if x.inReset || !x.inService || 4 ≤ d || now + 32 < at_.toNat || triggerBound false at_.toNat < now ||
        x.trigSeen.contains seen then s
      else receiveTrigger (note s) d org at_.toNat id)

/-- TRIGGER_ACK_TIMEOUT: 4,400 ticks after a trigger's origin a peer that has not acknowledged it is counted; one that the
trigger has reached at its sending or since has acknowledged it (spec/22 R403, R405). -/
def execTriggerAckTimeout (d : Nat) (l : Fin 32) (s : State) : Out3 :=
  let x := s.die d
  match pickFirst (fun e : Nat × Nat × Nat × Bool => e.1 == l.val && decide (e.2.2.1 + 4400 < s.gtOf d)) x.trigOut with
  | none => .next s
  | some ((_, peer, _, acked), rest) =>
    let lost := putField (satInc x.trigStat 0 16) 16 5 l.val
    .next (s.setDie d { x with trigOut := rest, trigStat := if acked || acknowledges s peer then x.trigStat else lost })

/-! ## Samples -/

/-- A counter record of a context (spec/14 R315). -/
def counterRecord (d : Nat) (s : State) (c : Nat) : State :=
  let x := s.ctx c
  let cnt := fun k : Nat => leBytes 8 (vget x.perfCnt k 0).toNat
  ringWrite s d 2 2 (leBytes 8 (posOf s c .k).toNat ++ cnt 0 ++ cnt 1 ++ leBytes 8 0 ++ cnt 2 ++ cnt 3)

/-- COUNTER_SAMPLE: every 2^PERIOD cycles a counter record for each context (spec/14 R314). -/
def execCounterSample (d : Nat) (s : State) : Out3 :=
  let x := s.die d
  let p := bits x.sbufCtl.toNat 32 5
  if p = 0 || !bitAt x.sbufCtl 0 || x.inReset || s.cycle < x.lastSample + 2 ^ p then .next s
  else
    let cyc := s.cycle
    let s := s.setDie d { x with lastSample := cyc }
    .next (((FMap.keys s.ctxs).filter fun c => dieOf c == d && (s.ctx c).resident && !(s.ctx c).retired).foldl
      (counterRecord d) s)

/-- A write of SBUF_RD: the DETAIL of the illegal operation, or the new state (spec/22 R402). -/
def sbufRdWrite (s : State) (d : Nat) (v : W32) : Nat × State :=
  let x := s.die d
  if v.toNat % 32 ≠ 0 || x.sbufLen.toNat ≤ v.toNat then (2, s) else (0, s.setDie d { x with sbufRd := v })

/-- SBUF_RD_WRITE (spec/22 R402); an illegal write is refused at the CSRW. -/
def execSbufRdWrite (d : Nat) (v : W32) (s : State) : Out3 := .next (sbufRdWrite s d v).2

/-! ## Replay -/

/-- The recorded event that a waiting queue of a team is to make, where it waits for one of lower SEQ (spec/14 R324). -/
def heldEvent (r : RecSt) (pos : Word) (since cycle : Nat) : Option SyncRec :=
  match r.events.find? fun e => sameQueue e.pos pos with
  | some e =>
    if posKey e.pos == posKey pos && decide (r.seq < e.seq) && decide (2 ^ 24 ≤ cycle - since) then some e else none
  | none => none

/-- The waits of a context's lanes, commands and kiln program: the issuing lane, the position, since when. -/
def waitsOf (s : State) (c : Nat) : List (Nat × Word × Nat) :=
  let x := s.ctx c
  ([Lane.k, .l, .c, .s].filterMap fun ln => (x.lane ln).wait.map fun w => (ln.num, posNext s c ln, w.since)) ++
    (engineWaits (s.cluster (clusterOf c)) (clusterOf c) c).map fun w => (0, w.1, w.2.since)

/-- REPLAY_WAIT_TIMEOUT: an event of a context has waited 2^24 cycles for one of lower SEQ (spec/22 R398). -/
def execReplayWaitTimeout (c : Nat) (s : State) : Out3 :=
  if isSup c then .next s
  else match recOf s (clusterOf c) with
    | none => .next s
    | some r =>
      if r.mode ≠ 2 || r.diverged then .next s
      else match (waitsOf s c).findSome? fun w => (heldEvent r w.2.1 w.2.2 s.cycle).map fun e => (w.1, e) with
        | some (lane, e) => .next (divergeAt s c lane e.pos 0x43 7 e.seq e.value)
        | none => .next s

/-! ## Invalidation of translation caches -/

/-- A cached translation matches an invalidation (spec/05 R103). -/
def invalidates (v : Word) (mode : Nat) (t : TlbEnt) : Bool :=
  let asid := bits v.toNat 0 12
  let va := bits v.toNat 12 40 * 4096
  match mode with
  | 0 => true
  | 1 => t.asid == asid
  | _ => t.hits asid va

/-- A write of TLB_INV_CTL (spec/05 R103): the DETAIL of the illegal operation, or the new state. -/
def tlbInvStart (s : State) (d : Nat) (v : W32) : Nat × State :=
  let x := s.die d
  if bitAt x.tlbInvCtl 0 then (6, s)
  else if bits v.toNat 3 29 ≠ 0 || bits v.toNat 1 2 = 3 then (2, s)
  else if bitAt v 0 then (0, s.setDie d { x with tlbInvCtl := v, tlbCap := some (x.tlbInv, bits v.toNat 1 2) })
  else (0, s.setDie d { x with tlbInvCtl := v })

/-- TLB_INV_START (spec/05 R103); an illegal write is refused at the CSRW. -/
def execTlbInvStart (d : Nat) (v : W32) (s : State) : Out3 := .next (tlbInvStart s d v).2

/-- TLB_INV_COMPLETE: no translation cache of the device holds a matching entry, and BUSY reads 0 (spec/05 R103). -/
def execTlbInvComplete (d : Nat) (s : State) : Out3 :=
  match (s.die d).tlbCap with
  | none => .next s
  | some (v, mode) =>
    let keep := fun l : List TlbEnt => l.filter fun t => !invalidates v mode t
    let coreOnly := fun e : Nat × CoreSt => (e.1, { e.2 with tlb := keep e.2.tlb })
    let clusterOnly := fun e : Nat × Cluster => (e.1, { e.2 with tlb := keep e.2.tlb })
    let s := { s with cores := s.cores.map coreOnly, clusters := s.clusters.map clusterOnly }
    .next (s.modDie d fun x => { x with tlbInvCtl := putField x.tlbInvCtl 0 1 0, tlbCap := none })

end Sys2Proof.Machine
end

