-- ==== Sys2Proof/Machine/Csr.lean ====
section
/-! DEFINITION. The system registers: CSRR and CSRW (spec/09 R212-R215), with what a write of each register does. -/

namespace Sys2Proof.Machine

/-! ## Numbers -/

/-- Who may write a register (spec/09 R213). -/
inductive CsrAccess where
  | ro
  | rw
  | sup
  /-- FR_RESUME0 to FR_RESUME3 (spec/20 R353). -/
  | resume
  deriving DecidableEq, Repr

/-- The access of an assigned number (spec/09 R213, spec/14 R305, spec/20 R355, spec/21 R379, R394, spec/22 R403). -/
def csrAccess (n : Nat) : CsrAccess :=
  let within := fun lo hi : Nat => decide (lo ≤ n) && decide (n ≤ hi)
  if within 0x010 0x012 || within 0x014 0x017 || within 0x60C 0x60F || n = 0x618 || within 0x720 0x727 || n = 0x730 then .rw
  else if within 0x400 0x41F || within 0x610 0x614 || within 0x620 0x622 || n = 0x700 || within 0x706 0x717 ||
      within 0x740 0x742 || n = 0x744 || within 0x750 0x752 then .sup
  else if within 0x608 0x60B then .resume
  else .ro

/-- MERR_LAST is listed as written by supervisors, and all its fields are read-only (spec/21 R394). -/
def supReadOnly (n : Nat) : Bool := n == 0x615

/-- The registers 32 bits wide. -/
def csrNarrow (n : Nat) : Bool :=
  let within := fun lo hi : Nat => decide (lo ≤ n) && decide (n ≤ hi)
  within 0x000 0x001 || within 0x008 0x010 || n == 0x012 || within 0x014 0x017 || within 0x020 0x021 || n == 0x401 ||
    within 0x410 0x41F || within 0x611 0x612 || within 0x621 0x622 || n == 0x706 || within 0x720 0x723 || n == 0x730 ||
    within 0x742 0x744 || within 0x752 0x753

/-- The context whose register a CSRR or CSRW of `c` reaches: in the ranges of the fault record and of debug and trace a
supervisor context reaches the one that DBG_SEL names, but for DBG_SEL itself (spec/14 R305, spec/20 R355). -/
def csrTarget (s : State) (c n : Nat) : Nat :=
  if isSup c && 0x600 ≤ n && n ≠ 0x706 then bits (s.ctx c).dbgSel.toNat 2 14 else c

/-- A register that a supervisor context, which runs no parcel and stands in no cluster, has none of. -/
def parcelOnly (n : Nat) : Bool := n == 0 || n == 3 || n == 4 || (8 ≤ n && n ≤ 0xF) || (0x30 ≤ n && n ≤ 0x32)

/-! ## Reading -/

/-- LATCH_STAT (spec/09 R195). -/
def latchStat (x : Ctx) : Word :=
  let f := fun (p : Latch → Bool) => (List.range 4).foldl (fun n k =>
    if p (vget x.lat k ⟨0, false, false, none⟩) then n + 2 ^ k else n) 0
  wd (f Latch.valid + 16 * f Latch.busy)

/-- DEV_SHAPE (spec/01 R9). -/
def devShape : Word := wd (2 * 2 ^ 26 + 4 * 2 ^ 22 + 6 * 2 ^ 18 + 3 * 2 ^ 16 + 16 * 2 ^ 11 + 512)

/-- A register that belongs to a context, from its own state. -/
def csrOfCtx (x : Ctx) (n : Nat) : Word :=
  match n with
  | 0x003 => x.teamId
  | 0x004 => x.larg
  | 0x010 => x.cvtCtl.zeroExtend 64
  | 0x011 => x.cvtSr
  | 0x012 => x.cvtStat.zeroExtend 64
  | 0x018 => latchStat x
  | 0x020 => x.cDepth.zeroExtend 64
  | 0x021 => x.cRes.zeroExtend 64
  | 0x022 => x.ovfBase
  | 0x023 => x.ovfPtr
  | 0x024 => x.ovfLimit
  | 0x403 => x.ptRoot
  | 0x600 => x.frCause
  | 0x601 => x.frPos
  | 0x602 => x.frWord
  | 0x603 => x.frAddr
  | 0x604 => x.frInfo
  | 0x618 => x.discStat
  | 0x700 => x.dbgCtl
  | 0x701 => x.dbgStat
  | 0x706 => x.dbgSel.zeroExtend 64
  | 0x730 => x.trigCtl.zeroExtend 64
  | n =>
    if n < 0x00C then (vget x.lix (n - 8) 0).zeroExtend 64
    else if n < 0x010 then (vget x.lex (n - 0xC) 0).zeroExtend 64
    else if n < 0x018 then (vget x.am (n - 0x14) 0).zeroExtend 64
    else if n < 0x60C then vget x.frResume (n - 0x608) 0
    else if n < 0x610 then vget x.frScr (n - 0x60C) 0
    else if n < 0x710 then vget x.dbgBp (n - 0x708) 0
    else if n < 0x724 then (vget x.perfSel (n - 0x720) 0).zeroExtend 64
    else vget x.perfCnt (n - 0x724) 0

/-- A register that belongs to a cluster. -/
def csrOfCluster (x : Cluster) (n : Nat) : Word :=
  match n with
  | 0x030 => x.fwdOld
  | 0x031 => x.fwdNew
  | 0x032 => x.fwdStat
  | 0x621 => x.wpOvf.zeroExtend 64
  | n => if n < 0x714 then vget x.wpBase (n - 0x710) 0 else vget x.wpCtl (n - 0x714) 0

/-- A register that belongs to a die. -/
def csrOfDie (x : Die) (n : Nat) : Word :=
  match n with
  | 0x400 => x.tlbInv
  | 0x401 => x.tlbInvCtl.zeroExtend 64
  | 0x402 => x.preemptCtl
  | 0x404 => x.brBase
  | 0x405 => x.brLen
  | 0x610 => x.fqBase
  | 0x611 => x.fqLen.zeroExtend 64
  | 0x612 => x.fltCtl.zeroExtend 64
  | 0x614 => x.merrCnt
  | 0x615 => x.merrLast
  | 0x620 => x.sbufDrop
  | 0x622 => x.trigStat.zeroExtend 64
  | 0x731 => x.trigLast
  | 0x740 => x.sbufCtl
  | 0x741 => x.sbufBase
  | 0x742 => x.sbufLen.zeroExtend 64
  | 0x743 => x.sbufWr.zeroExtend 64
  | 0x744 => x.sbufRd.zeroExtend 64
  | 0x750 => x.recCtl
  | 0x751 => x.recBase
  | 0x752 => x.recLen.zeroExtend 64
  | 0x753 => x.recWr.zeroExtend 64
  | n => (x.lq (n - 0x410)).cfg.zeroExtend 64

/-- The registers held per die (spec/09 R213, spec/14 R305, spec/20 R355, spec/21 R394, spec/22 R403)
(TLB_INV: DEDUCED, log 7). -/
def perDie (n : Nat) : Bool :=
  let within := fun lo hi : Nat => decide (lo ≤ n) && decide (n ≤ hi)
  within 0x400 0x402 || within 0x404 0x41F || within 0x610 0x615 || n == 0x620 || n == 0x622 || n == 0x731 ||
    within 0x740 0x753

/-- The registers held per cluster. -/
def perCluster (n : Nat) : Bool := (0x030 ≤ n && n ≤ 0x032) || n == 0x621 || (0x710 ≤ n && n ≤ 0x717)

/-- The lane whose position DBG_HEADn shows. -/
def headLane (n : Nat) : Lane :=
  match n with
  | 0x702 => .k
  | 0x703 => .l
  | 0x704 => .c
  | _ => .s

/-- The fields of a register that a supervisor context has none of; every other bit reads as zero (spec/01 R8, spec/03 R46,
spec/05 R115). -/
def definedBits (n : Nat) : Word :=
  if n = 3 then wd (2 ^ 26 - 1)
  else if n = 4 then wd (2 ^ 64 - 1)
  else if n < 0x10 then wd (2 ^ 16 - 1)
  else if n < 0x32 then wd (2 ^ 52 - 1)
  else wd (2 ^ 63 + 2 ^ 54 - 1)

/-- What a supervisor context reads in such a register: of CORE_ID its die is defined, of the others no field (spec/01 R8; log
24). -/
def supervisorRead (c n : Nat) : Word :=
  if n = 0 then wd (dieOf c * 2 ^ 14 + bits (Config.supervisorCsr n c).toNat 2 12 * 4)
  else Config.supervisorCsr n c &&& definedBits n

/-- The value that a CSRR of a context reads, zero-extended (spec/09 R212). -/
def csrRead (s : State) (c n : Nat) : Word :=
  let t := csrTarget s c n
  if isSup c && parcelOnly n then supervisorRead c n
  else if n = 0 then wd (4 * c)
  else if n = 1 then devShape
  else if n = 2 then wd (s.gtOf (dieOf c))
  else if 0x702 ≤ n && n ≤ 0x705 then headOf s t (headLane n)
  else if perDie n then csrOfDie (s.die (dieOf c)) n
  else if perCluster n then csrOfCluster (s.cluster (clusterOf t)) n
  else csrOfCtx (s.ctx t) n

/-- The reads that a recorded team logs (spec/14 R321). -/
def recordedRead (n : Nat) : Bool :=
  n == 0x002 || n == 0x018 || n == 0x020 || n == 0x021 || n == 0x032 || n == 0x743 || n == 0x753 || n == 0x011 ||
    n == 0x012 || (0x014 ≤ n && n ≤ 0x017) || n == 0x618

/-- CSRR (spec/09 R212). -/
def execCsrr (g : Guard) (d : XReg) (n : BitVec 12) (s : State) : Out3 :=
  kInstr (.csrr g d n) g 4 [d] (fun c s =>
    let m := n.toNat
    let pos := posOf s c .k
    if recordedRead m then
      gated s c .k pos noPos 6 fun o =>
        let v := o.getD (csrRead s c m)
        noted s c .k pos noPos 6 v (.next (advance (s.modCtx c fun x => x.wx d v) c .k 4))
    else
      let v := csrRead s c m
      .next (advance (s.modCtx c fun x => x.wx d v) c .k 4)) s

/-! ## Writing -/

/-- What a write comes to: the DETAIL of an illegal operation (spec/20 R357), or 0 with the new state. -/
abbrev CsrWrite := Nat × State

/-- Some bit of the fields `(lo, n)` is set. -/
def anyBit (v : Word) (l : List (Nat × Nat)) : Bool := l.any fun f => bits v.toNat f.1 f.2 != 0

/-- Write where no reserved field is set (spec/09 R212). -/
def checked (s : State) (bad : Bool) (t : State) : CsrWrite := if bad then (2, s) else (0, t)

/-- A write of DBG_CTL (spec/14 R308). -/
def writeDbgCtl (s : State) (t : Nat) (v : Word) : CsrWrite :=
  let x := s.ctx t
  let halt := bitAt v 1
  let run := bitAt v 2
  let step := bitAt v 3
  let bad := anyBit v [(32, 32), (22, 2), (18, 2), (9, 7), (4, 4)] || bits v.toNat 16 2 == 3 ||
    (step && bits v.toNat 24 8 == 0) || ((step || run) && !x.stopped) || (step && run) || (step && halt) || (run && halt)
  let s1 := s.setCtx t { x with dbgCtl := putField v 1 3 0 }
  checked s bad (if halt then dbgHalt s1 t else if run then dbgRun s1 t else if step then dbgStep s1 t else s1)

/-- A write of DBG_BPn (spec/14 R309). -/
def bpBad (v : Word) : Bool :=
  anyBit v [(52, 8)] || (if bitAt v 62 then bits v.toNat 46 6 != 0 else bits v.toNat 0 2 != 0)

/-- A write of FLT_CTL (spec/20 R361). -/
def writeFltCtl (s : State) (d : Nat) (v : Word) : CsrWrite :=
  let cl := 16 * d + bits v.toNat 4 4
  let keep := fun t : State => t.modDie d fun x => { x with fltCtl := BitVec.ofNat 32 (bits v.toNat 4 4 * 16) }
  if anyBit v [(8, 24), (2, 2)] then (2, s)
  else match bits v.toNat 0 2 with
    | 1 => match fltResume s cl with
      | some t => (0, keep t)
      | none => (2, s)
    | 2 => match fltEnd s cl with
      | some t => (0, keep t)
      | none => (2, s)
    | _ => (2, s)

/-- A SLOTS value of FQ_LEN: 0, or a power of two from 64 to 4,096 (spec/20 R359). -/
def slotsOk (n : Nat) : Bool := n == 0 || n == 64 || n == 128 || n == 256 || n == 512 || n == 1024 || n == 2048 || n == 4096

/-- A write of REC_CTL: recording starts at the region's beginning (spec/14 R320; DEDUCED, log 25). -/
def writeRecCtl (x : Die) (v : Word) : Die :=
  if bits x.recCtl.toNat 0 2 = 0 && bits v.toNat 0 2 = 1 then { x with recCtl := v, recWr := 0, recFull := false }
  else { x with recCtl := v }

/-- A write of a register held per die. The pool registers take effect at the die's next placement (spec/04 R76). -/
def writeDie (s : State) (d n : Nat) (v : Word) : CsrWrite :=
  let x := s.die d
  let v32 : W32 := v.truncate 32
  match n with
  | 0x400 => if bitAt x.tlbInvCtl 0 then (6, s) else checked s (anyBit v [(52, 12)]) (s.setDie d { x with tlbInv := v })
  | 0x401 => tlbInvStart s d v32
  | 0x402 => preemptGo s d v
  | 0x404 => checked s (anyBit v [(52, 12), (6, 10)]) (s.setDie d { x with brBase := v })
  | 0x405 => checked s (anyBit v [(20, 44)] || v.toNat % 16 != 0) (s.setDie d { x with brLen := v })
  | 0x610 => checked s (anyBit v [(52, 12), (6, 6)]) (s.setDie d { x with fqBase := v })
  | 0x611 => checked s (!slotsOk v.toNat) (s.setDie d { x with fqLen := v32, fqFull := none })
  | 0x612 => writeFltCtl s d v
  | 0x614 => (0, s.setDie d { x with merrCnt := v })
  | 0x620 => (0, s.setDie d { x with sbufDrop := v })
  | 0x622 => checked s (anyBit v [(21, 11)]) (s.setDie d { x with trigStat := v32 })
  | 0x740 => checked s (anyBit v [(37, 27), (8, 8)]) (s.setDie d { x with sbufCtl := v, capEnd := none })
  | 0x741 => if bitAt x.sbufCtl 0 then (6, s) else checked s (anyBit v [(52, 12), (6, 6)]) (s.setDie d { x with sbufBase := v })
  | 0x742 => if bitAt x.sbufCtl 0 then (6, s) else checked s (v.toNat % 4096 != 0) (s.setDie d { x with sbufLen := v32 })
  | 0x744 => sbufRdWrite s d v32
  | 0x750 => checked s (anyBit v [(2, 62)] || v.toNat == 3) (s.setDie d (writeRecCtl x v))
  | 0x751 =>
    if bits x.recCtl.toNat 0 2 ≠ 0 then (6, s)
    else checked s (anyBit v [(52, 12), (6, 6)]) (s.setDie d { x with recBase := v })
  | 0x752 =>
    if bits x.recCtl.toNat 0 2 ≠ 0 then (6, s)
    else checked s (v.toNat % 4096 != 0) (s.setDie d { x with recLen := v32 })
  | n =>
    checked s (anyBit v [(11, 21)] || v.toNat == 0 || 1024 < v.toNat)
      (s.setDie d (x.modQ (n - 0x410) fun q => { q with cfg := v32 }))

/-- A write of a register held per cluster. -/
def writeCluster (s : State) (cl n : Nat) (v : Word) : CsrWrite :=
  let x := s.cluster cl
  if n = 0x621 then checked s (anyBit v [(20, 12)]) (s.setCluster cl { x with wpOvf := v.truncate 32 })
  else if n < 0x714 then
    checked s (anyBit v [(52, 10)] || 2 ≤ bits v.toNat 62 2) (s.setCluster cl { x with wpBase := vput x.wpBase (n - 0x710) v })
  else
    checked s (anyBit v [(1, 1), (3, 5), (24, 8), (44, 20)]) (s.setCluster cl { x with wpCtl := vput x.wpCtl (n - 0x714) v })

/-- A write of TRIG_CTL; FIRE sends the trigger (spec/14 R316). -/
def writeTrigCtl (s : State) (t : Nat) (v : Word) : CsrWrite :=
  let s1 := s.modCtx t fun x => { x with trigCtl := putField (v.truncate 32) 0 1 0 }
  checked s (anyBit v [(12, 20)]) (if bitAt v 0 then sendTrigger s1 t else s1)

/-- A write of a register held per context. -/
def writeCtx (s : State) (t n : Nat) (v : Word) : CsrWrite :=
  let x := s.ctx t
  let v32 : W32 := v.truncate 32
  match n with
  | 0x010 => checked s (anyBit v [(15, 17), (11, 1)] || 5 ≤ bits v.toNat 8 3) (s.setCtx t { x with cvtCtl := v32 })
  | 0x011 => (0, s.setCtx t { x with cvtSr := v })
  | 0x012 => checked s (anyBit v [(3, 29)]) (s.setCtx t { x with cvtStat := v32 })
  | 0x403 => checked s (anyBit v [(52, 12)]) (s.setCtx t { x with ptRoot := v })
  | 0x618 => checked s (anyBit v [(48, 16), (4, 12)]) (s.setCtx t { x with discStat := v })
  | 0x700 => writeDbgCtl s t v
  | 0x706 => checked s (anyBit v [(16, 16), (0, 2)]) (s.setCtx t { x with dbgSel := v32 })
  | 0x730 => writeTrigCtl s t v
  | n =>
    if n < 0x018 then (0, s.setCtx t { x with am := vput x.am (n - 0x14) v32 })
    else if n < 0x610 then (0, s.setCtx t { x with frScr := vput x.frScr (n - 0x60C) v })
    else if n < 0x710 then checked s (bpBad v) (s.setCtx t { x with dbgBp := vput x.dbgBp (n - 0x708) v })
    else if n < 0x724 then
      checked s (anyBit v [(12, 20)] || 0xC ≤ bits v.toNat 0 8) (s.setCtx t { x with perfSel := vput x.perfSel (n - 0x720) v32 })
    else (0, s.setCtx t { x with perfCnt := vput x.perfCnt (n - 0x724) v })

/-- A write of a register once its access allows it. `c` is the writer, `t` the context that the register belongs to. -/
def writeAllowed (s : State) (c t n : Nat) (v : Word) : CsrWrite :=
  if perDie n then writeDie s (dieOf c) n v
  else if perCluster n then writeCluster s (clusterOf t) n v
  else writeCtx s t n v

/-- The lane of an FR_RESUMEn. -/
def resumeLn (n : Nat) : Lane :=
  match n with
  | 0x608 => .k
  | 0x609 => .l
  | 0x60A => .c
  | _ => .s

/-- A CSRW of a context (spec/09 R212): read-only registers, then excluded contexts, then the register's own checks. -/
def csrWrite (s : State) (c n : Nat) (w : Word) : CsrWrite :=
  let v := if csrNarrow n then wd (bits w.toNat 0 32) else w
  let t := csrTarget s c n
  match csrAccess n with
  | .ro => if supReadOnly n && !isSup c then (3, s) else (1, s)
  | .rw => writeAllowed s c t n v
  | .sup => if isSup c then writeAllowed s c t n v else (3, s)
  | .resume => frResumeWrite s t (resumeLn n) v (isSup c && isHeld s (clusterOf t))

/-- CSRW (spec/09 R212). -/
def execCsrw (g : Guard) (a : XReg) (n : BitVec 12) (s : State) : Out3 :=
  kInstr (.csrw g a n) g 4 [a] (fun c s =>
    match csrWrite s c n.toNat ((s.ctx c).rx a) with
    | (0, s) => .next (advance s c .k 4)
    | (d, s) => .next (takeFault s c .k ⟨0x02, d, 0, wd n.toNat⟩ (wordOf (.csrw g a n)))) s

end Sys2Proof.Machine
end

