-- ==== Sys2Proof/Machine/Host.lean ====
section
/-! DEFINITION. The host: boot (spec/15 R337, R338, spec/22 R413), the launch journal (R331-R336, spec/22 R411, R412), keys
and attestation (R339, R340), resets and wiping (R341), accesses from outside (R328-R331), hold-up (R342, R411). -/

namespace Sys2Proof.Machine

/-! ## The endpoint and the ports -/

/-- The die that holds the PCI Express endpoint, the boot ROM and the host-service program (spec/01 R7, spec/15 R329, R337). -/
def endpointDie : Nat := 0

/-- The die to which a Rhaold port belongs (spec/01 R7). -/
def portDie (l : Fin 32) : Fin 4 := ⟨l.val / 8, by omega⟩

/-! ## Boot -/

/-- Where the host window begins in the physical map (spec/15 R327). -/
def hostBase : Nat := 2 ^ 40

/-- The largest firmware image (spec/15 R337). -/
def imageMax : Nat := 33554432

/-- The cells of the flash image region as the flash holds them: the bytes that are not erased. -/
def flashCells (s : State) : List (Nat × Byte) :=
  (s.flash.filter fun e => e.1 < imageMax).map fun e => (e.1, ~~~ e.2)

/-- The length of the flash image (spec/15 R337; log 12). -/
def imageBytes (s : State) : Nat := Config.imageLength (flashCells s)

/-- The checks of spec/15 R337 on an image, in its order: 0, or the code of the first that fails (spec/22 R413). -/
def imageVerdict (bs : List Byte) : Nat :=
  if Config.shake256 (Config.imageKey bs) ≠ Config.fusedKeyHash then 1
  else if Config.imageVersion bs < Config.fusedVersion then 2
  else if !Config.imageSigned bs then 3
  else 0

/-- A supervisor core at the firmware's start. A launch of the host-service program that a reset of its die found on the way goes on
(spec/15 R336). -/
def startSup (s : State) (c : Nat) : State :=
  s.setCtx c
    { Ctx.init with resident := true, k := { LaneSt.init with pc := Config.firmwareStart c }, launching := (s.ctx c).launching }

/-- Start an image that has been verified: it is copied to HBM under key slot 0 and runs on D0.SP0, with BOOT 2; its
measurement and its security version are those of the running image (spec/15 R337, R340). -/
def startImage (s : State) (bs : List Byte) : State :=
  let s := startSup (writePhys s 0 Config.firmwareBase bs) (16384 + 4 * endpointDie)
  { s with svc := { s.svc with boot := 2, image := some (Config.shake256 bs, (Config.imageVersion bs).val) } }

/-- The firmware starts the supervisor cores that wait, once D0.SP0 runs it; the manual names no instruction that does (DESIGN
CHOICE, log 11). -/
def startOthers (s : State) : State :=
  if s.svc.boot == 2 && (s.ctx 16384).k.head != 0 then
    (List.range 16).foldl (fun s k =>
      if (s.ctx (16384 + k)).resident || (s.die (k / 4)).inReset then s else startSup s (16384 + k)) s
  else s

/-- A boot or a recovery fails: BOOT 1 and the failure's code (spec/22 R413). -/
def bootFail (s : State) (e : Nat) : State := { s with svc := { s.svc with boot := 1, berr := e } }

/-- The boot ROM: it loads slot 0 from the fused device key, and the flash image runs, or the recovery loader waits (spec/15
R337-R339, spec/22 R413). A flash that a failed write has left without a valid image is one. -/
def bootRom (s : State) : State :=
  let s := { s with keys := s.keys.set 0 ⟨some Config.deviceKey⟩ }
  let n := imageBytes s
  let bs := flashRead s 0 n
  let fresh := s.fresh
  let s := { s with fresh := fresh + 1 }
  if !Config.flashReads fresh then bootFail s 5
  else if n = 0 || imageMax < n then bootFail s 4
  else if s.flashBad then bootFail s ((Config.brokenImage fresh).val + 1)
  else match imageVerdict bs with
    | 0 => startImage s bs
    | e => bootFail s e

/-- The CRC of a log entry holds, and it is not erased (spec/22 R411). -/
def entryOk (bs : List Byte) : Bool :=
  bs.any (fun b => b != 0xFF) && leNat (bs.drop 124) == (crc32 (bs.take 124)).toNat

/-- The entries of the journal log in the flash, up to the first that fails (spec/22 R411). -/
def readLog (s : State) : Nat → Nat → List (BitVec 512 × Nat)
  | 0, _ => []
  | n + 1, k =>
    let bs := flashRead s (journalBase + 128 * k) 128
    if entryOk bs then (BitVec.ofNat 512 (leNat (bs.take 64)), leNat ((bs.drop 64).take 1)) :: readLog s n (k + 1) else []

/-- SEQ of a journal record (spec/15 R332). -/
def recSeq (r : BitVec 512) : Nat := bits r.toNat 0 64

/-- Take up the journal log at boot: NEXT is the lowest SEQ in it (spec/22 R412). -/
def takeLog (s : State) : State :=
  let l := readLog s 4096 0
  match l with
  | [] => s
  | r :: rest =>
    let low := rest.foldl (fun m x => min m (recSeq x.1)) (recSeq r.1)
    { s with svc := { s.svc with logged := l, next := wd low } }

/-- Every register and table as after reset; what survives is the flash, the life-cycle state and the host's memory
(spec/15 R341). -/
def afterReset (s : State) : State :=
  let w := wipeAll s
  { State.reset with
    turn := s.turn, agenda := s.agenda, fresh := s.fresh, cycle := s.cycle
    mem := w.mem, keys := w.keys, flash := s.flash, flashBad := s.flashBad, life := s.life, nextId := s.nextId }

/-- MODULE_RESET: memories and key slots are wiped and the boot ROM runs (spec/15 R337, R341). Accepted records that no
hold-up and no fatal error has committed are committed first, so that each is reported (spec/15 R336; DEDUCED, log 44). -/
def execModuleReset (s : State) : Out3 :=
  let s := if s.holdUp || s.svc.boot == 3 then s else commitJournal s
  .next (takeLog (bootRom (afterReset s)))

/-! ## The recovery loader -/

/-- A write of IMGLEN makes the recovery loader load, verify, store and start an image (spec/15 R338, spec/22 R413). -/
def recoveryLoad (s : State) : State :=
  if s.svc.boot ≠ 1 then s
  else
    let len := s.svc.imglen.toNat
    let fresh := s.fresh
    let bs := s.mem.load (hostBase + s.svc.img.toNat) len
    let s := { s with fresh := fresh + 1 }
    if len = 0 || imageMax < len then bootFail s 4
    else if !Config.hostReads fresh then bootFail s 6
    else match imageVerdict bs with
      | 0 =>
        if Config.flashWrites fresh then startImage (flashWrite { s with flashBad := false } 0 bs) bs
        else
          let s := startImage { s with flashBad := true } bs
          { s with svc := { s.svc with berr := 7 } }
      | e => bootFail s e

/-- IMGLEN is written: it is kept, and the recovery loader, where it waits, loads (spec/15 R331, R338). -/
def imglenWrite (s : State) (len : Nat) : State :=
  recoveryLoad { s with svc := { s.svc with imglen := BitVec.ofNat 26 len } }

/-- RECOVERY_IMAGE_LOAD (spec/15 R338). -/
def execRecoveryImageLoad (len : Nat) (s : State) : Out3 := .next (imglenWrite s len)

/-! ## The journal -/

/-- The context in which the host-service program runs (spec/15 R335): the first supervisor core of D0. -/
def svcCtx : Nat := 16384 + 4 * endpointDie

/-- Physical address of the slot of record `n` (spec/15 R332). -/
def recAddr (v : Svc) (n : Nat) : Nat := hostBase + v.jbase.toNat + 64 * ((n - 1) % (max 1 v.nrec.toNat))

/-- Physical address of the status word of record `n` (spec/15 R334). -/
def statusAddr (v : Svc) (n : Nat) : Nat := hostBase + v.sbase.toNat + 16 * ((n - 1) % (max 1 v.nrec.toNat))

/-- Write the status word of record `n` (spec/15 R334). -/
def writeStatus (s : State) (n state reason : Nat) : State :=
  writePieces s (posOf s svcCtx .k) [(.phys (statusAddr s.svc n) 0 false, 8)]
    (leBytes 8 (n % 2 ^ 48 + state * 2 ^ 48 + reason * 2 ^ 56))

/-- A record has its final status: it leaves the mirror, and the flash log is erased once none of its entries is left
(spec/22 R412). -/
def finishRecord (s : State) (n state reason : Nat) : State :=
  let s := writeStatus s n state reason
  let had := !s.svc.logged.isEmpty
  let rest := s.svc.logged.filter fun r => recSeq r.1 ≠ n
  let s := { s with svc := { s.svc with mirror := s.svc.mirror.filter fun r => r.seq ≠ n, logged := rest } }
  if had && rest.isEmpty then eraseLog s else s

/-- Fields of a journal record (spec/15 R332). -/
def recHdr (r : BitVec 512) : Word := wd (bits r.toNat 64 64)
/-- ARG. -/
def recArg (r : BitVec 512) : Word := wd (bits r.toNat 128 64)
/-- ROOT. -/
def recRoot (r : BitVec 512) : Word := wd (bits r.toNat 192 64)
/-- QUEUE. -/
def recQueue (r : BitVec 512) : Nat := bits r.toNat 256 4
/-- STREAM. -/
def recStream (r : BitVec 512) : Nat := bits r.toNat 264 8
/-- SERIAL. -/
def recSerial (r : BitVec 512) : Bool := bits r.toNat 272 1 == 1

/-- A reserved field of a record is set (spec/15 R332), of its ROOT as PT_ROOT has them (spec/05 R95)
(DEDUCED, log 45). -/
def recReserved (r : BitVec 512) : Bool :=
  bits (recHdr r).toNat 52 12 != 0 || bits (recRoot r).toNat 52 12 != 0 || bits r.toNat 260 4 != 0 || bits r.toNat 273 15 != 0 ||
    bits r.toNat 288 192 != 0

/-- The record's CRC holds (spec/15 R332). -/
def recCrcOk (r : BitVec 512) : Bool := bits r.toNat 480 32 == (crc32 (leBytes 60 r.toNat)).toNat

/-- Read the header that a record names, under its ROOT (spec/15 R335). -/
def readRecHeader (s : State) (r : BitVec 512) : HeaderRead :=
  if (recHdr r).toNat % 64 ≠ 0 then .refused 10
  else readHeader (s.modCtx svcCtx fun x => { x with ptRoot := recRoot r }) svcCtx (recHdr r)

/-- NEXT moves past record `n`. -/
def nextAfter (s : State) (n : Nat) : State := { s with svc := { s.svc with next := wd (n + 1) } }

/-- The STATE of an accepted record: 5 where its header sets neither IDEM nor PREEMPT (spec/15 R335). -/
def acceptState (h : Header) : Nat := if h.idem || h.preempt then 1 else 5

/-- The status of record `n` is final: REFUSED, COMPLETED or FAILED (spec/15 R334). -/
def hasFinal (s : State) (n : Nat) : Bool :=
  let w := leNat (readPhys s 0 (statusAddr s.svc n) 8)
  bits w 0 48 == n % 2 ^ 48 && (bits w 48 8 == 2 || bits w 48 8 == 3 || bits w 48 8 == 4)

/-- Refuse record `n` with a reason (spec/15 R334, R335). -/
def refuseRecord (s : State) (n reason : Nat) : State := nextAfter (writeStatus s n 2 reason) n

/-- Check record `n` and accept or refuse it (spec/15 R335). A header read that meets 0x41 or 0x42, which the reasons of R334 do not
list, refuses with that code (DESIGN CHOICE, log 60). -/
def acceptRecord (s : State) (n : Nat) (r : BitVec 512) : State :=
  if !recCrcOk r then refuseRecord s n 0x14
  else if recReserved r then refuseRecord s n 0x15
  else match readRecHeader s r with
    | .wait => s
    | .refused _ => refuseRecord s n 0x0C
    | .flt _ f => refuseRecord s n f.cause
    | .ok s h =>
      let st := acceptState (Header.ofBits h.toNat)
      writeStatus { s with svc := { s.svc with mirror := s.svc.mirror ++ [⟨n, r, st, none⟩] } } n st 0

/-- An earlier accepted record of the stream is not yet done. -/
def streamBusy (s : State) (n : Nat) (r : BitVec 512) : Bool :=
  s.svc.mirror.any fun e => decide (e.seq < n) && recStream e.rec_ == recStream r

/-- The key of the launch that the host-service program makes for record `n`. -/
def recKey (n : Nat) : Word := wd (2 ^ 63 + n)

/-- A record has been launched; NEXT moves past it once its LAUNCH has completed (spec/15 R335). -/
def launchedRecord (s : State) (e : JRec) : State :=
  if (pendingLaunch s svcCtx (recKey e.seq)).isSome || e.seq < s.svc.next.toNat then s else nextAfter s e.seq

/-- Launch an accepted record, once SERIAL allows it (spec/15 R335, R336, spec/20 R370). -/
def launchRecord (s : State) (e : JRec) : State :=
  if recSerial e.rec_ && streamBusy s e.seq e.rec_ then s
  else match readRecHeader s e.rec_ with
    | .wait => s
    | .refused _ => nextAfter (finishRecord s e.seq 4 0x0C) e.seq
    | .flt _ f => nextAfter (finishRecord s e.seq 4 f.cause) e.seq
    | .ok s h =>
      let l := mkLaunch s h (recHdr e.rec_) (recArg e.rec_) (recRoot e.rec_) endpointDie (recQueue e.rec_) none
      if shareRefused s l then nextAfter (finishRecord s e.seq 4 0x0C) e.seq
      else
        let n := s.nextLaunch
        let s := startLaunch s svcCtx (recKey e.seq) l
        launchedRecord { s with svc := { s.svc with
          mirror := replaceWhere (fun (k : JRec) => k.seq == e.seq) (fun k => { k with launch := some n }) s.svc.mirror } } e

/-- The firmware runs and takes journal work: the journal has started, and the module is not in hold-up (spec/15 R331, R335,
spec/22 R411). -/
def serves (s : State) : Bool := s.svc.boot == 2 && s.svc.jen && !s.holdUp && !(s.die endpointDie).inReset

/-- Treat one entry of the log of a power loss: an idempotent launch is launched again, every other is FAILED; while the
header's read waits, so does the entry (spec/22 R412). -/
def recoverRecord (s : State) (r : BitVec 512) : State :=
  let n := recSeq r
  match readRecHeader s r with
  | .wait => s
  | .ok _ h =>
    if (Header.ofBits h.toNat).idem then
      { nextAfter s n with svc := { (nextAfter s n).svc with mirror := s.svc.mirror ++ [⟨n, r, 1, none⟩] } }
    else finishRecord (nextAfter s n) n 4 0x45
  | .refused _ | .flt .. => finishRecord (nextAfter s n) n 4 0x45

/-- The accepted record whose launch has still to be made or to reach every home die. -/
def toLaunch (s : State) : Option JRec :=
  s.svc.mirror.find? fun e => e.launch.isNone || (pendingLaunch s svcCtx (recKey e.seq)).isSome

/-- The first entry of the log of a power loss that has not been treated (spec/22 R412). -/
def toRecover (s : State) : Option (BitVec 512) :=
  (s.svc.logged.find? fun r => !(s.svc.mirror.any fun e => e.seq == recSeq r.1)).map (·.1)

/-- JOURNAL_RECORD: the oldest accepted record is launched, or else the next entry of the log of a power loss is treated, or
else the record of SEQ NEXT is taken, where the host has written it (spec/15 R335, spec/22 R412). A record that has its final status
from before a reset is passed over, since each is reported once (spec/15 R336; DEDUCED, log 58). -/
def execJournalRecord (s : State) : Out3 :=
  if !serves s then .next s
  else match toLaunch s with
    | some e => match pendingLaunch s svcCtx (recKey e.seq) with
      | some (n, hs) => .next (launchedRecord (goOnLaunch s svcCtx (recKey e.seq) n hs) e)
      | none => .next (launchRecord s e)
    | none => match toRecover s with
      | some r => .next (recoverRecord s r)
      | none =>
        let n := s.svc.next.toNat
        let r := BitVec.ofNat 512 (leNat (readPhys s 0 (recAddr s.svc n) 64))
        if recSeq r ≠ n then .next s
        else if hasFinal s n then .next (nextAfter s n)
        else if 4096 ≤ s.svc.mirror.length then .next s
        else .next (acceptRecord s n r)

/-- JEN is written: JBASE, NREC and SBASE are fixed, and the firmware serves the journal once it runs (spec/15 R331). -/
def journalEnable (s : State) : State := { s with svc := { s.svc with jen := true } }

/-- JOURNAL_ENABLE (spec/15 R331). -/
def execJournalEnable (s : State) : Out3 := .next (journalEnable s)

/-! ## Completion of a root launch -/

/-- Teams of a launch that have not ended: unplaced, placed, pre-empted or lost with a die. -/
def hasTeams (s : State) (n : Nat) : Bool :=
  ((List.range 4).any fun h => unplacedHome s n h) || !(liveTeams s n).isEmpty

/-- Every team of every launch of a root has ended (spec/03 R51). -/
def rootOver (s : State) (n : Nat) : Bool := (FMap.keys s.launches).all fun k => (s.launch k).root ≠ n || !hasTeams s k

/-- The cause that marks a launch to be run again from its journal record (spec/22 R408). -/
def replayMark : Nat := 0

/-- A launch has been reported. -/
def markReported (s : State) (n : Nat) : State := s.modLaunch n fun l => { l with reported := true }

/-- ROOT_LAUNCH_COMPLETE: the status of a complete root launch is written, COMPLETED in SEQ order within its stream, or
FAILED with its reason; a launch to be replayed goes back to its record (spec/03 R51, spec/15 R335, R336, spec/20 R362,
spec/22 R408). In hold-up and after a fatal error nothing is reported: the committed journal carries it (spec/22 R411); and
nothing while D0 is in reset, whose supervisor context runs the program (spec/15 R335, spec/22 R406). -/
def execRootLaunchComplete (n : Nat) (s : State) : Out3 :=
  let l := s.launch n
  if l.root ≠ n || l.reported || !rootOver s n || s.holdUp || s.svc.boot == 3 || (s.die endpointDie).inReset then
    .next s
  else match s.svc.mirror.find? fun e => e.launch == some n with
    | none => .next (markReported s n)
    | some e => match l.failed with
      | some cause =>
        if cause = replayMark then
          .next (markReported { s with svc := { s.svc with
            mirror := replaceWhere (fun (k : JRec) => k.seq == e.seq) (fun k => { k with launch := none }) s.svc.mirror } } n)
        else .next (markReported (finishRecord s e.seq 4 cause) n)
      | none => if streamBusy s e.seq e.rec_ then .next s else .next (markReported (finishRecord s e.seq 3 0) n)

/-! ## Keys, attestation, life cycle -/

/-- KEY_REQUEST: over IDE, a key that unwraps is loaded into a slot from 1 to 63 (spec/15 R339). -/
def execKeyRequest (slot : Fin 64) (blob : Nat) (s : State) : Out3 :=
  if s.svc.boot ≠ 2 || !s.svc.ide || slot = 0 then .next s
  else match Config.unwrapKey slot.val blob with
    | none => .next s
    | some k => .next { s with keys := s.keys.set slot ⟨some k⟩ }

/-- The mask of loaded key slots (spec/15 R340). -/
def keyMask (s : State) : Word :=
  wd ((List.range 64).foldl (fun n k => if (vget s.keys k ⟨none⟩).loaded then n + 2 ^ k else n) 0)

/-- The number of a life-cycle state. -/
def Life.num : Life → Nat
  | .manufacture => 0
  | .production => 1
  | .decommissioned => 2

/-- The attestation report of the running image for a nonce (spec/15 R340). -/
def reportOf (s : State) (nonce : BitVec 256) (image : BitVec 256 × Nat) : Report :=
  ⟨nonce, image.1, image.2, s.life.num, keyMask s,
    Config.attestationSign nonce image.1 image.2 s.life.num (keyMask s)⟩

/-- ATTESTATION_REQUEST: the report goes into the response bytes of the mailbox (spec/15 R331, R340; its bytes: log 12). -/
def execAttestationRequest (nonce : BitVec 256) (s : State) : Out3 :=
  match (if s.svc.boot = 2 then s.svc.image else none) with
  | none => .next s
  | some image =>
    let r := reportOf s nonce image
    let bs := (Config.reportBytes r.nonce r.measurement r.version r.life r.mask r.signature).take 512
    .next { s with svc := { s.svc with report := some r, req := s.svc.req.store 0 bs } }

/-- LIFE_CYCLE_CHANGE: to the next state, with a wipe that takes in the flash journal region, and in HBM the journal mirror and
the saves of teams (spec/15 R341). -/
def execLifeCycleChange (s : State) : Out3 :=
  let go := fun l : Life =>
    let s := wipeAll s
    Host.Outcome.next { eraseLog s with
      life := l
      svc := { s.svc with mirror := [], logged := [], commit := [], commitAt := 0 }
      dies := s.dies.map fun x => { x with resumed := [], lastSaves := [] } }
  match s.life with
  | .manufacture => go .production
  | .production => go .decommissioned
  | .decommissioned => .next s

/-! ## Power -/

/-- HOLD_UP: placement stops and the commit of the journal begins with an erased log; each further step of it writes one entry,
until the last or the end of the hold-up (spec/15 R342, spec/22 R411). -/
def execHoldUp (s : State) : Out3 :=
  if s.svc.boot == 3 then .next s
  else if !s.holdUp then
    let s := eraseLog s
    .next { s with holdUp := true, svc := { s.svc with commit := openRecords s, commitAt := 0 } }
  else match s.svc.commit with
    | [] => .next s
    | r :: rest =>
      let s := writeLog s s.svc.commitAt [r]
      .next { s with svc := { s.svc with commit := rest, commitAt := s.svc.commitAt + 1 } }

/-- HOLD_UP_END: power is gone, and with it what HBM, the SRAMs and the key slots held; entries that are not written stay
unwritten (spec/22 R411) (DEDUCED, log 44). -/
def execHoldUpEnd (s : State) : Out3 :=
  if !s.holdUp then .next s
  else
    let s := wipeAll s
    .next { s with svc := { Svc.init with next := s.svc.next } }

/-! ## Accesses from outside -/

/-- The mailbox registers by offset (spec/15 R331). -/
def mbReg (v : Svc) (a : Nat) : Word :=
  match a with
  | 0x000 => wd (v.boot % 4 + v.berr % 256 * 2 ^ 8)
  | 0x008 => v.jbase.zeroExtend 64
  | 0x010 => v.nrec.zeroExtend 64
  | 0x018 => v.sbase.zeroExtend 64
  | 0x020 => if v.jen then 1 else 0
  | 0x028 => v.next
  | 0x100 => v.img.zeroExtend 64
  | 0x108 => v.imglen.zeroExtend 64
  | _ => 0

/-- One byte of the mailbox; bytes that R331 does not name read as zero. -/
def mbByte (v : Svc) (a : Nat) : Byte :=
  if 0x200 ≤ a && a < 0x400 then v.req.byte (a - 0x200) else BitVec.ofNat 8 (bits (mbReg v (a / 8 * 8)).toNat (8 * (a % 8)) 8)

/-- `n` bytes of the mailbox. -/
def mbRead (v : Svc) (a n : Nat) : Nat := leNat ((List.range n).map fun k => mbByte v (a + k))

/-- A register of the mailbox after bytes have been written from `a`. -/
def mbMerge (v : Svc) (r a n : Nat) (w : Word) : Nat :=
  leNat ((List.range 8).map fun k =>
    if a ≤ r + k && r + k < a + n then BitVec.ofNat 8 (bits w.toNat (8 * (r + k - a)) 8) else mbByte v (r + k))

/-- A write of the mailbox reaches the word at `r`. -/
def mbHits (r a n : Nat) : Bool := decide (r < a + n) && decide (a < r + 8)

/-- A write of the mailbox reaches IMGLEN, bits [25:0] of the word at 0x108. -/
def hitsImglen (a n : Nat) : Bool := decide (0x108 < a + n) && decide (a < 0x10C)

/-- The request area after bytes have been written from mailbox offset `a`: those that lie in it. -/
def reqWrite (m : Memory) : Nat → List Byte → Memory
  | _, [] => m
  | a, b :: r => reqWrite (if 0x200 ≤ a && a < 0x400 then m.store (a - 0x200) [b] else m) (a + 1) r

/-- A write of the mailbox (spec/15 R331): the journal's place is fixed once JEN is set; JEN starts the journal, IMGLEN the
recovery loader. -/
def mbWrite (s : State) (a n : Nat) (w : Word) : State :=
  let v := s.svc
  let new := fun r : Nat => mbMerge v r a n w
  let free := !v.jen
  let v := { v with
    jbase := if free && mbHits 0x008 a n then BitVec.ofNat 40 (new 0x008) else v.jbase
    nrec := if free && mbHits 0x010 a n then BitVec.ofNat 18 (new 0x010) else v.nrec
    sbase := if free && mbHits 0x018 a n then BitVec.ofNat 40 (new 0x018) else v.sbase
    img := if mbHits 0x100 a n then BitVec.ofNat 40 (new 0x100) else v.img
    req := reqWrite v.req a (leBytes n w.toNat) }
  let s := { s with svc := v }
  let s := if mbHits 0x020 a n && new 0x020 % 2 = 1 then journalEnable s else s
  if hitsImglen a n then imglenWrite s (new 0x108 % 2 ^ 26) else s

/-- The answer to an access from outside. -/
def answer (s : State) (o : Option Word) : State := { s with svc := { s.svc with reply := o } }

/-- An access of HBM from outside under a key slot (spec/15 R328, R330). `all` says that every atomic is taken, as a base
die takes a peer's; PCIe carries FetchAdd, Swap and CAS (a refused access: DEDUCED, log 46). -/
def serveOutside (s : State) (a : HostAcc) (key : Nat) (all : Bool) : State :=
  let n := a.size.val
  let refused := answer s none
  if hbmEnd < a.addr + n || n = 0 || inPool s a.addr n || !(vget s.keys key ⟨none⟩).loaded then refused
  else if stackState s a.addr = 1 then s
  else if stackState s a.addr = 2 then refused
  else
    let old := leNat (readPhys s key a.addr n)
    let put := fun v : Nat => writePieces s noPos [(.phys a.addr key false, n)] (leBytes n v)
    let bad := marked s.poisoned 64 a.addr n
    let rmw := (n = 4 || n = 8) && decide (a.addr % n = 0) && !bad
    match a.op with
    | .read => answer s (if bad then none else some (wd old))
    | .write v => answer (put v.toNat) none
    | .atomic f v =>
      if rmw && (all || f = 0 || f = 8) then answer (put (atomicValue (0x80 + f.val) (8 * n) old (v.toNat % 2 ^ (8 * n)))) (some (wd old))
      else refused
    | .cas x v =>
      if rmw then answer (if old = x.toNat % 2 ^ (8 * n) then put v.toNat else s) (some (wd old)) else refused

/-- HOST_ACCESS: the host reads or writes the mailbox or HBM, under key slot 1; a stopped module answers nothing, and with
IDE enabled only its stream is served (spec/15 R329-R331, spec/22 R414). The endpoint stands on D0 (spec/01 R7). -/
def execHostAccess (a : HostAcc) (s : State) : Out3 :=
  if s.svc.boot = 3 || (s.svc.ide && !a.ide) then .next (answer s none)
  else if a.mailbox then
    match a.op with
    | .read => .next (answer s (some (wd (mbRead s.svc a.addr a.size.val))))
    | .write v => .next (answer (mbWrite s a.addr a.size.val v) none)
    | .atomic .. | .cas .. => .next (answer s none)
  else .next (serveOutside s a 1 false)

/-- PEER_ACCESS: an access that a peer sends over a trained link performs at the base die (spec/15 R327, R328). -/
def execPeerAccess (a : HostAcc) (s : State) : Out3 :=
  if s.svc.boot = 3 || !(s.links.toList.any Link.trained) then .next s
  else .next (serveOutside s a a.key.val true)

/-- IDE_ENABLE (spec/15 R329). -/
def execIdeEnable (s : State) : Out3 := .next { s with svc := { s.svc with ide := true } }

end Sys2Proof.Machine
end

