-- ==== Sys2Proof/Machine/Device.lean ====
section
/-! DEFINITION. Faults of the device: die resets (spec/22 R406-R408), HBM stacks (R409), links (R410), memory errors (spec/21
R392-R394), and the illegal-instruction step (spec/08 R166). -/

namespace Sys2Proof.Machine

/-! ## Messages at launch level -/

/-- The dies that run. -/
def liveDies (s : State) : List Nat := [0, 1, 2, 3].filter fun d => !(s.die d).inReset && (s.die d).inService

/-- A message that names no team (spec/22 R396). -/
def bareMsg (f : Flt) (hdr : Word) : FltMsg :=
  ⟨causeWord f 0 false false false false false, noPos, 0, f.addr, f.info, 0, putField (putField hdr 52 12 0) 52 8 0xFF⟩

/-- A message at launch level goes to the fault ring of every die in service (spec/22 R396). -/
def launchMsg (s : State) (f : Flt) (hdr : Word) : State := (liveDies s).foldl (fun s d => pushMsg s d (bareMsg f hdr)) s

/-! ## Die reset -/

/-- The teams that run on a die. -/
def teamsOn (s : State) (d : Nat) : List Team :=
  (List.range 16).filterMap fun k => (s.cluster (16 * d + k)).team

/-- Each launch once. -/
def distinct : List Nat → List Nat
  | [] => []
  | n :: r => if r.contains n then distinct r else n :: distinct r

/-- The die that takes over the queues of die `d`: the next in service, counting upward (spec/22 R407). -/
def heir (s : State) (d : Nat) : Option Nat := [(d + 1) % 4, (d + 2) % 4, (d + 3) % 4].find? fun e => (liveDies s).contains e

/-- The queues and the pre-empted teams of a lost die move behind those of another, whose PASS stays (spec/22 R407). -/
def inherit (x lost : Die) : Die :=
  { x with
    q := Vector.ofFn fun i : Fin 16 => { x.q[i] with ents := x.q[i].ents ++ lost.q[i].ents }
    resumed := x.resumed ++ lost.resumed }

/-- A die as its reset leaves it: registers at their reset values; messages not yet written, the saves in HBM and the list
of lost teams stay (spec/22 R406, R408, spec/20 R359; DEDUCED, log 26). -/
def resetDie (x : Die) (gt : Nat) (lost : List (Nat × Nat)) : Die :=
  { Die.init with
    gtOff := x.gtOff, lastSaves := x.lastSaves, msgs := x.msgs, msgN := x.msgN, placeSeq := x.placeSeq
    inReset := true, inService := x.inService, resetAt := gt, lost := x.lost ++ lost }

/-- What a reset of its die leaves of a context: of the host-service program's, how far its LAUNCH has come, which the journal
carries on (spec/15 R336; DEDUCED, log 58). -/
def ctxAfterReset (c : Nat) (x : Ctx) : Option Ctx :=
  if c = svcCtx && !x.launching.isEmpty then some { Ctx.init with launching := x.launching } else none

/-- Units of a die leave the tables: its SRAM is wiped. -/
def wipeDie (s : State) (d : Nat) : State :=
  { s with
    ctxs := s.ctxs.filterMap fun e => if dieOf e.1 = d then (ctxAfterReset e.1 e.2).map fun x => (e.1, x) else some e
    cores := s.cores.filter fun e => e.1 / 1024 ≠ d
    clusters := s.clusters.filter fun e => dieOfCluster e.1 ≠ d }

/-- Die `d` resets, for the reason that DETAIL gives (spec/22 R396, R397, R406, R407). Where no other die is in service, its queues and
pre-empted teams wait on it for its return (DEDUCED, log 58). DESIGN CHOICE (log 55): the endpoint, where D0 resets, and the die's
eight ports keep serving accesses while it is in reset, of which spec/01 R7 and R406 do not speak. -/
def dieReset (s : State) (d detail : Nat) : State :=
  if 4 ≤ d || (s.die d).inReset || s.svc.boot == 3 then s
  else
    let old := s.die d
    let lost := (teamsOn s d).map fun t => (t.launch, t.t)
    let s := wipeDie (s.setDie d (resetDie old s.gt lost)) d
    let s := s.modDie ((heir s d).getD d) fun x => inherit x old
    (distinct (lost.map (·.1))).foldl (fun s n => launchMsg s ⟨0x40, detail, (s.launch n).hdrAddr, wd d⟩ (s.launch n).hdrAddr) s

/-- DIE_WATCHDOG_EXPIRY (spec/22 R406). -/
def execDieWatchdogExpiry (d : Nat) (s : State) : Out3 := .next (dieReset s d 1)

/-- DIE_FABRIC_ERROR (spec/22 R406). -/
def execDieFabricError (d : Nat) (s : State) : Out3 := .next (dieReset s d 2)

/-- Every parcel of a team retires at its cut, without a report (spec/20 R362, spec/22 R408). -/
def endQuietly (s : State) (cl : Nat) : State :=
  let s := modTeam s cl fun t => { t with held := some (t.held.getD 0), recd := none }
  let s := (teamCtxs s cl).foldl (fun s c => if (s.ctx c).retired then s else retireParcel (drain s c) c) s
  modTeam s cl fun t => { t with held := none, arrivals := [], waiting := none }

/-- The launches that belong to a root. -/
def ofRoot (s : State) (n : Nat) : List Nat := (FMap.keys s.launches).filter fun k => (s.launch k).root == n

/-- The teams of a launch leave the machine: unplaced ones, pre-empted ones and, as R362 ends them, placed ones. -/
def withdraw (s : State) (n : Nat) : State :=
  let s := unqueue s n
  let s := { s with dies := s.dies.map fun x =>
    { x with
      resumed := x.resumed.filter fun v => v.team.launch ≠ n
      lastSaves := x.lastSaves.filter fun v => v.team.launch ≠ n
      lost := x.lost.filter fun e => e.1 ≠ n } }
  (launchClusters s n).foldl endQuietly s

/-- An idempotent launch is run again from its journal record once its teams have ended (spec/22 R408). -/
def replayRoot (s : State) (n : Nat) : State :=
  ((ofRoot s n).foldl withdraw s).modLaunch n fun l => { l with failed := some replayMark }

/-- The last save of a team, on whichever die it was made. -/
def lastSave (s : State) (n t : Nat) : Option Saved :=
  ((s.dies.toList.map Die.lastSaves).flatten).find? fun v => v.team.launch == n && v.team.t == t

/-- A lost team of a pre-emptible launch resumes from its last save, or starts again (spec/22 R408). -/
def recoverTeam (s : State) (d n t : Nat) : State :=
  match lastSave s n t with
  | some v => s.modDie d fun x => { x with resumed := x.resumed ++ [{ v with until_ := none }] }
  | none => s.modDie d fun x => enqueue x (s.launch n).queue ⟨n, t, 1⟩

/-- An accepted launch ends with a cause, with every launch that belongs to it (spec/20 R362, spec/03 R51). -/
def endRoot (s : State) (n cause : Nat) : State := (ofRoot s n).foldl (fun s k => endLaunch s k cause) s

/-- The firmware's treatment of one team that the reset of die `d` lost, as the header of the accepted launch declares (spec/22
R408); one that has been ended already, or is to be replayed, is so whatever its header declares (spec/15 R336). -/
def treatLost (d : Nat) (s : State) (e : Nat × Nat) : State :=
  let n := (s.launch e.1).root
  let r := s.launch n
  if r.failed.isSome then s
  else if r.header.idem then replayRoot s n
  else if r.header.preempt then recoverTeam s d e.1 e.2
  else endRoot s n 0x40

/-- DIE_RETURN: the die's global time agrees again, its supervisor cores start, and the launches that lost teams are
replayed, resumed or failed (spec/22 R406, R408). -/
def execDieReturn (d : Nat) (s : State) : Out3 :=
  let x := s.die d
  if 4 ≤ d || !x.inReset || s.svc.boot == 3 then .next s
  else
    let off := (s.die ((d + 1) % 4)).gtOff
    let s := s.setDie d { x with inReset := false, gtOff := off, lost := [] }
    let s := [0, 1, 2, 3].foldl (fun s n => startSup s (16384 + 4 * d + n)) s
    let s := x.lost.foldl (treatLost d) s
    .next ((distinct (x.lost.map (·.1))).foldl checkBars s)

/-- DIE_RESET_TIMEOUT: a die that has not returned within 1 s is a fatal error (spec/22 R406, R414). -/
def execDieResetTimeout (d : Nat) (s : State) : Out3 :=
  let x := s.die d
  .next (if x.inReset && decide (x.resetAt + tickSecond ≤ s.gt) && s.svc.boot != 3 then fatal s 0x83 else s)

/-! ## Stacks -/

/-- A message about a stack, on the ring of its die (spec/22 R396, R397, R409; DEDUCED, log 27). -/
def stackMsg (s : State) (k detail : Nat) : State := pushMsg s (k / 2) (bareMsg ⟨0x41, detail, 0, wd k⟩ 0)

/-- STACK_FAULT: the controller retrains the interface, and accesses wait (spec/22 R409). -/
def execStackFault (k : Fin 8) (s : State) : Out3 :=
  .next (if s.hbmStacks[k] = .up then { s with hbmStacks := s.hbmStacks.set k .retraining } else s)

/-- STACK_RETRAINED: accesses go on, and one message records the fault (spec/22 R409). -/
def execStackRetrained (k : Fin 8) (s : State) : Out3 :=
  .next (if s.hbmStacks[k] = .retraining then stackMsg { s with hbmStacks := s.hbmStacks.set k .up } k.val 1 else s)

/-- The cause that a context's record holds after a step, 0 where the step refuses. -/
def causeAfter (c : Nat) : Out3 → Nat
  | .next t => bits (t.ctx c).frCause.toNat 0 8
  | .fault _ | .refused _ => 0

/-- The accesses to memory of a lane's instruction, made now: those of a WRITE, an SLDB, a LAUNCH, an engine command or a start,
else the scalar access of K. -/
def accessNow (i : Instr) (c : Nat) (ln : Lane) (s : State) : Out3 :=
  let s := { s with turn := { s.turn with who := .lane c ln } }
  match i with
  | .write k n tk v => execWrite k n tk v s
  | .sldb g k a => execSldb g k a s
  | .launch g d a b => execLaunch g d a b s
  | .cpy g a w t e => execCpy g a w t e s
  | .cpyq g a w t e => execCpyq g a w t e s
  | .cpyrel g a w t e => execCpyrel g a w t e s
  | .kvapp g a w t e => execKvapp g a w t e s
  | .kvsel g a w t e => execKvsel g a w t e s
  | .kvatt g a w t e => execKvatt g a w t e s
  | .kvpre g a w t e => execKvpre g a w t e s
  | .selact g a w t e => execSelact g a w t e s
  | .xstart g a w t => execXstart g a w t s
  | _ => if ln = .k then perform noPos i c s else .next s

/-- The accesses of a kiln word, made now. -/
def kilnNow (i : Instr) (cl : Nat) (s : State) : Out3 :=
  let s := { s with turn := { s.turn with who := .kiln cl } }
  match i with
  | .xldW d a => execXldW d a s
  | .xldD d a => execXldD d a s
  | .xmove d a n => execXmove d a n s
  | .xmoveB8 d a => execXmoveB8 d a s
  | .xmoveB16 d a => execXmoveB16 d a s
  | .xpack d a => execXpack d a s
  | .xunpack d a => execXunpack d a s
  | .xconv d a n => execXconv d a n s
  | _ => .next s

/-- With a stack out of service, the fetch or the next instruction of a lane of a context would raise 0x41, whatever else the context
has recorded or is to take. -/
def lanePending (s : State) (c : Nat) (ln : Lane) : Bool :=
  let s := s.modCtx c fun x => { x with frCause := 0, dbgCtl := 0, dueFlt := none, dbgFlt := none, stores := [] }
  let pc := ((s.ctx c).lane ln).pc
  !((s.ctx c).lane ln).parked && match fetchWord s c pc with
    | .flt _ f => f.cause == 0x41
    | .wait => false
    | .word s w =>
      let lit := if ln = .k && hasLiteral w then fetchWord s c (pc + 4) else .word s 0
      match lit with
      | .flt _ f => f.cause == 0x41
      | .wait => false
      | .word s lit => match decode (.lane ln) w lit with
        | some i => causeAfter c (accessNow i c ln s) == 0x41
        | none => false

/-- A lane that waits for memory, or K's access whose reply is outstanding, has an access pending there. -/
def waitPending (s : State) (c : Nat) : Bool :=
  [Lane.k, .l, .c, .s].any fun ln =>
    (((s.ctx c).lane ln).wait.any (fun w => w.kind == 15) || (ln == .k && (s.ctx c).kmiss.isSome)) && lanePending s c ln

/-- A tile of a stream of a context, read now, meets a fault of the stack. -/
def tilePending (s : State) (c k tile : Nat) (must : Bool) : Bool :=
  match loadTile s c k tile must with
  | some (_, .flightBad f) => f.cause == 0x41
  | _ => false

/-- The stream of the READ that an L lane is executing and that waits for memory. -/
def readingStream (s : State) (c : Nat) : Option Nat :=
  let y := (s.ctx c).l
  if y.remain.isNone || !(y.wait.any fun w => w.kind == 15) then none
  else match fetchWord s c y.pc with
    | .word _ w => match decode (.lane .l) w 0 with
      | some (.read k _ _ _) => some k.val
      | _ => none
    | .flt .. | .wait => none

/-- A READ that waits for memory, or a retry of a tile, has an access pending there. -/
def readPending (s : State) (c : Nat) : Bool :=
  (List.range 16).any fun k =>
    let t := vget (s.ctx c).strm k Strm.init
    t.armed && (readingStream s c == some k && tilePending s c k t.rpos (t.tpos == t.rpos) || t.arr.any fun e => match e.st with
      | .retry => tilePending s c k e.tile true
      | .flight _ | .flightBad _ | .here _ | .bad _ => false)

/-- A store of K that is held has its access pending there. -/
def storePending (s : State) (c : Nat) : Bool :=
  (s.ctx c).stores.any fun e => match resolve s (Acc.store c 1 e.lg e.info) e.addr e.data.length with
    | .flt _ f => f.cause == 0x41
    | .wait | .ok .. => false

/-- A step of a cluster's engines or kiln, from a state in which none of their faults was on its way, has queued a fault of the
stack, or command `id` has met one. -/
def meets41 (cl id : Nat) : Out3 → Bool
  | .next t => (t.cluster cl).flts.any (fun e => e.flt.cause == 0x41) ||
      (t.cluster cl).cmds.any fun k => k.id == id && k.bad.any fun e => e.1.cause == 0x41
  | .fault _ | .refused _ => false

/-- A running command of a cluster would meet a fault there with the next access that it makes: of its reads at the start, of its
copying, of a page that it moves, of its fold, or of the slab map entry. -/
def cmdPending (s : State) (cl : Nat) : Bool :=
  let s := s.modCluster cl fun x => { x with flts := [] }
  (s.cluster cl).cmds.any fun k => k.phase == .running && k.bad.isNone &&
    [execCopyArrival cl k.id 1, execRelocationPageMoved cl k.id, execEngineCommandComplete cl k.id,
      execRelocationFinish cl k.id].any fun f => meets41 cl k.id (f s)

/-- The kiln program of a cluster would fault there with its load or its next word. -/
def kilnPending (s : State) (cl : Nat) : Bool :=
  let s := s.modCluster cl fun x => { x with flts := [] }
  match (s.cluster cl).run with
  | none => false
  | some r =>
    if r.loading then meets41 cl (s.cluster cl).nextCmd (execKilnLoadComplete cl s)
    else match kilnFetch (s.cluster cl) r.pc with
      | .flt _ => false
      | .word w => match decode .kiln w 0 with
        | some i => meets41 cl (s.cluster cl).nextCmd (kilnNow i cl s)
        | none => false

/-- The team on a cluster has an access pending on a stack that `s` has out of service: of a lane, of a stream, of an engine
command or of the kiln (spec/22 R409). -/
def teamPending (s : State) (cl : Nat) : Bool :=
  (teamCtxs s cl).any (fun c => storePending s c || (!(s.ctx c).retired && (waitPending s c || readPending s c))) ||
  cmdPending s cl || kilnPending s cl

/-- The launches with an access pending on a stack that is out of service. -/
def launchesPending (s : State) : List Nat :=
  distinct ((FMap.keys s.clusters).filterMap fun cl => match (s.cluster cl).team with
    | some t => if teamPending s cl then some t.launch else none
    | none => none)

/-- STACK_OUT_OF_SERVICE: accesses to the stack fault from now on, a message says so, and the launches with an access
pending there fail (spec/22 R409). -/
def execStackOutOfService (k : Fin 8) (s : State) : Out3 :=
  if s.hbmStacks[k] ≠ .retraining then .next s
  else
    let s := { s with hbmStacks := s.hbmStacks.set k .out }
    .next ((launchesPending s).foldl (fun s n => endLaunch s n 0x41) (stackMsg s k.val 2))

/-! ## Links -/

/-- The peers that no trained link reaches, with the time since then: one that has just lost its last link joins them, one that
a link reaches leaves them (spec/22 R410). -/
def noteRoutes (s : State) (m : Nat) : State :=
  if reaches s m then
    { s with unreached := s.unreached.filter fun e => e.1 != m, noRoute := s.noRoute.filter fun p => p != m }
  else if 4096 ≤ m || s.unreached.any fun e => e.1 == m then s
  else { s with unreached := s.unreached ++ [(m, s.gt)] }

/-- LINK_DOWN: traffic moves to the other trained links (spec/22 R410). -/
def execLinkDown (l : Fin 32) (s : State) : Out3 :=
  let y := s.links[l]
  .next (if y.trained then
    noteRoutes { s with links := s.links.set l { y with trained := false, since := s.gt } } y.peer else s)

/-- LINK_TRAINED: the link reaches module `m`, and the switch has given this module the ID `own` (spec/15 R327, spec/22
R410). A link that reached another peer before reaches it no more. -/
def execLinkTrained (l : Fin 32) (m own : Nat) (s : State) : Out3 :=
  if 4096 ≤ m || 4096 ≤ own || m = own then .next s
  else
    let before := s.links[l].peer
    let s := { s with links := s.links.set l ⟨true, m, 0⟩, modId := own, removed := s.removed.filter fun p => p ≠ m }
    .next (noteRoutes (noteRoutes s before) m)

/-- No trained link has reached a peer for 1,100,000 ticks: one that a link has reached before, or one that none has reached since
reset (spec/22 R410). -/
def routeGone (s : State) (m : Nat) : Bool :=
  !reaches s m && match s.unreached.find? fun e => e.1 == m with
    | some e => decide (e.2 + 1100000 ≤ s.gt)
    | none => decide (1100000 ≤ s.gt)

/-- NO_ROUTE_TIMEOUT: accesses to the peer raise 0x42 (spec/22 R410). -/
def execNoRouteTimeout (m : Nat) (s : State) : Out3 :=
  .next (if routeGone s m && !s.noRoute.contains m then { s with noRoute := s.noRoute ++ [m] } else s)

/-- PEER_REMOVED: a switch has removed a peer (spec/22 R410). -/
def execPeerRemoved (m : Nat) (s : State) : Out3 :=
  .next (if s.removed.contains m then s else { s with removed := s.removed ++ [m] })

/-! ## Memory errors -/

/-- HBM_SCRUB: a correction changes no value, no order and no atomicity (spec/21 R392). -/
def execHbmScrub (_b : Nat) (s : State) : Out3 := .next s

/-- Count an event of a die and note it as the last: `store` and `loc` of MERR_LAST, `lo` the counter of corrected errors
(spec/21 R394). -/
def noteError (s : State) (d : Nat) (unc : Bool) (lo store loc : Nat) : State :=
  s.modDie d fun x =>
    { x with
      merrCnt := satInc x.merrCnt (if unc then 48 else lo) 16
      merrLast := wd (store * 2 ^ 61 + (if unc then 2 ^ 60 else 0) + loc % 2 ^ 52) }

/-- LOC of a store of a core or a cluster (spec/21 R394). -/
def locOf (unit off : Nat) : Nat := unit % 2 ^ 14 * 2 ^ 24 + off % 2 ^ 24

/-- Insert a mark once. -/
def addMark (l : List Nat) (b : Nat) : List Nat := if l.contains b then l else l ++ [b]

/-- The block lies in the region of HBM that the firmware image may fill (spec/15 R337; log 11). -/
def inFirmware (block : Nat) : Bool :=
  decide (Config.firmwareBase ≤ 64 * block + 63) && decide (64 * block < Config.firmwareBase + imageMax)

/-- An entry of a context is damaged (spec/21 R393). -/
def damage (s : State) (c e : Nat) : State :=
  s.modCtx c fun x => { x with stack := onEntry e (fun e => { e with damaged := true }) x.stack }

/-- The entry lies in bedrock. -/
def inBedrock (s : State) (c e : Nat) : Bool :=
  (s.ctx c).stack.any fun k => k.id == e && k.res.inBedrock

/-- The HBM block of a bedrock image of a context in which an error lies: some block of the overflow part of its region, whose layout
is not architecture (spec/04 R74; log 9). -/
def imageBlock (s : State) (c : Nat) : Nat :=
  let x := s.ctx c
  (x.ovfBase.toNat + (Config.imageLoc s.fresh).toNat % max 1 (overflowPart x)) / 64 * 64

/-- The scratchpad offset of a subsoil image of a context in which an error lies: some offset of its carve-out (spec/04 R75; log 9). -/
def subsoilOff (s : State) (c : Nat) : Nat :=
  let n := 4352 * (s.ctx c).subsoil
  524288 - (c % 4 + 1) * n + (Config.imageLoc s.fresh).toNat % max 1 n

/-- An error in a register file, latch or queue of a context that cannot be corrected (spec/21 R393, spec/22 R406,
R414). -/
def regError (s : State) (c : Nat) : State :=
  if isSup c then (if dieOf c = 0 then fatal s 0x81 else dieReset s (dieOf c) 3)
  else if !(s.ctx c).resident || (s.ctx c).retired then s
  else teamFault s c 0 ⟨0x2F, 5 * 16, 0, 0⟩ (posOf s c .k) (wordAt s c)

/-- MEMORY_ERROR: an error is counted, and one that cannot be corrected marks the data that it hit (spec/21 R392-R394,
spec/22 R414). -/
def execMemoryError (e : MemErr) (s : State) : Out3 :=
  match e with
  | .hbm unc b =>
    if hbmEnd ≤ 64 * b then .next s
    else
      let s := noteError s (64 * b / 2 ^ 37) unc 0 0 (64 * b)
      if !unc then .next s
      else if inFirmware b then .next (fatal s 0x81)
      else .next { s with poisoned := addMark s.poisoned b }
  | .till unc c e off =>
    let s := noteError s (dieOf c) unc 32 1 (locOf (coreOf c) off)
    .next (if unc then damage s c e else s)
  | .image unc c e =>
    let s := if inBedrock s c e then
        let a := imageBlock s c
        noteError s (a / 2 ^ 37) unc 0 0 a
      else noteError s (dieOf c) unc 16 2 (locOf (coreOf c) (subsoilOff s c))
    .next (if unc then damage s c e else s)
  | .scratch unc core off =>
    let s := noteError s (core / 1024) unc 16 2 (locOf core off)
    let x := s.core core
    .next (if unc then s.setCore core { x with scratchBad := addMark x.scratchBad (off / 8) } else s)
  | .cmem unc cl off =>
    let s := noteError s (dieOfCluster cl) unc 16 3 (locOf cl off)
    .next (if unc then s.modCluster cl fun x => { x with cmemBad := addMark x.cmemBad (off / 8) } else s)
  | .kiln unc cl off =>
    let s := noteError s (dieOfCluster cl) unc 16 4 (locOf cl off)
    .next (if unc then s.modCluster cl fun x => { x with imemBad := addMark x.imemBad (off / 8) } else s)
  | .reg unc c off =>
    let s := noteError s (dieOf c) unc 16 5 (locOf (coreOf c) off)
    .next (if unc then regError s c else s)
  | .keys unc => .next (if unc then fatal s 0x81 else s)

/-! ## Illegal instructions -/

/-- ILLEGAL_INSTRUCTION: a word that would issue has no meaning for its unit: a lane takes the illegal-instruction fault, a
kiln program the fault of an illegal word (spec/08 R166, spec/13 R293). -/
def execIllegalInstruction (w : W32) (s : State) : Out3 :=
  match s.turn.who with
  | .lane c ln => .next (illegal s c ln (.illegalInstruction w))
  | .kiln cl => .next (kilnIllegal s cl)
  | .core _ | .event _ | .owner .. | .asks .. | .idle => .fault .noUnit

end Sys2Proof.Machine
end

