-- ==== Sys2Proof/Machine/Flags.lean ====
section
/-! DEFINITION. The predicate computations of the compares (spec/09 R187). The device has no status flags: a
compare writes one predicate register. -/

namespace Sys2Proof.Machine

/-- CMP.EQ. -/
def cmpEq (a b : Word) : Bool := a == b
/-- CMP.NE. -/
def cmpNe (a b : Word) : Bool := a != b
/-- CMP.LT, signed. -/
def cmpLt (a b : Word) : Bool := a.slt b
/-- CMP.LTU, unsigned. -/
def cmpLtu (a b : Word) : Bool := a.ult b
/-- CMP.GE, signed. -/
def cmpGe (a b : Word) : Bool := b.sle a
/-- CMP.GEU, unsigned. -/
def cmpGeu (a b : Word) : Bool := b.ule a

end Sys2Proof.Machine
end

