-- ==== Sys2Proof/Machine/Scalar.lean ====
section
/-! DEFINITION. Integer, immediate, predicate and bit instructions of the K lane (spec/09 R183-R188). No
instruction of this file faults but by its word and its registers. -/

namespace Sys2Proof.Machine

/-! ## Results -/

/-- The sign extension of the low 32 bits. -/
def low32 (r : Word) : Word := (r.truncate 32).signExtend 64

/-- The 64-bit form of an instruction, or with V = 0b01 its `.W` form (spec/09 R183). -/
def widthOf (v : BitVec 2) (r : Word) : Word := if v = 0 then r else low32 r

/-- High half of the signed product. -/
def mulHigh (a b : Word) : Word := wdInt (a.toInt * b.toInt / 2 ^ 64)

/-- High half of the unsigned product. -/
def mulHighU (a b : Word) : Word := wd (a.toNat * b.toNat / 2 ^ 64)

/-- Signed quotient, truncated toward zero, with the corners of spec/09 R184. -/
def divS (a b : Word) : Word := if b = 0 then BitVec.allOnes 64 else wdInt (a.toInt.tdiv b.toInt)

/-- Signed remainder, with the sign of the dividend (spec/09 R184). -/
def remS (a b : Word) : Word := if b = 0 then a else wdInt (a.toInt.tmod b.toInt)

/-- Unsigned quotient (spec/09 R184). -/
def divU (a b : Word) : Word := if b = 0 then BitVec.allOnes 64 else wd (a.toNat / b.toNat)

/-- Unsigned remainder (spec/09 R184). -/
def remU (a b : Word) : Word := if b = 0 then a else wd (a.toNat % b.toNat)

/-- Left shift (spec/09 R183). -/
def shlV (v : BitVec 2) (a b : Word) : Word :=
  if v = 0 then a <<< (b.toNat % 64) else ((a.truncate 32) <<< (b.toNat % 32) : W32).signExtend 64

/-- Right shift with zero fill (spec/09 R183). -/
def shrV (v : BitVec 2) (a b : Word) : Word :=
  if v = 0 then a >>> (b.toNat % 64) else ((a.truncate 32) >>> (b.toNat % 32) : W32).signExtend 64

/-- Right shift with sign fill (spec/09 R183). -/
def sraV (v : BitVec 2) (a b : Word) : Word :=
  if v = 0 then a.sshiftRight (b.toNat % 64) else ((a.truncate 32 : W32).sshiftRight (b.toNat % 32)).signExtend 64

/-- Leading zero bits (spec/09 R188). -/
def clzW (a : Word) : Word := wd (64 - (if a = 0 then 0 else a.toNat.log2 + 1))

/-- Trailing zero bits, counted up to `n` (spec/09 R188). -/
def ctzFrom (a : Word) : Nat → Nat → Nat
  | 0, k => k
  | n + 1, k => if bitAt a k then k else ctzFrom a n (k + 1)

/-- Trailing zero bits (spec/09 R188). -/
def ctzW (a : Word) : Word := wd (ctzFrom a 64 0)

/-- One bits (spec/09 R188). -/
def popcW (a : Word) : Word := wd ((List.range 64).foldl (fun n k => if bitAt a k then n + 1 else n) 0)

/-- Bit i moved to bit 63 - i (spec/09 R188). -/
def brevW (a : Word) : Word := a.reverse

/-- BPERM (spec/09 R188). -/
def bpermW (a b : Word) : Word :=
  (List.range 8).foldl (fun r i =>
    let n := bits b.toNat (4 * i) 4
    if n < 8 then r ||| wd (bits a.toNat (8 * n) 8 * 2 ^ (8 * i)) else r) 0

/-- The carry-less product, 128 bits (spec/09 R188). -/
def clmul (a b : Word) : BitVec 128 :=
  (List.range 64).foldl (fun p i => if bitAt b i then p ^^^ (a.zeroExtend 128 <<< i) else p) 0

/-! ## Instructions -/

/-- ADD (spec/09 R183). -/
def execAdd (g : Guard) (d a b : XReg) (v : BitVec 2) (s : State) : Out3 :=
  kReg (.add g d a b v) g 4 [d, a, b] (fun x => x.wx d (widthOf v (x.rx a + x.rx b))) s

/-- SUB (spec/09 R183). -/
def execSub (g : Guard) (d a b : XReg) (v : BitVec 2) (s : State) : Out3 :=
  kReg (.sub g d a b v) g 4 [d, a, b] (fun x => x.wx d (widthOf v (x.rx a - x.rx b))) s

/-- MUL (spec/09 R183). -/
def execMul (g : Guard) (d a b : XReg) (v : BitVec 2) (s : State) : Out3 :=
  kReg (.mul g d a b v) g 4 [d, a, b] (fun x => x.wx d (widthOf v (x.rx a * x.rx b))) s

/-- MULH (spec/09 R183). -/
def execMulh (g : Guard) (d a b : XReg) (s : State) : Out3 :=
  kReg (.mulh g d a b) g 4 [d, a, b] (fun x => x.wx d (mulHigh (x.rx a) (x.rx b))) s

/-- MULHU (spec/09 R183). -/
def execMulhu (g : Guard) (d a b : XReg) (s : State) : Out3 :=
  kReg (.mulhu g d a b) g 4 [d, a, b] (fun x => x.wx d (mulHighU (x.rx a) (x.rx b))) s

/-- DIV (spec/09 R184). -/
def execDiv (g : Guard) (d a b : XReg) (s : State) : Out3 :=
  kReg (.div g d a b) g 4 [d, a, b] (fun x => x.wx d (divS (x.rx a) (x.rx b))) s

/-- DIVU (spec/09 R184). -/
def execDivu (g : Guard) (d a b : XReg) (s : State) : Out3 :=
  kReg (.divu g d a b) g 4 [d, a, b] (fun x => x.wx d (divU (x.rx a) (x.rx b))) s

/-- REM (spec/09 R184). -/
def execRem (g : Guard) (d a b : XReg) (s : State) : Out3 :=
  kReg (.rem g d a b) g 4 [d, a, b] (fun x => x.wx d (remS (x.rx a) (x.rx b))) s

/-- REMU (spec/09 R184). -/
def execRemu (g : Guard) (d a b : XReg) (s : State) : Out3 :=
  kReg (.remu g d a b) g 4 [d, a, b] (fun x => x.wx d (remU (x.rx a) (x.rx b))) s

/-- AND (spec/09 R183). -/
def execAnd (g : Guard) (d a b : XReg) (s : State) : Out3 :=
  kReg (.and g d a b) g 4 [d, a, b] (fun x => x.wx d (x.rx a &&& x.rx b)) s

/-- OR (spec/09 R183). -/
def execOr (g : Guard) (d a b : XReg) (s : State) : Out3 :=
  kReg (.or g d a b) g 4 [d, a, b] (fun x => x.wx d (x.rx a ||| x.rx b)) s

/-- XOR (spec/09 R183). -/
def execXor (g : Guard) (d a b : XReg) (s : State) : Out3 :=
  kReg (.xor g d a b) g 4 [d, a, b] (fun x => x.wx d (x.rx a ^^^ x.rx b)) s

/-- SHL (spec/09 R183). -/
def execShl (g : Guard) (d a b : XReg) (v : BitVec 2) (s : State) : Out3 :=
  kReg (.shl g d a b v) g 4 [d, a, b] (fun x => x.wx d (shlV v (x.rx a) (x.rx b))) s

/-- SHR (spec/09 R183). -/
def execShr (g : Guard) (d a b : XReg) (v : BitVec 2) (s : State) : Out3 :=
  kReg (.shr g d a b v) g 4 [d, a, b] (fun x => x.wx d (shrV v (x.rx a) (x.rx b))) s

/-- SRA (spec/09 R183). -/
def execSra (g : Guard) (d a b : XReg) (v : BitVec 2) (s : State) : Out3 :=
  kReg (.sra g d a b v) g 4 [d, a, b] (fun x => x.wx d (sraV v (x.rx a) (x.rx b))) s

/-- MIN (spec/09 R183). -/
def execMin (g : Guard) (d a b : XReg) (s : State) : Out3 :=
  kReg (.min g d a b) g 4 [d, a, b] (fun x => x.wx d (if (x.rx a).slt (x.rx b) then x.rx a else x.rx b)) s

/-- MAX (spec/09 R183). -/
def execMax (g : Guard) (d a b : XReg) (s : State) : Out3 :=
  kReg (.max g d a b) g 4 [d, a, b] (fun x => x.wx d (if (x.rx a).slt (x.rx b) then x.rx b else x.rx a)) s

/-- MINU (spec/09 R183). -/
def execMinu (g : Guard) (d a b : XReg) (s : State) : Out3 :=
  kReg (.minu g d a b) g 4 [d, a, b] (fun x => x.wx d (if (x.rx a).ult (x.rx b) then x.rx a else x.rx b)) s

/-- MAXU (spec/09 R183). -/
def execMaxu (g : Guard) (d a b : XReg) (s : State) : Out3 :=
  kReg (.maxu g d a b) g 4 [d, a, b] (fun x => x.wx d (if (x.rx a).ult (x.rx b) then x.rx b else x.rx a)) s

/-- ADDI (spec/09 R185). -/
def execAddi (g : Guard) (d a : XReg) (i : BitVec 8) (s : State) : Out3 :=
  kReg (.addi g d a i) g 4 [d, a] (fun x => x.wx d (x.rx a + i.signExtend 64)) s

/-- ANDI (spec/09 R185). -/
def execAndi (g : Guard) (d a : XReg) (i : BitVec 8) (s : State) : Out3 :=
  kReg (.andi g d a i) g 4 [d, a] (fun x => x.wx d (x.rx a &&& i.signExtend 64)) s

/-- ORI (spec/09 R185). -/
def execOri (g : Guard) (d a : XReg) (i : BitVec 8) (s : State) : Out3 :=
  kReg (.ori g d a i) g 4 [d, a] (fun x => x.wx d (x.rx a ||| i.signExtend 64)) s

/-- XORI (spec/09 R185). -/
def execXori (g : Guard) (d a : XReg) (i : BitVec 8) (s : State) : Out3 :=
  kReg (.xori g d a i) g 4 [d, a] (fun x => x.wx d (x.rx a ^^^ i.signExtend 64)) s

/-- SHLI (spec/09 R185). -/
def execShli (g : Guard) (d a : XReg) (i : BitVec 6) (s : State) : Out3 :=
  kReg (.shli g d a i) g 4 [d, a] (fun x => x.wx d (x.rx a <<< i.toNat)) s

/-- SHRI (spec/09 R185). -/
def execShri (g : Guard) (d a : XReg) (i : BitVec 6) (s : State) : Out3 :=
  kReg (.shri g d a i) g 4 [d, a] (fun x => x.wx d (x.rx a >>> i.toNat)) s

/-- SRAI (spec/09 R185). -/
def execSrai (g : Guard) (d a : XReg) (i : BitVec 6) (s : State) : Out3 :=
  kReg (.srai g d a i) g 4 [d, a] (fun x => x.wx d ((x.rx a).sshiftRight i.toNat)) s

/-- LI (spec/09 R186). -/
def execLi (g : Guard) (d : XReg) (lit : W32) (s : State) : Out3 :=
  kReg (.li g d lit) g 8 [d] (fun x => x.wx d (lit.signExtend 64)) s

/-- LIH: it keeps the low half (spec/09 R186). -/
def execLih (g : Guard) (d : XReg) (lit : W32) (s : State) : Out3 :=
  kReg (.lih g d lit) g 8 [d] (fun x => x.wx d (lit ++ (x.rx d).truncate 32)) s

/-- LEA: relative to the address of its own word (spec/09 R186). -/
def execLea (g : Guard) (d : XReg) (lit : W32) (s : State) : Out3 :=
  kReg (.lea g d lit) g 8 [d] (fun x => x.wx d (x.k.pc + lit.signExtend 64)) s

/-- CMP.EQ (spec/09 R187). -/
def execCmpEq (g : Guard) (d : PReg) (a b : XReg) (s : State) : Out3 :=
  kReg (.cmpEq g d a b) g 4 [a, b] (fun x => x.wp d (cmpEq (x.rx a) (x.rx b))) s

/-- CMP.NE (spec/09 R187). -/
def execCmpNe (g : Guard) (d : PReg) (a b : XReg) (s : State) : Out3 :=
  kReg (.cmpNe g d a b) g 4 [a, b] (fun x => x.wp d (cmpNe (x.rx a) (x.rx b))) s

/-- CMP.LT (spec/09 R187). -/
def execCmpLt (g : Guard) (d : PReg) (a b : XReg) (s : State) : Out3 :=
  kReg (.cmpLt g d a b) g 4 [a, b] (fun x => x.wp d (cmpLt (x.rx a) (x.rx b))) s

/-- CMP.LTU (spec/09 R187). -/
def execCmpLtu (g : Guard) (d : PReg) (a b : XReg) (s : State) : Out3 :=
  kReg (.cmpLtu g d a b) g 4 [a, b] (fun x => x.wp d (cmpLtu (x.rx a) (x.rx b))) s

/-- CMP.GE (spec/09 R187). -/
def execCmpGe (g : Guard) (d : PReg) (a b : XReg) (s : State) : Out3 :=
  kReg (.cmpGe g d a b) g 4 [a, b] (fun x => x.wp d (cmpGe (x.rx a) (x.rx b))) s

/-- CMP.GEU (spec/09 R187). -/
def execCmpGeu (g : Guard) (d : PReg) (a b : XReg) (s : State) : Out3 :=
  kReg (.cmpGeu g d a b) g 4 [a, b] (fun x => x.wp d (cmpGeu (x.rx a) (x.rx b))) s

/-- PAND (spec/09 R187). -/
def execPand (g : Guard) (d a b : PReg) (s : State) : Out3 :=
  kReg (.pand g d a b) g 4 [] (fun x => x.wp d (x.rp a && x.rp b)) s

/-- POR (spec/09 R187). -/
def execPor (g : Guard) (d a b : PReg) (s : State) : Out3 :=
  kReg (.por g d a b) g 4 [] (fun x => x.wp d (x.rp a || x.rp b)) s

/-- PXOR (spec/09 R187). -/
def execPxor (g : Guard) (d a b : PReg) (s : State) : Out3 :=
  kReg (.pxor g d a b) g 4 [] (fun x => x.wp d (x.rp a != x.rp b)) s

/-- PANDN (spec/09 R187). -/
def execPandn (g : Guard) (d a b : PReg) (s : State) : Out3 :=
  kReg (.pandn g d a b) g 4 [] (fun x => x.wp d (x.rp a && !x.rp b)) s

/-- CLZ (spec/09 R188). -/
def execClz (g : Guard) (d a : XReg) (s : State) : Out3 :=
  kReg (.clz g d a) g 4 [d, a] (fun x => x.wx d (clzW (x.rx a))) s

/-- CTZ (spec/09 R188). -/
def execCtz (g : Guard) (d a : XReg) (s : State) : Out3 :=
  kReg (.ctz g d a) g 4 [d, a] (fun x => x.wx d (ctzW (x.rx a))) s

/-- POPC (spec/09 R188). -/
def execPopc (g : Guard) (d a : XReg) (s : State) : Out3 :=
  kReg (.popc g d a) g 4 [d, a] (fun x => x.wx d (popcW (x.rx a))) s

/-- BREV (spec/09 R188). -/
def execBrev (g : Guard) (d a : XReg) (s : State) : Out3 :=
  kReg (.brev g d a) g 4 [d, a] (fun x => x.wx d (brevW (x.rx a))) s

/-- BPERM (spec/09 R188). -/
def execBperm (g : Guard) (d a b : XReg) (s : State) : Out3 :=
  kReg (.bperm g d a b) g 4 [d, a, b] (fun x => x.wx d (bpermW (x.rx a) (x.rx b))) s

/-- CLMULL (spec/09 R188). -/
def execClmull (g : Guard) (d a b : XReg) (s : State) : Out3 :=
  kReg (.clmull g d a b) g 4 [d, a, b] (fun x => x.wx d ((clmul (x.rx a) (x.rx b)).truncate 64)) s

/-- CLMULH (spec/09 R188). -/
def execClmulh (g : Guard) (d a b : XReg) (s : State) : Out3 :=
  kReg (.clmulh g d a b) g 4 [d, a, b] (fun x => x.wx d (((clmul (x.rx a) (x.rx b)) >>> 64).truncate 64)) s

end Sys2Proof.Machine
end

