-- ==== Sys2Proof/Machine/Dispatch.lean ====
section
/-! DEFINITION. One arm per instruction: a direct call of its meaning. -/

namespace Sys2Proof.Machine

def exec (i : Instr) (s : State) : Host.Outcome State Fault Refusal :=
  match i with
  | .nop g => Sys2Proof.Machine.execNop g s
  | .doImm c => Sys2Proof.Machine.execDoImm c s
  | .doReg r => Sys2Proof.Machine.execDoReg r s
  | .enddo => Sys2Proof.Machine.execEnddo s
  | .br g o => Sys2Proof.Machine.execBr g o s
  | .wait g q n => Sys2Proof.Machine.execWait g q n s
  | .sig g q n => Sys2Proof.Machine.execSig g q n s
  | .recv n => Sys2Proof.Machine.execRecv n s
  | .send g ln n a => Sys2Proof.Machine.execSend g ln n a s
  | .trap g c => Sys2Proof.Machine.execTrap g c s
  | .park g => Sys2Proof.Machine.execPark g s
  | .endParcel g => Sys2Proof.Machine.execEndParcel g s
  | .bkpt g c => Sys2Proof.Machine.execBkpt g c s
  | .add g d a b v => Sys2Proof.Machine.execAdd g d a b v s
  | .sub g d a b v => Sys2Proof.Machine.execSub g d a b v s
  | .mul g d a b v => Sys2Proof.Machine.execMul g d a b v s
  | .mulh g d a b => Sys2Proof.Machine.execMulh g d a b s
  | .mulhu g d a b => Sys2Proof.Machine.execMulhu g d a b s
  | .div g d a b => Sys2Proof.Machine.execDiv g d a b s
  | .divu g d a b => Sys2Proof.Machine.execDivu g d a b s
  | .rem g d a b => Sys2Proof.Machine.execRem g d a b s
  | .remu g d a b => Sys2Proof.Machine.execRemu g d a b s
  | .and g d a b => Sys2Proof.Machine.execAnd g d a b s
  | .or g d a b => Sys2Proof.Machine.execOr g d a b s
  | .xor g d a b => Sys2Proof.Machine.execXor g d a b s
  | .shl g d a b v => Sys2Proof.Machine.execShl g d a b v s
  | .shr g d a b v => Sys2Proof.Machine.execShr g d a b v s
  | .sra g d a b v => Sys2Proof.Machine.execSra g d a b v s
  | .min g d a b => Sys2Proof.Machine.execMin g d a b s
  | .max g d a b => Sys2Proof.Machine.execMax g d a b s
  | .minu g d a b => Sys2Proof.Machine.execMinu g d a b s
  | .maxu g d a b => Sys2Proof.Machine.execMaxu g d a b s
  | .addi g d a iv => Sys2Proof.Machine.execAddi g d a iv s
  | .andi g d a iv => Sys2Proof.Machine.execAndi g d a iv s
  | .ori g d a iv => Sys2Proof.Machine.execOri g d a iv s
  | .xori g d a iv => Sys2Proof.Machine.execXori g d a iv s
  | .shli g d a iv => Sys2Proof.Machine.execShli g d a iv s
  | .shri g d a iv => Sys2Proof.Machine.execShri g d a iv s
  | .srai g d a iv => Sys2Proof.Machine.execSrai g d a iv s
  | .li g d lit => Sys2Proof.Machine.execLi g d lit s
  | .lih g d lit => Sys2Proof.Machine.execLih g d lit s
  | .lea g d lit => Sys2Proof.Machine.execLea g d lit s
  | .cmpEq g d a b => Sys2Proof.Machine.execCmpEq g d a b s
  | .cmpNe g d a b => Sys2Proof.Machine.execCmpNe g d a b s
  | .cmpLt g d a b => Sys2Proof.Machine.execCmpLt g d a b s
  | .cmpLtu g d a b => Sys2Proof.Machine.execCmpLtu g d a b s
  | .cmpGe g d a b => Sys2Proof.Machine.execCmpGe g d a b s
  | .cmpGeu g d a b => Sys2Proof.Machine.execCmpGeu g d a b s
  | .pand g d a b => Sys2Proof.Machine.execPand g d a b s
  | .por g d a b => Sys2Proof.Machine.execPor g d a b s
  | .pxor g d a b => Sys2Proof.Machine.execPxor g d a b s
  | .pandn g d a b => Sys2Proof.Machine.execPandn g d a b s
  | .clz g d a => Sys2Proof.Machine.execClz g d a s
  | .ctz g d a => Sys2Proof.Machine.execCtz g d a s
  | .popc g d a => Sys2Proof.Machine.execPopc g d a s
  | .brev g d a => Sys2Proof.Machine.execBrev g d a s
  | .bperm g d a b => Sys2Proof.Machine.execBperm g d a b s
  | .clmull g d a b => Sys2Proof.Machine.execClmull g d a b s
  | .clmulh g d a b => Sys2Proof.Machine.execClmulh g d a b s
  | .seedadv g d a b => Sys2Proof.Machine.execSeedadv g d a b s
  | .fadd g d a b m => Sys2Proof.Machine.execFadd g d a b m s
  | .fsub g d a b m => Sys2Proof.Machine.execFsub g d a b m s
  | .fmul g d a b m => Sys2Proof.Machine.execFmul g d a b m s
  | .ffma g d a b m => Sys2Proof.Machine.execFfma g d a b m s
  | .fmin g d a b => Sys2Proof.Machine.execFmin g d a b s
  | .fmax g d a b => Sys2Proof.Machine.execFmax g d a b s
  | .feq g d a b => Sys2Proof.Machine.execFeq g d a b s
  | .flt g d a b => Sys2Proof.Machine.execFlt g d a b s
  | .fle g d a b => Sys2Proof.Machine.execFle g d a b s
  | .icvtf g d a m => Sys2Proof.Machine.execIcvtf g d a m s
  | .ucvtf g d a m => Sys2Proof.Machine.execUcvtf g d a m s
  | .fcvti g d a m => Sys2Proof.Machine.execFcvti g d a m s
  | .fcvtu g d a m => Sys2Proof.Machine.execFcvtu g d a m s
  | .fcvtb g d a m => Sys2Proof.Machine.execFcvtb g d a m s
  | .bcvtf g d a => Sys2Proof.Machine.execBcvtf g d a s
  | .rcp g l a => Sys2Proof.Machine.execRcp g l a s
  | .rsq g l a => Sys2Proof.Machine.execRsq g l a s
  | .exp2 g l a => Sys2Proof.Machine.execExp2 g l a s
  | .log2 g l a => Sys2Proof.Machine.execLog2 g l a s
  | .mvl g d l => Sys2Proof.Machine.execMvl g d l s
  | .sfuLanding c l => Sys2Proof.Machine.execSfuLanding c l s
  | .call g o => Sys2Proof.Machine.execCall g o s
  | .calli g a => Sys2Proof.Machine.execCalli g a s
  | .jmpi g a => Sys2Proof.Machine.execJmpi g a s
  | .eret g => Sys2Proof.Machine.execEret g s
  | .yield => Sys2Proof.Machine.execYield s
  | .bar g l => Sys2Proof.Machine.execBar g l s
  | .csrr g d n => Sys2Proof.Machine.execCsrr g d n s
  | .csrw g a n => Sys2Proof.Machine.execCsrw g a n s
  | .ld g d a c z => Sys2Proof.Machine.execLd g d a c z s
  | .lds g d a c z => Sys2Proof.Machine.execLds g d a c z s
  | .st g d a c z => Sys2Proof.Machine.execSt g d a c z s
  | .monw g d a c z => Sys2Proof.Machine.execMonw g d a c z s
  | .monwWake c => Sys2Proof.Machine.execMonwWake c s
  | .monwTimeout c => Sys2Proof.Machine.execMonwTimeout c s
  | .lda g d a c z r => Sys2Proof.Machine.execLda g d a c z r s
  | .ldaSys g d a c z => Sys2Proof.Machine.execLdaSys g d a c z s
  | .str g d a c z r => Sys2Proof.Machine.execStr g d a c z r s
  | .strSys g d a c z => Sys2Proof.Machine.execStrSys g d a c z s
  | .fence g m => Sys2Proof.Machine.execFence g m s
  | .aadd g d a b c z o sc => Sys2Proof.Machine.execAadd g d a b c z o sc s
  | .aand g d a b c z o sc => Sys2Proof.Machine.execAand g d a b c z o sc s
  | .aor g d a b c z o sc => Sys2Proof.Machine.execAor g d a b c z o sc s
  | .axor g d a b c z o sc => Sys2Proof.Machine.execAxor g d a b c z o sc s
  | .amin g d a b c z o sc => Sys2Proof.Machine.execAmin g d a b c z o sc s
  | .amax g d a b c z o sc => Sys2Proof.Machine.execAmax g d a b c z o sc s
  | .aminu g d a b c z o sc => Sys2Proof.Machine.execAminu g d a b c z o sc s
  | .amaxu g d a b c z o sc => Sys2Proof.Machine.execAmaxu g d a b c z o sc s
  | .aswap g d a b c z o sc => Sys2Proof.Machine.execAswap g d a b c z o sc s
  | .cas g d a b x c z o sc => Sys2Proof.Machine.execCas g d a b x c z o sc s
  | .launch g q a b => Sys2Proof.Machine.execLaunch g q a b s
  | .sdef g sv a arm w => Sys2Proof.Machine.execSdef g sv a arm w s
  | .sldb g sv a => Sys2Proof.Machine.execSldb g sv a s
  | .soff g sv a => Sys2Proof.Machine.execSoff g sv a s
  | .ecrd g d e => Sys2Proof.Machine.execEcrd g d e s
  | .cpy g a w t e => Sys2Proof.Machine.execCpy g a w t e s
  | .cpyq g a w t e => Sys2Proof.Machine.execCpyq g a w t e s
  | .cpyrel g a w t e => Sys2Proof.Machine.execCpyrel g a w t e s
  | .cpinv g a => Sys2Proof.Machine.execCpinv g a s
  | .cpinvAll g => Sys2Proof.Machine.execCpinvAll g s
  | .ecpost g a e => Sys2Proof.Machine.execEcpost g a e s
  | .ecwait g a e => Sys2Proof.Machine.execEcwait g a e s
  | .kvapp g a w t e => Sys2Proof.Machine.execKvapp g a w t e s
  | .kvsel g a w t e => Sys2Proof.Machine.execKvsel g a w t e s
  | .kvatt g a w t e => Sys2Proof.Machine.execKvatt g a w t e s
  | .kvpre g a w t e => Sys2Proof.Machine.execKvpre g a w t e s
  | .xstart g a w t => Sys2Proof.Machine.execXstart g a w t s
  | .selact g a w t e => Sys2Proof.Machine.execSelact g a w t e s
  | .read sv n k v => Sys2Proof.Machine.execRead sv n k v s
  | .write sv n k v => Sys2Proof.Machine.execWrite sv n k v s
  | .tileArrival c sv k => Sys2Proof.Machine.execTileArrival c sv k s
  | .tileStorePerformed c sv => Sys2Proof.Machine.execTileStorePerformed c sv s
  | .tlift a k => Sys2Proof.Machine.execTlift a k s
  | .tsink a b k => Sys2Proof.Machine.execTsink a b k s
  | .tdup k => Sys2Proof.Machine.execTdup k s
  | .tdrop k => Sys2Proof.Machine.execTdrop k s
  | .tswap k => Sys2Proof.Machine.execTswap k s
  | .tover k => Sys2Proof.Machine.execTover k s
  | .tpick d k => Sys2Proof.Machine.execTpick d k s
  | .trot d k => Sys2Proof.Machine.execTrot d k s
  | .trrt d k => Sys2Proof.Machine.execTrrt d k s
  | .tzero f k => Sys2Proof.Machine.execTzero f k s
  | .tsplat n f k => Sys2Proof.Machine.execTsplat n f k s
  | .tacc k => Sys2Proof.Machine.execTacc k s
  | .tseedCnt b k => Sys2Proof.Machine.execTseedCnt b k s
  | .tseedStream a k => Sys2Proof.Machine.execTseedStream a k s
  | .tmma a b p k => Sys2Proof.Machine.execTmma a b p k s
  | .tdrain a f k => Sys2Proof.Machine.execTdrain a f k s
  | .tgen a k => Sys2Proof.Machine.execTgen a k s
  | .seedfit a b l f k => Sys2Proof.Machine.execSeedfit a b l f k s
  | .tadd a b f k v => Sys2Proof.Machine.execTadd a b f k v s
  | .taddS a b f k v => Sys2Proof.Machine.execTaddS a b f k v s
  | .taddT a b f k v => Sys2Proof.Machine.execTaddT a b f k v s
  | .tsub a b f k v => Sys2Proof.Machine.execTsub a b f k v s
  | .tsubS a b f k v => Sys2Proof.Machine.execTsubS a b f k v s
  | .tsubT a b f k v => Sys2Proof.Machine.execTsubT a b f k v s
  | .tmul a b f k v => Sys2Proof.Machine.execTmul a b f k v s
  | .tfma a b f k v => Sys2Proof.Machine.execTfma a b f k v s
  | .tmin a b f k v => Sys2Proof.Machine.execTmin a b f k v s
  | .tmax a b f k v => Sys2Proof.Machine.execTmax a b f k v s
  | .tabs a f k v => Sys2Proof.Machine.execTabs a f k v s
  | .tneg a f k v => Sys2Proof.Machine.execTneg a f k v s
  | .texp2 a f k v => Sys2Proof.Machine.execTexp2 a f k v s
  | .trcp a f k v => Sys2Proof.Machine.execTrcp a f k v s
  | .trsum a f k v => Sys2Proof.Machine.execTrsum a f k v s
  | .trmax a f k v => Sys2Proof.Machine.execTrmax a f k v s
  | .trmin a f k v => Sys2Proof.Machine.execTrmin a f k v s
  | .tcmpeq a b f k v => Sys2Proof.Machine.execTcmpeq a b f k v s
  | .tcmplt a b f k v => Sys2Proof.Machine.execTcmplt a b f k v s
  | .tcmple a b f k v => Sys2Proof.Machine.execTcmple a b f k v s
  | .tsel a b f k v => Sys2Proof.Machine.execTsel a b f k v s
  | .tperm a b f k v => Sys2Proof.Machine.execTperm a b f k v s
  | .txpose a f k v => Sys2Proof.Machine.execTxpose a f k v s
  | .tand a b f k v => Sys2Proof.Machine.execTand a b f k v s
  | .tor a b f k v => Sys2Proof.Machine.execTor a b f k v s
  | .txor a b f k v => Sys2Proof.Machine.execTxor a b f k v s
  | .tnot a f k v => Sys2Proof.Machine.execTnot a f k v s
  | .tshl a iv f k v => Sys2Proof.Machine.execTshl a iv f k v s
  | .tshr a iv f k v => Sys2Proof.Machine.execTshr a iv f k v s
  | .tsra a iv f k v => Sys2Proof.Machine.execTsra a iv f k v s
  | .tcvt src a b f k m => Sys2Proof.Machine.execTcvt src a b f k m s
  | .tqnt src a b f k m => Sys2Proof.Machine.execTqnt src a b f k m s
  | .cCommit c => Sys2Proof.Machine.execCCommit c s
  | .sigPushDeferred c => Sys2Proof.Machine.execSigPushDeferred c s
  | .trapUnwind c => Sys2Proof.Machine.execTrapUnwind c s
  | .anticipationLift c => Sys2Proof.Machine.execAnticipationLift c s
  | .stampReached cl id => Sys2Proof.Machine.execStampReached cl id s
  | .engineCommandStart cl id => Sys2Proof.Machine.execEngineCommandStart cl id s
  | .copyArrival cl id n => Sys2Proof.Machine.execCopyArrival cl id n s
  | .engineCommandComplete cl id => Sys2Proof.Machine.execEngineCommandComplete cl id s
  | .relocationPageMoved cl id => Sys2Proof.Machine.execRelocationPageMoved cl id s
  | .relocationFinish cl id => Sys2Proof.Machine.execRelocationFinish cl id s
  | .engineFault cl => Sys2Proof.Machine.execEngineFault cl s
  | .kilnStart cl => Sys2Proof.Machine.execKilnStart cl s
  | .kilnLoadComplete cl => Sys2Proof.Machine.execKilnLoadComplete cl s
  | .xnop => Sys2Proof.Machine.execXnop s
  | .xloopImm iv => Sys2Proof.Machine.execXloopImm iv s
  | .xloopReg a => Sys2Proof.Machine.execXloopReg a s
  | .xend => Sys2Proof.Machine.execXend s
  | .xli d iv => Sys2Proof.Machine.execXli d iv s
  | .xaddi d a iv => Sys2Proof.Machine.execXaddi d a iv s
  | .xaddr d a b sv => Sys2Proof.Machine.execXaddr d a b sv s
  | .xldW d a => Sys2Proof.Machine.execXldW d a s
  | .xldD d a => Sys2Proof.Machine.execXldD d a s
  | .xcfg a => Sys2Proof.Machine.execXcfg a s
  | .xmove d a iv => Sys2Proof.Machine.execXmove d a iv s
  | .xmoveB8 d a => Sys2Proof.Machine.execXmoveB8 d a s
  | .xmoveB16 d a => Sys2Proof.Machine.execXmoveB16 d a s
  | .xconv d a iv => Sys2Proof.Machine.execXconv d a iv s
  | .xpack d a => Sys2Proof.Machine.execXpack d a s
  | .xunpack d a => Sys2Proof.Machine.execXunpack d a s
  | .xbind a q n => Sys2Proof.Machine.execXbind a q n s
  | .xunbind n => Sys2Proof.Machine.execXunbind n s
  | .xsig c n => Sys2Proof.Machine.execXsig c n s
  | .xwait c n => Sys2Proof.Machine.execXwait c n s
  | .xhalt => Sys2Proof.Machine.execXhalt s
  | .teamPlace d => Sys2Proof.Machine.execTeamPlace d s
  | .teamSteal d => Sys2Proof.Machine.execTeamSteal d s
  | .teamEnd cl => Sys2Proof.Machine.execTeamEnd cl s
  | .preemptRequest d => Sys2Proof.Machine.execPreemptRequest d s
  | .preemptRequestRepeat d => Sys2Proof.Machine.execPreemptRequestRepeat d s
  | .barrierWithoutPreemption d => Sys2Proof.Machine.execBarrierWithoutPreemption d s
  | .barrierNoPreemptRepeat d => Sys2Proof.Machine.execBarrierNoPreemptRepeat d s
  | .teamStall cl => Sys2Proof.Machine.execTeamStall cl s
  | .escrowStall c => Sys2Proof.Machine.execEscrowStall c s
  | .frResumeWrite c ln v => Sys2Proof.Machine.execFrResumeWrite c ln v s
  | .faultMessageWrite d => Sys2Proof.Machine.execFaultMessageWrite d s
  | .faultRingTimeout d => Sys2Proof.Machine.execFaultRingTimeout d s
  | .fltResume cl => Sys2Proof.Machine.execFltResume cl s
  | .fltEnd cl => Sys2Proof.Machine.execFltEnd cl s
  | .preemptGo d v => Sys2Proof.Machine.execPreemptGo d v s
  | .preemptSaveComplete d unc => Sys2Proof.Machine.execPreemptSaveComplete d unc s
  | .tlbInvStart d v => Sys2Proof.Machine.execTlbInvStart d v s
  | .tlbInvComplete d => Sys2Proof.Machine.execTlbInvComplete d s
  | .dbgHalt c => Sys2Proof.Machine.execDbgHalt c s
  | .dbgRun c => Sys2Proof.Machine.execDbgRun c s
  | .dbgStep c => Sys2Proof.Machine.execDbgStep c s
  | .stepDone c => Sys2Proof.Machine.execStepDone c s
  | .stopFormed c => Sys2Proof.Machine.execStopFormed c s
  | .breakpointMatch c ln => Sys2Proof.Machine.execBreakpointMatch c ln s
  | .watchHitImprecise cl skid => Sys2Proof.Machine.execWatchHitImprecise cl skid s
  | .triggerFire c => Sys2Proof.Machine.execTriggerFire c s
  | .triggerReceive d org at' id => Sys2Proof.Machine.execTriggerReceive d org at' id s
  | .triggerAckTimeout d l => Sys2Proof.Machine.execTriggerAckTimeout d l s
  | .counterSample d => Sys2Proof.Machine.execCounterSample d s
  | .sbufRdWrite d v => Sys2Proof.Machine.execSbufRdWrite d v s
  | .replayWaitTimeout c => Sys2Proof.Machine.execReplayWaitTimeout c s
  | .journalRecord => Sys2Proof.Machine.execJournalRecord s
  | .rootLaunchComplete n => Sys2Proof.Machine.execRootLaunchComplete n s
  | .journalEnable => Sys2Proof.Machine.execJournalEnable s
  | .recoveryImageLoad len => Sys2Proof.Machine.execRecoveryImageLoad len s
  | .keyRequest slot blob => Sys2Proof.Machine.execKeyRequest slot blob s
  | .attestationRequest nonce => Sys2Proof.Machine.execAttestationRequest nonce s
  | .hostAccess a => Sys2Proof.Machine.execHostAccess a s
  | .peerAccess a => Sys2Proof.Machine.execPeerAccess a s
  | .moduleReset => Sys2Proof.Machine.execModuleReset s
  | .lifeCycleChange => Sys2Proof.Machine.execLifeCycleChange s
  | .holdUp => Sys2Proof.Machine.execHoldUp s
  | .holdUpEnd => Sys2Proof.Machine.execHoldUpEnd s
  | .dieWatchdogExpiry d => Sys2Proof.Machine.execDieWatchdogExpiry d s
  | .dieReturn d => Sys2Proof.Machine.execDieReturn d s
  | .dieResetTimeout d => Sys2Proof.Machine.execDieResetTimeout d s
  | .stackFault k => Sys2Proof.Machine.execStackFault k s
  | .stackRetrained k => Sys2Proof.Machine.execStackRetrained k s
  | .stackOutOfService k => Sys2Proof.Machine.execStackOutOfService k s
  | .linkDown l => Sys2Proof.Machine.execLinkDown l s
  | .noRouteTimeout m => Sys2Proof.Machine.execNoRouteTimeout m s
  | .peerRemoved m => Sys2Proof.Machine.execPeerRemoved m s
  | .hbmScrub b => Sys2Proof.Machine.execHbmScrub b s
  | .memoryError e => Sys2Proof.Machine.execMemoryError e s
  | .illegalInstruction w => Sys2Proof.Machine.execIllegalInstruction w s
  | .scalarAccessReply c => Sys2Proof.Machine.execScalarAccessReply c s
  | .stackMoveComplete c id => Sys2Proof.Machine.execStackMoveComplete c id s
  | .dieFabricError d => Sys2Proof.Machine.execDieFabricError d s
  | .linkTrained l m own => Sys2Proof.Machine.execLinkTrained l m own s
  | .ideEnable => Sys2Proof.Machine.execIdeEnable s

end Sys2Proof.Machine
end

