-- ==== Sys2Proof/Machine/Schedule.lean ====
section
/-! DEFINITION. Who moves next: the choice of a context by a core (spec/03 R58), the events of a cycle, and the writes of
the owner of host or peer memory. The order of the agents within a cycle, and the choices of `Turn.plain`, are the model's
where the agenda is empty (log 1); an agenda can hold any other order. -/

namespace Sys2Proof.Machine

/-- Turns of the events of a context, and of a supervisor's lane. A step that ends with the head at a breakpoint of MODE 1 shows REASON
2, since the match comes before the step's end (spec/14 R309 and R310 give no order: DESIGN CHOICE, log 60). -/
def ctxTurns (s : State) (c : Nat) : List Instr :=
  let x := s.ctx c
  if !x.resident then []
  else
    (if bitAt x.dbgCtl 0 then [Lane.k, .l, .c, .s].map (Instr.breakpointMatch c) else []) ++
    (List.range 4).map (fun l => Instr.sfuLanding c (Fin.ofNat 4 l)) ++
    (List.range 16).flatMap (fun n =>
      ((vget x.strm n Strm.init).arr.filterMap fun e =>
        if inFlight (vget x.strm n Strm.init) e.tile then some (Instr.tileArrival c (Fin.ofNat 16 n) e.tile) else none) ++
      ((vget x.strm n Strm.init).storing.map fun _ => Instr.tileStorePerformed c (Fin.ofNat 16 n))) ++
    (if x.sigDue.isEmpty then [] else [.tileArrival c 0 0]) ++
    (x.infl.map fun _ => Instr.cCommit c) ++
    (x.sigWait.map fun _ => Instr.sigPushDeferred c) ++
    (x.stack.map fun e => Instr.stackMoveComplete c e.id) ++
    [.anticipationLift c, .scalarAccessReply c, .monwWake c, .monwTimeout c, .escrowStall c, .replayWaitTimeout c, .stepDone c,
      .stopFormed c]

/-- Events of a cluster; its oldest imprecise watch hit is recorded in the cycle after its write (spec/14 R319). -/
def clusterTurns (s : State) (cl : Nat) : List Instr :=
  let x := s.cluster cl
  x.cmds.flatMap (fun k =>
    [.stampReached cl k.id, .engineCommandStart cl k.id, .copyArrival cl k.id 64, .relocationPageMoved cl k.id,
      .engineCommandComplete cl k.id, .relocationFinish cl k.id]) ++
  (x.hits.map fun h => Instr.watchHitImprecise cl (s.cycle + 1 - h.2.2.2)) ++
  [.engineFault cl, .kilnStart cl, .kilnLoadComplete cl, .teamEnd cl, .teamStall cl]

/-- Events of a die. -/
def dieTurns (s : State) (d : Nat) : List Instr :=
  ((s.die d).trigIn.map fun e => Instr.triggerReceive d e.1 (wd e.2.1) (BitVec.ofNat 8 e.2.2)) ++
  ((s.die d).trigOut.map fun e => Instr.triggerAckTimeout d (Fin.ofNat 32 e.1)) ++
  [.teamPlace d, .teamSteal d, .preemptRequest d, .preemptRequestRepeat d, .barrierWithoutPreemption d,
    .barrierNoPreemptRepeat d, .faultMessageWrite d, .preemptSaveComplete d false, .tlbInvComplete d, .counterSample d,
    .faultRingTimeout d, .dieResetTimeout d]

/-- Events of the module: the journal, the launches, a hold-up's next write, and each peer that no link has reached for
1,100,000 ticks (spec/22 R410, R411). -/
def moduleTurns (s : State) : List Instr :=
  [.journalRecord] ++ (FMap.keys s.launches).map Instr.rootLaunchComplete ++
  (if s.holdUp && !s.svc.commit.isEmpty then [.holdUp] else []) ++
  (if s.gt < 1100000 then []
    else ((List.range 4096).filter fun m => !s.noRoute.contains m && routeGone s m).map Instr.noRouteTimeout)

/-- A turn that takes no time of its own. -/
def Turn.at_ (w : Agent) : Turn := { Turn.plain w with dt := 0, dc := 0 }

/-- The turns of one cycle of the arithmetic clock. Before boot, the cycle in which the module leaves reset (spec/15
R341). The trap of a compute lane whose context issues nothing in the cycle is raised after the cores' turns. -/
def cycleTurns (s : State) : List Turn :=
  if s.svc.boot = 0 then [Turn.at_ (.event .moduleReset)]
  else
    let ctxs := FMap.keys s.ctxs
    let cls := FMap.keys s.clusters
    let events := (List.range 4).flatMap (dieTurns s) ++ cls.flatMap (clusterTurns s) ++ ctxs.flatMap (ctxTurns s) ++
      moduleTurns s
    events.map (fun i => Turn.at_ (.event i)) ++ (cls.map fun cl => Turn.at_ (.kiln cl)) ++
      ((ctxs.filter fun c => c % 4 = 0 && !isSup c).map fun c => Turn.at_ (.core (coreOf c))) ++
      ((ctxs.filter isSup).map fun c => Turn.at_ (.lane c .k)) ++
      (ctxs.map fun c => Turn.at_ (.event (.trapUnwind c)))

/-- The least of the passes of a list of contexts, and the first context that has it (spec/03 R54, R58). -/
def leastPass (s : State) : List Nat → Option Nat
  | [] => none
  | c :: r => match leastPass s r with
    | none => some c
    | some d => if passLt (s.ctx d).pass (s.ctx c).pass then some d else some c

/-- STRIDE of a context (spec/03 R58). -/
def ctxStride (x : Ctx) : Word := wd (2 ^ 20 / max 1 x.tickets)

/-- The four lanes of a context that its core has chosen move next, each with the fault that it raises: K, L, C with the trap of
its oldest instruction, S (spec/20 R358). The context counts the cycle (spec/14 R313). -/
def lanesNext (s : State) (c : Nat) : State :=
  let s := s.modCtx c fun x => perfAdd x 1 1
  { s with agenda := [Turn.at_ (.lane c .k), Turn.at_ (.lane c .l), Turn.at_ (.lane c .c), Turn.at_ (.event (.trapUnwind c)),
      Turn.at_ (.lane c .s)] ++ s.agenda }

/-- A core chooses a context: among the ready ones by PASS, each that becomes ready taking up V, else the filler of least
PASS (spec/03 R58). `can` holds the lanes that can issue (DEDUCED, log 47). -/
def chooseContext (can : List (Nat × Lane)) (s : State) (n : Nat) : State :=
  let slots := (List.range 4).map fun k => 4 * n + k
  let any := fun (c : Nat) (l : List Lane) => l.any fun ln => can.contains (c, ln)
  let ready := slots.filter fun c => (s.ctx c).kmiss.isNone && any c [.k, .l, .c, .s]
  let filler := slots.filter fun c => (s.ctx c).kmiss.isSome && any c [.l, .c, .s]
  let was := (s.core n).wasReady
  let still := ready.filter fun c => was.contains (c % 4)
  let fresh := ready.filter fun c => !was.contains (c % 4)
  let s := match leastPass s still with
    | none => s
    | some v => fresh.foldl (fun s c => s.modCtx c fun x => { x with pass := passMax x.pass (s.ctx v).pass }) s
  let s := s.setCore n { s.core n with wasReady := ready.map (· % 4) }
  match leastPass s ready with
  | some c => lanesNext (s.modCtx c fun x => { x with pass := x.pass + ctxStride x }) c
  | none => match leastPass s filler with
    | some c => lanesNext s c
    | none => s

/-- The owner of host or peer memory writes to it (spec/15 R327); such a write is seen where the device's are, but for the
checks of translation. -/
def ownerWrite (s : State) (a n : Nat) (v : Word) : State :=
  match targetOf a with
  | .host | .peer _ => writePieces s noPos [(.phys a 0 false, n)] (leBytes n v.toNat)
  | .hbm | .reserved => s

end Sys2Proof.Machine
end

