-- ==== Sys2Proof/Machine/Run.lean ====
section
/-! DEFINITION. One turn of the machine: time passes, the agent of the turn moves. A lane fetches, decodes and
executes its next instruction (spec/08 R153); an event takes the step that its row describes. -/

namespace Sys2Proof.Machine

/-- A context is in a wait of R311: of a lane, of a push of a SIG, of an engine command or of its kiln program. -/
def inWait (s : State) (c : Nat) (x : Ctx) : Bool :=
  ([x.k, x.l, x.cl, x.sl].any fun y => y.tokWait.isSome || y.wait.any fun w => w.logged) ||
  (x.sigWait.any fun w => (sigPushWait w).logged) ||
  (!isSup c && (engineWaits (s.cluster (clusterOf c)) (clusterOf c) c).any fun w => w.2.logged)

/-- A context was ready as the cycle began that is ending: its core found so (spec/03 R58); a supervisor context, alone on its core,
is ready where its K lane neither waits nor has parked. -/
def wasReady (s : State) (c : Nat) (x : Ctx) : Bool :=
  if isSup c then !x.k.parked && x.k.wait.isNone && x.kmiss.isNone else (s.core (coreOf c)).wasReady.contains (c % 4)

/-- Count the cycles that pass for a context's counters (spec/14 R313). A cycle in which both vector pipes are busy with the
context's instructions counts one busy cycle (DESIGN CHOICE, log 55: the rule does not say). -/
def tickCtx (s : State) (dc c : Nat) (x : Ctx) : Ctx :=
  if !x.resident || x.retired || x.stopped || halted s c then x
  else
    let waits := inWait s c x
    let x := if wasReady s c x then x else perfAdd x 2 dc
    let x := if waits then perfAdd x 9 dc else x
    let x := if x.infl.any fun j => j.unit == 4 then perfAdd x 10 dc else x
    if x.infl.any fun j => j.unit == 5 || j.unit == 6 then perfAdd x 11 dc else x

/-- The barriers that were first reached in the cycle `cyc`, now past, release what they held back in it (spec/20 R370; log
56). -/
def releaseHeld (cyc : Nat) (s : State) : State :=
  ((FMap.keys s.launches).filter fun n => (s.launch n).bars.any fun b => b.cyc == cyc && !b.released).foldl checkBars s

/-- Take up a turn: it becomes the current one, and its time passes (spec/01 R11, R12). -/
def takeTurn (s : State) (t : Turn) (rest : List Turn) : State :=
  let u := { s with
    turn := t
    agenda := rest
    fresh := s.fresh + 1
    gt := s.gt + t.dt
    cycle := s.cycle + t.dc
    ctxs := s.ctxs.map fun e => (e.1, tickCtx s t.dc e.1 e.2) }
  if t.dc = 0 then u else releaseHeld s.cycle u

/-- The next turn: the head of the agenda, or where it is empty the passing of a cycle, whose turns follow; by then the firmware
may have started the other supervisor cores (log 11). -/
def beginTurn (s : State) : State :=
  match s.agenda with
  | t :: rest => takeTurn s t rest
  | [] =>
    let s := startOthers s
    takeTurn s (Turn.plain .idle) (cycleTurns s)

/-- A lane may issue: its context runs and enters no handler, it is not parked, only K issues in handler state, no reply that K
waits for is outstanding, and C has dispatched nothing that ends or traps (spec/03 R58, spec/04 R88, spec/20 R352, spec/14
R307). -/
def laneRuns (s : State) (c : Nat) (ln : Lane) : Bool :=
  let x := s.ctx c
  x.resident && !x.retired && !(x.lane ln).parked && !(x.lane ln).parking && !frozen s c ln && x.dueFlt.isNone &&
    (ln == .k || !inHandler x) && (ln != .k || (x.kmiss.isNone && x.monw.isNone)) &&
    (ln != .c || x.infl.all fun j => j.flt.isNone && match j.i with
      | .park _ => false
      | _ => true) && x.yielded != some s.cycle

/-- A fetch fault is precise at the instruction that the lane would fetch (spec/21 R377), of which `word` is what has been fetched
(spec/20 R355); in the compute lane it waits, as every fault does, for the earlier instructions to commit (spec/04 R88). -/
def fetchFault (s : State) (c : Nat) (ln : Lane) (f : Flt) (word : Word) : State :=
  if ln = .c then dispatchFault s c (.nop Guard.always) word f none else takeFault s c ln f word

/-- Execute a fetched word on a lane: the instruction that its map gives, or the illegal-instruction step. -/
def runWord (s : State) (ln : Lane) (w lit : Nat) : Host.Outcome State Fault Refusal :=
  match decode (.lane ln) w lit with
  | some i => exec i s
  | none => exec (.illegalInstruction (BitVec.ofNat 32 w)) s

/-- The first word of an instruction with a literal decides what the instruction does, whatever the literal: it is illegal, its
guard is false, or it names a register beyond the allocation (spec/08 R167). -/
def wordSettles (x : Ctx) (w : Nat) : Bool :=
  (decode (.lane .k) w 0).isNone || !guardHolds x (grd w) ||
    (beyond x (if fld w 24 8 < 0x80 then [xrf w 14] else [xrf w 14, xrf w 8])).isSome

/-- A lane fetches and executes its next instruction. A fault of its literal's fetch, which is one of the run time, comes after
what its first word alone decides (spec/08 R167). -/
def fetchAndRun (s : State) (c : Nat) (ln : Lane) : Host.Outcome State Fault Refusal :=
  let pc := ((s.ctx c).lane ln).pc
  match fetchWord s c pc with
  | .wait => .next (blockQuiet s c ln)
  | .flt s f => .next (fetchFault s c ln f 0)
  | .word s w =>
    if ln == .k && hasLiteral w then
      match fetchWord s c (pc + 4) with
      | .wait => if wordSettles (s.ctx c) w then runWord s ln w 0 else .next (blockQuiet s c ln)
      | .flt t f => if wordSettles (s.ctx c) w then runWord s ln w 0 else .next (fetchFault t c ln f (wd w))
      | .word s lit => runWord s ln w lit
    else runWord s ln w 0

/-- A lane that has completed or dispatched something is progress of its team (spec/20 R369). -/
def noteProgress (before : State) (c : Nat) (ln : Lane) (s : State) : State :=
  let old := before.ctx c
  let new := s.ctx c
  if !isSup c && ((new.lane ln).head != (old.lane ln).head || old.infl.length < new.infl.length) then
    progress s (clusterOf c)
  else s

/-- A lane at a PARK whose reads or stores were open parks once they have completed (spec/09 R210). -/
def parkTurn (s : State) (c : Nat) (ln : Lane) : State :=
  let x := s.ctx c
  if x.resident && !x.retired && (x.lane ln).parking && !inHandler x then noteStep s c ln (recut (finishPark s c ln) c) else s

/-- A lane's turn. -/
def laneTurn (s : State) (c : Nat) (ln : Lane) : Host.Outcome State Fault Refusal :=
  if 16400 ≤ c || (isSup c && ln ≠ .k) then .fault .noUnit
  else if ((s.ctx c).lane ln).parking then .next (noteProgress s c ln (parkTurn s c ln))
  else if !laneRuns s c ln then .next s
  else if breaks s c ln then exec (.breakpointMatch c ln) s
  else match fetchAndRun s c ln with
    | .next t => .next (noteProgress s c ln (noteStep s c ln t))
    | .fault f => .fault f
    | .refused r => .refused r

/-- A kiln's turn: the word at its PC (spec/13 R291, R293). -/
def kilnTurn (s : State) (cl : Nat) : Host.Outcome State Fault Refusal :=
  if 64 ≤ cl then .fault .noUnit
  else if !kilnRuns s cl then .next s
  else match (s.cluster cl).run with
    | none => .next s
    | some r => match kilnFetch (s.cluster cl) r.pc with
      | .flt f => .next (kilnFail s cl r f)
      | .word w => match decode .kiln w 0 with
        | some i => exec i s
        | none => exec (.illegalInstruction (BitVec.ofNat 32 w)) s

/-- What a lane's instruction has issued: tokens taken, tiles read or handed over, a command or launch begun, a watch or barrier
reached, a store or access handed over. A READ or WRITE that has read its count and finds no free arrival entry, or no departure
entry, has issued nothing. -/
def Ctx.issuedBy (x : Ctx) :=
  (x.tq, x.strm.map fun t => (t.rpos, t.wpos, t.storing.length), x.issuing.map Issuing.posted, x.launching, x.monw, x.bar.isSome, x.kmiss, x.stores.length)

/-- Look at a lane's next instruction (spec/03 R58): it can issue all or part of what it does, or else it waits, and the state notes
what it waits for and since when; what it can issue it issues only once its context is chosen. A lane at a PARK issues
nothing. -/
def tryLane (r : State × List (Nat × Lane)) (e : Nat × Lane) : State × List (Nat × Lane) :=
  let (s, can) := r
  if ((s.ctx e.1).lane e.2).parking then (noteProgress s e.1 e.2 (parkTurn s e.1 e.2), can)
  else if !laneRuns s e.1 e.2 then r
  else match fetchAndRun { s with turn := { s.turn with who := .lane e.1 e.2 } } e.1 e.2 with
    | .next t =>
      if ((t.ctx e.1).lane e.2).wait.isSome && (t.ctx e.1).issuedBy == (s.ctx e.1).issuedBy then
        ({ noteStep s e.1 e.2 t with turn := s.turn, agenda := s.agenda }, can)
      else (s, can ++ [e])
    | .fault _ | .refused _ => (s, can ++ [e])

/-- A core's turn: it looks at the lanes of its contexts and chooses a context (spec/03 R58). -/
def coreTurn (s : State) (n : Nat) : State :=
  let lanes := (List.range 4).flatMap fun k => [Lane.k, .l, .c, .s].map fun ln => (4 * n + k, ln)
  let (s, can) := lanes.foldl tryLane (s, [])
  chooseContext can s n

/-- The agent of the current turn moves. An instruction of a lane or of the kiln in an event's place stops the machine
(`onLane`, `onKiln`). -/
def runTurn (s : State) : Host.Outcome State Fault Refusal :=
  match s.turn.who with
  | .lane c ln => laneTurn s c ln
  | .kiln cl => kilnTurn s cl
  | .core n => .next (coreTurn s n)
  | .event i => exec i s
  | .owner a n v => .next (ownerWrite s a n v)
  | .asks c ctl bp => .next { s with asked := FMap.insert s.asked c (ctl, bp) }
  | .idle => .next s

end Sys2Proof.Machine
end

