-- ==== Sys2Proof/Machine/Step.lean ====
section
/-! DEFINITION. One step of the machine, and the state whose next step runs a given word. -/

namespace Sys2Proof.Machine

/-- One step: a turn begins and its agent moves. -/
def step (s : State) : Host.Outcome State Fault Refusal := runTurn (beginTurn s)

/-- Page tables of three levels at 0x1000, 0x2000 and 0x3000 whose leaf maps the first 1 GiB to itself, readable, writable
and executable under key slot 0 (spec/05 R96, R97), for the context that `withFetchWord` runs. -/
def fetchTables (s : State) : State :=
  writePhys (writePhys (writePhys s 0 0x1000 (leBytes 8 0x2001)) 0 0x2000 (leBytes 8 0x3001)) 0 0x3000 (leBytes 8 0x1F)

/-- A team of one parcel, placed on cluster 0, for the kiln program that `withFetchWord` runs. -/
def fetchTeam : Team := ⟨0, 0, 0, 1, 0, none, none, [], 0, none, none, 0, []⟩

/-- The state with a word stored where the next step fetches, and that step given to the unit whose map holds the word: a
lane of context 0, made resident with the page tables above, key slot 0 loaded with some key and its PC at the word,
or the kiln of cluster 0, made to run a program of which it is word 0 (log 28). -/
def State.withFetchWord (s : State) (nbits w : Nat) : State :=
  match (decodeTableWord nbits w).map Instr.homeUnit with
  | some .kiln =>
    { s.modCluster 0 fun x =>
        { x with
          imem := FMap.insert x.imem 0 (BitVec.ofNat 32 w)
          team := some fetchTeam
          run := some ⟨0, 0, 0, 15, 0, Vector.replicate 16 0, [], 0, 0, false, 0, none⟩ } with
      agenda := [Turn.plain (.kiln 0)] }
  | u =>
    let ln := match u with
      | some (.lane ln) => ln
      | _ => .k
    let s := { s with keys := s.keys.set 0 ⟨some 0⟩ }
    let s := writePhys (fetchTables s) 0 0x10000 (leBytes 8 (w % 2 ^ nbits))
    let s := s.modCtx 0 fun x =>
      { x with resident := true, retired := false, stopped := false, ptRoot := 0x1000 }.setLane ln
        { x.lane ln with pc := 0x10000, parked := false }
    { s with agenda := [Turn.plain (.lane 0 ln)] }

end Sys2Proof.Machine
end

