-- ==== Sys2Proof/Machine/Forms.lean ====
section
/-! DEFINITION. The compute-lane instructions that `dispatch` serves, by their dispatch forms. -/

namespace Sys2Proof.Machine

/-- The dispatch form of an instruction of the compute lane (spec/04 R83); no form for any other. -/
def cformOf (i : Instr) (s : State) : Option CForm :=
  match i with
  | .tlift a k => some (formTlift a k)
  | .tdup k => some (formTdup k)
  | .tdrop k => some (formTdrop k)
  | .tswap k => some (formTswap k)
  | .tover k => some (formTover k)
  | .tpick d k => some (formTpick d k)
  | .trot d k => some (formTrot d k)
  | .trrt d k => some (formTrrt d k)
  | .tsink a b k => some (formTsink a b k)
  | .tzero f k => some (formTzero f k)
  | .tacc k => some (formTacc k)
  | .tsplat n f k => some (formTsplat n f k)
  | .tseedCnt b k => some (formTseedCnt b k)
  | .tseedStream a k => some (formTseedStream a k)
  | .tmma a b p k => some (formTmma a b p k)
  | .tdrain a f k => some (formTdrain a f k)
  | .tgen a k => some (formTgen a k)
  | .seedfit a b l f k => some (formSeedfit a b l f k)
  | .tadd a b f k v => some (formTadd a b f k v s)
  | .taddS a b f k v => some (formTaddS a b f k v s)
  | .taddT a b f k v => some (formTaddT a b f k v s)
  | .tsub a b f k v => some (formTsub a b f k v s)
  | .tsubS a b f k v => some (formTsubS a b f k v s)
  | .tsubT a b f k v => some (formTsubT a b f k v s)
  | .tmul a b f k v => some (formTmul a b f k v s)
  | .tmin a b f k v => some (formTmin a b f k v s)
  | .tmax a b f k v => some (formTmax a b f k v s)
  | .tabs a f k v => some (formTabs a f k v s)
  | .tneg a f k v => some (formTneg a f k v s)
  | .tfma a b f k v => some (formTfma a b f k v s)
  | .texp2 a f k v => some (formTexp2 a f k v s)
  | .trcp a f k v => some (formTrcp a f k v s)
  | .trsum a f k v => some (formTrsum a f k v s)
  | .trmax a f k v => some (formTrmax a f k v s)
  | .trmin a f k v => some (formTrmin a f k v s)
  | .tcmpeq a b f k v => some (formTcmpeq a b f k v s)
  | .tcmplt a b f k v => some (formTcmplt a b f k v s)
  | .tcmple a b f k v => some (formTcmple a b f k v s)
  | .tsel a b f k v => some (formTsel a b f k v s)
  | .tperm a b f k v => some (formTperm a b f k v s)
  | .txpose a f k v => some (formTxpose a f k v s)
  | .tand a b f k v => some (formTand a b f k v s)
  | .tor a b f k v => some (formTor a b f k v s)
  | .txor a b f k v => some (formTxor a b f k v s)
  | .tnot a f k v => some (formTnot a f k v s)
  | .tshl a i f k v => some (formTshl a i f k v s)
  | .tshr a i f k v => some (formTshr a i f k v s)
  | .tsra a i f k v => some (formTsra a i f k v s)
  | .tcvt src a b f k m => some (formTcvt src a b f k m)
  | .tqnt src a b f k m => some (formTqnt src a b f k m)
  | _ => none

end Sys2Proof.Machine
end

