-- ==== Sys2Proof/Safety.lean ====
section
/-! DEFINITION. The words in which claims about the machine are stated: when an instruction issues, what a register
instruction leaves unchanged, and the invariants of a state. -/

namespace Sys2Proof.Machine

/-! ## When an instruction issues -/

/-- Instruction `i` of context `c` is the one that the K lane issues, it is well formed, its guard holds, the registers
it names are allocated (spec/08 R156, R167, spec/03 R43), and no store stands before it that it must follow (spec/06 R121). -/
abbrev KReady (s : State) (c : Nat) (i : Instr) (g : Guard) (regs : List XReg) : Prop :=
  s.turn.who = .lane c .k ∧ i.wf = true ∧ guardHolds (s.ctx c) g = true ∧ (∀ r ∈ regs, r.val < (s.ctx c).nx) ∧
    waitsStores (s.ctx c) i = false

/-- An engine command issues, on a core of a cluster (spec/01 R6). -/
abbrev EReady (s : State) (c : Nat) (i : Instr) (g : Guard) (regs : List XReg) : Prop :=
  KReady s c i g regs ∧ c < 16384

/-- Instruction `i` of the common block issues in lane `ln` of context `c` (spec/08 R162): in K its guard holds, elsewhere
it has none, and no store stands before it that it must follow. -/
abbrev LaneReady (s : State) (c : Nat) (ln : Lane) (i : Instr) (g : Guard) : Prop :=
  s.turn.who = .lane c ln ∧ i.wf = true ∧
    (if ln = .k then guardHolds (s.ctx c) g = true ∧ waitsStores (s.ctx c) i = false else i.unguarded = true)

/-- Instruction `i` is the one that the compute lane of context `c` dispatches. -/
abbrev CReady (s : State) (c : Nat) (i : Instr) : Prop := s.turn.who = .lane c .c ∧ i.wf = true

/-- The kiln of cluster `cl` executes a word of the running program `r`. -/
abbrev XReady (s : State) (cl : Nat) (r : KRun) : Prop :=
  s.turn.who = .kiln cl ∧ (s.cluster cl).run = some r

/-- The token of a `wait=` field has been taken, or there is none to take: the state after it (spec/09 R203, spec/08 R161).
No recording orders the takes of the team. -/
def afterToken (s : State) (c : Nat) (ln : Lane) (tk : Toks) : Option State :=
  match queueOf tk.tw with
  | none => some s
  | some q =>
    let tq := vget (s.ctx c).tq q []
    if tq = [] || servedFirst (s.ctx c) ln.num q then none
    else
      let t := endWait s c ln (setterOf (tq.take 1)) 0
      some (t.setCtx c { t.ctx c with
        tq := vput (s.ctx c).tq q (tq.drop 1), taker := vput (s.ctx c).taker q (posNext s c ln) })

/-! ## What a register instruction makes -/

/-- The state after a K instruction of `len` bytes that writes `v` to xD and nothing else. -/
def writesX (s : State) (c len : Nat) (d : XReg) (v : Word) : State :=
  advance (s.modCtx c fun x => x.wx d v) c .k len

/-- The state after a K instruction that writes `v` to pD and nothing else. -/
def writesP (s : State) (c : Nat) (d : PReg) (v : Bool) : State :=
  advance (s.modCtx c fun x => x.wp d v) c .k 4

/-- A K instruction that issues writes `v` to xD. -/
def GivesX (s : State) (c : Nat) (i : Instr) (g : Guard) (regs : List XReg) (d : XReg) (v : Word) : Prop :=
  KReady s c i g regs → exec i s = .next (writesX s c 4 d v)

/-- A K instruction that issues writes `v` to pD. -/
def GivesP (s : State) (c : Nat) (i : Instr) (g : Guard) (regs : List XReg) (d : PReg) (v : Bool) : Prop :=
  KReady s c i g regs → exec i s = .next (writesP s c d v)

/-- The `.W` form of a result: the sign extension of its low 32 bits (spec/09 R183). -/
def wForm (v : Word) : Word := (v.extractLsb' 0 32).signExtend 64

/-- The bits of element (i, j) of the one tile of a format that an instruction makes. -/
def outElem (m : Made) (f : Fmt) (i j : Nat) : Nat :=
  match m.outs with
  | [.single _ p _] => elemAt f p.toNat i j
  | _ => 0

/-- The byte of device physical memory at an address. -/
def State.memByte (s : State) (a : Nat) : Byte := s.mem.byte a

/-- The byte of a cluster memory at an offset. -/
def State.cmemByte (s : State) (cl a : Nat) : Byte := (s.cluster cl).cmem.byte a

/-- The byte of a scratchpad at an offset. -/
def State.scratchByte (s : State) (n a : Nat) : Byte := (s.core n).scratch.byte a

/-- No die captures samples or waits in its ring (spec/14 R314). -/
abbrev NoRing (s : State) : Prop := ∀ d : Fin 4, bitAt s.dies[d].sbufCtl 0 = false

/-- The byte at `a` of device physical memory is one of the bytes of an access. -/
def coversPhys (ps : List (Loc × Nat)) (a : Nat) : Bool :=
  ps.any fun p => match p.1 with
    | .phys b _ _ => decide (b ≤ a) && decide (a < b + p.2)
    | .cl .. | .co .. => false

/-- The byte at `a` of the memory of cluster `k` is one of the bytes of an access. -/
def coversCmem (ps : List (Loc × Nat)) (k a : Nat) : Bool :=
  ps.any fun p => match p.1 with
    | .cl n b => n == k && decide (b ≤ a) && decide (a < b + p.2)
    | .phys .. | .co .. => false

/-- The byte at `a` of the scratchpad of core `k` is one of the bytes of an access. -/
def coversScratch (ps : List (Loc × Nat)) (k a : Nat) : Bool :=
  ps.any fun p => match p.1 with
    | .co n b => n == k && decide (b ≤ a) && decide (a < b + p.2)
    | .phys .. | .cl .. => false

/-- The HBM bytes of an access were last written under the key that the access uses, or never (spec/05 R101). -/
def sameKey (s : State) (ps : List (Loc × Nat)) : Bool :=
  ps.all fun p => match p.1 with
    | .phys b key _ => decide (hbmEnd ≤ b) || (unitOk s key b && unitOk s key (b + p.2 - 1))
    | .cl .. | .co .. => true

/-! ## Invariants -/

/-- The memories of a cluster and of cores, given by number, are in canonical form. -/
def unitsCanonical (cl : Cluster) (cores : List (Nat × CoreSt)) : Bool :=
  cl.cmem.wf && cores.all fun e => e.2.scratch.wf

/-- Every memory of the module is in its canonical form: device physical memory, the flash, the mailbox, every cluster memory,
every scratchpad, and those that a saved team has left behind. -/
def State.Canonical (s : State) : Prop :=
  s.mem.wf = true ∧ s.flash.wf = true ∧ s.svc.req.wf = true ∧ (∀ k, (s.cluster k).cmem.wf = true) ∧ (∀ k, (s.core k).scratch.wf = true) ∧
    ∀ d : Fin 4, ∀ v ∈ s.dies[d].resumed ++ s.dies[d].lastSaves, unitsCanonical v.cluster v.cores = true

/-! ## What an access writes -/

/-- Two runs of bytes lie apart: they share no byte, and no 16-byte unit of HBM under two key slots (spec/05 R101). -/
def apart (p q : Loc × Nat) : Bool :=
  let off := fun a b : Nat => decide (a + p.2 ≤ b) || decide (b + q.2 ≤ a)
  match p.1, q.1 with
  | .phys a k _, .phys b j _ =>
    if k = j then off a b else decide ((a + p.2 - 1) / 16 < b / 16) || decide ((b + q.2 - 1) / 16 < a / 16)
  | .cl m a, .cl n b | .co m a, .co n b => m != n || off a b
  | _, _ => true

/-- Every tag listed for the 16-byte units in which a run of HBM bytes begins and ends is that of the run's key slot (spec/05 R101). -/
def keyed (s : State) (ps : List (Loc × Nat)) : Bool :=
  ps.all fun p => match p.1 with
    | .phys b key _ => s.tags.all fun e => (e.1 != b / 16 && e.1 != (b + p.2 - 1) / 16) || e.2 == keyTag s key
    | .cl .. | .co .. => true

/-- The bytes of an access can be written and read back as plain bytes: the memories are canonical, no ring captures, the bytes are
under the keys of the access, and no two pieces of it share a place. -/
def PlainPieces (s : State) (ps : List (Loc × Nat)) : Prop :=
  s.Canonical ∧ NoRing s ∧ keyed s ps = true ∧ ps.Pairwise fun p q => apart p q = true

/-- Every byte outside an access is as before. -/
def KeepsOthers (s t : State) (ps : List (Loc × Nat)) : Prop :=
  (∀ a, coversPhys ps a = false → t.memByte a = s.memByte a) ∧
    (∀ k a, coversCmem ps k a = false → t.cmemByte k a = s.cmemByte k a) ∧
    ∀ k a, coversScratch ps k a = false → t.scratchByte k a = s.scratchByte k a

/-- Nothing but context `c` differs: memory, tags, registers of clusters, cores and dies, and every other context are as
before. -/
def OnlyCtx (s t : State) (c : Nat) : Prop :=
  t = { s with ctxs := t.ctxs } ∧ ∀ c', c' ≠ c → t.ctx c' = s.ctx c'

/-- Of a context, nothing differs but registers x, predicates p, the K lane and the performance counters. -/
def OnlyRegs (x y : Ctx) : Prop := y = { x with x := y.x, p := y.p, k := y.k, perfCnt := y.perfCnt }

/-- Memory of every kind is as before, byte by byte. -/
def SameMemory (s t : State) : Prop :=
  (∀ a, t.memByte a = s.memByte a) ∧ (∀ cl a, t.cmemByte cl a = s.cmemByte cl a) ∧
    ∀ n a, t.scratchByte n a = s.scratchByte n a

/-! ## The shapes of the K lane's instructions -/

/-- What a K instruction names: its guard, its length in bytes, the x registers that are checked against the allocation
(spec/03 R43), in the order in which it names them. -/
def kShape : Instr → Option (Guard × Nat × List XReg)
  | .nop g | .br g _ | .wait g _ _ | .sig g _ _ | .trap g _ | .park g | .endParcel g | .bkpt g _ | .call g _
  | .eret g | .bar g _ | .fence g _ | .cpinvAll g => some (g, 4, [])
  | .send g _ _ a | .calli g a | .jmpi g a | .csrw g a _ | .sdef g _ a _ _ | .sldb g _ a | .soff g _ a
  | .cpinv g a | .cpy g a _ _ _ | .cpyq g a _ _ _ | .cpyrel g a _ _ _ | .ecpost g a _ | .ecwait g a _
  | .kvapp g a _ _ _ | .kvsel g a _ _ _ | .kvatt g a _ _ _ | .kvpre g a _ _ _ | .xstart g a _ _
  | .selact g a _ _ _ => some (g, 4, [a])
  | .csrr g d _ | .mvl g d _ | .ecrd g d _ => some (g, 4, [d])
  | .rcp g _ a | .rsq g _ a | .exp2 g _ a | .log2 g _ a => some (g, 4, [a])
  | .launch g _ a b => some (g, 4, [a, b])
  | .add g d a b _ | .sub g d a b _ | .mul g d a b _ | .shl g d a b _ | .shr g d a b _ | .sra g d a b _
  | .mulh g d a b | .mulhu g d a b | .div g d a b | .divu g d a b | .rem g d a b | .remu g d a b
  | .and g d a b | .or g d a b | .xor g d a b | .min g d a b | .max g d a b | .minu g d a b | .maxu g d a b
  | .bperm g d a b | .clmull g d a b | .clmulh g d a b | .seedadv g d a b | .fadd g d a b _ | .fsub g d a b _
  | .fmul g d a b _ | .ffma g d a b _ | .fmin g d a b | .fmax g d a b => some (g, 4, [d, a, b])
  | .addi g d a _ | .andi g d a _ | .ori g d a _ | .xori g d a _ | .shli g d a _ | .shri g d a _ | .srai g d a _
  | .clz g d a | .ctz g d a | .popc g d a | .brev g d a | .icvtf g d a _ | .ucvtf g d a _ | .fcvti g d a _
  | .fcvtu g d a _ | .fcvtb g d a _ | .bcvtf g d a => some (g, 4, [d, a])
  | .ld g d a _ _ | .lds g d a _ _ | .st g d a _ _ | .monw g d a _ _ | .lda g d a _ _ _ | .ldaSys g d a _ _
  | .str g d a _ _ _ | .strSys g d a _ _ => some (g, 4, [d, a])
  | .li g d _ | .lih g d _ | .lea g d _ => some (g, 8, [d])
  | .cmpEq g _ a b | .cmpNe g _ a b | .cmpLt g _ a b | .cmpLtu g _ a b | .cmpGe g _ a b | .cmpGeu g _ a b
  | .feq g _ a b | .flt g _ a b | .fle g _ a b => some (g, 4, [a, b])
  | .pand g _ _ _ | .por g _ _ _ | .pxor g _ _ _ | .pandn g _ _ _ => some (g, 4, [])
  | .aadd g d a b .. | .aand g d a b .. | .aor g d a b .. | .axor g d a b .. | .amin g d a b .. | .amax g d a b ..
  | .aminu g d a b .. | .amaxu g d a b .. | .aswap g d a b .. => some (g, 8, [d, a, b])
  | .cas g d a b x .. => some (g, 8, [d, a, b, x])
  | _ => none

/-- The address register of a scalar memory instruction of context `c`, and its access: KIND, size, permissions, class
(spec/05 R99, spec/21 R376). -/
def scalarAcc (c : Nat) : Instr → Option (XReg × Acc)
  | .ld _ _ a cls z | .lds _ _ a cls z | .lda _ _ a cls z _ | .ldaSys _ _ a cls z | .monw _ _ a cls z =>
    some (a, Acc.load c 0 z.toNat (classInfo cls))
  | .st _ _ a cls z | .str _ _ a cls z _ | .strSys _ _ a cls z => some (a, Acc.store c 1 z.toNat (classInfo cls))
  | .aadd _ _ a _ cls z .. | .aand _ _ a _ cls z .. | .aor _ _ a _ cls z .. | .axor _ _ a _ cls z ..
  | .amin _ _ a _ cls z .. | .amax _ _ a _ cls z .. | .aminu _ _ a _ cls z .. | .amaxu _ _ a _ cls z ..
  | .aswap _ _ a _ cls z .. | .cas _ _ a _ _ cls z .. => some (a, Acc.rmw c z.toNat (classInfo cls))
  | _ => none

/-- The destination of a K instruction that writes one register and has no other effect: an x register or a predicate
(spec/09 R183-R190, spec/11 R269). -/
def regDest : Instr → Option (Sum XReg PReg)
  | .add _ d .. | .sub _ d .. | .mul _ d .. | .shl _ d .. | .shr _ d .. | .sra _ d ..
  | .mulh _ d .. | .mulhu _ d .. | .div _ d .. | .divu _ d .. | .rem _ d .. | .remu _ d ..
  | .and _ d .. | .or _ d .. | .xor _ d .. | .min _ d .. | .max _ d .. | .minu _ d .. | .maxu _ d ..
  | .bperm _ d .. | .clmull _ d .. | .clmulh _ d .. | .seedadv _ d .. | .fadd _ d .. | .fsub _ d ..
  | .fmul _ d .. | .ffma _ d .. | .fmin _ d .. | .fmax _ d ..
  | .addi _ d .. | .andi _ d .. | .ori _ d .. | .xori _ d .. | .shli _ d .. | .shri _ d .. | .srai _ d ..
  | .clz _ d _ | .ctz _ d _ | .popc _ d _ | .brev _ d _ | .icvtf _ d .. | .ucvtf _ d .. | .fcvti _ d ..
  | .fcvtu _ d .. | .fcvtb _ d .. | .bcvtf _ d _ | .li _ d _ | .lih _ d _ | .lea _ d _ => some (.inl d)
  | .cmpEq _ d .. | .cmpNe _ d .. | .cmpLt _ d .. | .cmpLtu _ d .. | .cmpGe _ d .. | .cmpGeu _ d ..
  | .feq _ d .. | .flt _ d .. | .fle _ d .. | .pand _ d .. | .por _ d .. | .pxor _ d .. | .pandn _ d .. =>
    some (.inr d)
  | _ => none

/-- The instructions of the common block that the L, C and S lanes list (spec/08 R162). -/
def inEveryLane : Instr → Bool
  | .nop _ | .doImm _ | .doReg _ | .enddo | .br .. | .wait .. | .sig .. | .recv _ | .trap .. | .park _ | .bkpt .. => true
  | _ => false

/-! ## System registers -/

/-- Whether a register that a CSRW only stores takes the value `v`: its reserved fields are zero, and no field holds a value reserved in
it; none for a register whose write does more, and for one that no CSRW writes (spec/03 R53, spec/04 R76, spec/05 R97, R103, spec/07
R142, spec/14 R305, R309, R313, R314, R318, R320, spec/20 R359, spec/21 R379, R394, spec/22 R403). -/
def csrTakes (n : Nat) (v : Word) : Option Bool :=
  let zero := fun l : List (Nat × Nat) => l.all fun f => bits v.toNat f.1 f.2 == 0
  let page := zero [(52, 12), (6, 6)]
  if n = 0x010 then some (zero [(15, 17), (11, 1)] && decide (bits v.toNat 8 3 < 5))
  else if n = 0x011 ∨ (0x60C ≤ n ∧ n ≤ 0x60F) ∨ n = 0x614 ∨ n = 0x620 then some true
  else if n = 0x012 then some (zero [(3, 29)])
  else if n = 0x400 ∨ n = 0x403 then some (zero [(52, 12)])
  else if n = 0x404 then some (zero [(52, 12), (6, 10)])
  else if n = 0x405 then some (zero [(20, 44), (0, 4)])
  else if 0x410 ≤ n ∧ n ≤ 0x41F then some (zero [(11, 21)] && decide (1 ≤ v.toNat ∧ v.toNat ≤ 1024))
  else if n = 0x610 ∨ n = 0x741 ∨ n = 0x751 then some page
  else if n = 0x611 then some (v.toNat == 0 || (List.range 7).any fun k => v.toNat == 64 * 2 ^ k)
  else if n = 0x618 then some (zero [(48, 16), (4, 12)])
  else if n = 0x621 then some (zero [(20, 12)])
  else if n = 0x622 then some (zero [(21, 11)])
  else if n = 0x706 then some (zero [(16, 16), (0, 2)])
  else if 0x708 ≤ n ∧ n ≤ 0x70B then
    some (zero [(52, 8)] && if bitAt v 62 then zero [(46, 6)] else zero [(0, 2)])
  else if 0x710 ≤ n ∧ n ≤ 0x713 then some (zero [(52, 10)] && decide (bits v.toNat 62 2 < 2))
  else if 0x714 ≤ n ∧ n ≤ 0x717 then some (zero [(1, 1), (3, 5), (24, 8), (44, 20)])
  else if 0x720 ≤ n ∧ n ≤ 0x723 then some (zero [(12, 20)] && decide (bits v.toNat 0 8 < 12))
  else if n = 0x740 then some (zero [(37, 27), (8, 8)])
  else if n = 0x742 ∨ n = 0x752 then some (zero [(0, 12)])
  else if n = 0x750 then some (zero [(2, 62)] && decide (v.toNat ≠ 3))
  else none

/-- The register is in use and keeps its value: the ring's and the recording region's place while they are on, and the scope of an
invalidation that runs (spec/05 R103, spec/14 R314, R320). -/
def csrBusy (s : State) (c n : Nat) : Bool :=
  let x := s.die (dieOf c)
  ((n == 0x741 || n == 0x742) && bitAt x.sbufCtl 0) || ((n == 0x751 || n == 0x752) && bits x.recCtl.toNat 0 2 != 0) ||
    (n == 0x400 && bitAt x.tlbInvCtl 0)

/-! ## Faults -/

/-- A fault with these registers has been taken into the context's handler (spec/20 R352, R355): the record holds it, K is
at the trap vector, HANDLER is set, and every lane's resume point is where it stood in `s`. -/
def InHandlerOf (s t : State) (c lane : Nat) (f : Flt) (pos word : Word) (precise engine : Bool) : Prop :=
  let x := s.ctx c
  let y := t.ctx c
  y.frCause = causeWord f lane precise false true (!x.heldFlts.isEmpty) engine ∧ y.frPos = pos ∧ y.frWord = word ∧
    y.frAddr = f.addr ∧ y.frInfo = f.info ∧ inHandler y = true ∧
    y.frResume = #v[resumeOf x.k, resumeOf x.l, resumeOf x.cl, resumeOf x.sl] ∧
    y.k.pc = (if isSup c then Config.supervisorVector c else x.hdr + x.trapOff.zeroExtend 64) ∧ y.k.parked = false

/-- No PARK of the K lane stands behind a held store, or no recording follows the team: that K counts as parked when a handler is
entered then stops no replay (spec/22 R398). -/
abbrev ParkSettled (s : State) (c : Nat) : Prop := (s.ctx c).k.parking = false ∨ recOf s (clusterOf c) = none

/-- The compute lane has nothing dispatched or waiting at dispatch, the K lane waits for no reply, none of its held stores can
still meet a fault, and no fault waits for K's boundary or for a debugger's RUN: a fault is taken at once (spec/20 R351, R352). -/
abbrev AtBoundary (s : State) (c : Nat) : Prop :=
  (s.ctx c).infl = [] ∧ (s.ctx c).kmiss = none ∧ (∀ e ∈ (s.ctx c).stores, e.undo = none) ∧ (s.ctx c).dueFlt = none ∧
    (s.ctx c).dbgFlt = none ∧ ∀ e ∈ (s.ctx c).stack, e.res ≠ .buffer

/-- The context takes its faults in its own handler at once: no debugger stops it at a fault, it is not in handler state, and its
kernel names a trap vector (spec/20 R351, R352, R358). -/
abbrev TakesFaults (s : State) (c : Nat) : Prop :=
  stopsFaults (s.ctx c) = false ∧ inHandler (s.ctx c) = false ∧ hasHandler (s.ctx c) c = true ∧ AtBoundary s c ∧ ParkSettled s c

/-! ## Accesses of K whose reply returns -/

/-- What follows the reply of an access of K that has performed, which leaves `t`: the count of a step (spec/14 R310), a fault that
waited for K's boundary (spec/20 R352), the resume point of a held team (R361), and no count while the device lets the context issue
nothing (spec/14 R313). -/
def replied (s : State) (c : Nat) (t : State) : State := keepPerf s c (recut (takeWaiting (noteStep s c .k t) c) c)

/-- Instruction `i` of K is an access that performs with `t` as the state after it: at its issue where it does not miss, and when its
reply returns where it has missed, of a parcel too that its supervisor has ended meanwhile (spec/09 R179, spec/21 R377, spec/03 R50). -/
def Performs (s : State) (c : Nat) (i : Instr) (g : Guard) (regs : List XReg) (t : State) : Prop :=
  (KReady s c i g regs → s.turn.miss = false → exec i s = .next t) ∧
    ((s.ctx c).kmiss = some i → (s.ctx c).stores = [] →
      ((s.ctx c).retired = false → exec (.scalarAccessReply c) s = .next (replied s c t) ∧
        ((s.ctx c).dueFlt = none → (s.ctx c).stopped = false → halted s c = false → replied s c t = t)) ∧
      ((s.ctx c).retired = true → exec (.scalarAccessReply c) s = .next t))

/-- Instruction `i` of K misses: its reply is outstanding, and nothing else has happened (spec/09 R179). -/
def Misses (s : State) (c : Nat) (i : Instr) (g : Guard) (regs : List XReg) : Prop :=
  KReady s c i g regs → s.turn.miss = true → exec i s = .next (s.modCtx c fun x => { x with kmiss := some i })

end Sys2Proof.Machine
end

