-- ==== Sys2Proof/Certificates/Slice0/Obligations.lean ====
section
/-! DEFINITION. The statements about the machine, for the provers. Each says which rule of the manual it formalises. -/

open Sys2Proof Sys2Proof.Machine

/-! ## Registers of the K lane -/

/-- The register forms of spec/09 R183: each writes its result to xD.

Division raises no fault, and its edge cases are those of spec/09 R184: by zero the quotient is all ones and the
remainder the dividend; the least number by -1 is itself, remainder 0.

The immediate forms (spec/09 R185) and the literal forms, whose instructions are two words (R186). -/
def Obligations.IntegerForms : Prop :=
  (∀ (s : State) (c : Nat) (g : Guard) (d a b : XReg),
     let p := (s.ctx c).rx a
     let q := (s.ctx c).rx b
     let gives := fun (i : Instr) (v : Word) => GivesX s c i g [d, a, b] d v
     (gives (.add g d a b 0) (p + q) ∧ gives (.add g d a b 1) (wForm (p + q))) ∧
     (gives (.sub g d a b 0) (p - q) ∧ gives (.sub g d a b 1) (wForm (p - q))) ∧
     (gives (.mul g d a b 0) (p * q) ∧ gives (.mul g d a b 1) (wForm (p * q))) ∧
     gives (.mulh g d a b) ((p.signExtend 128 * q.signExtend 128).extractLsb' 64 64) ∧
     gives (.mulhu g d a b) ((p.zeroExtend 128 * q.zeroExtend 128).extractLsb' 64 64) ∧
     gives (.and g d a b) (p &&& q) ∧ gives (.or g d a b) (p ||| q) ∧ gives (.xor g d a b) (p ^^^ q) ∧
     (gives (.shl g d a b 0) (p <<< (q.extractLsb' 0 6)) ∧
       gives (.shl g d a b 1) ((p.extractLsb' 0 32 <<< (q.extractLsb' 0 5)).signExtend 64)) ∧
     (gives (.shr g d a b 0) (p >>> (q.extractLsb' 0 6)) ∧
       gives (.shr g d a b 1) ((p.extractLsb' 0 32 >>> (q.extractLsb' 0 5)).signExtend 64)) ∧
     (gives (.sra g d a b 0) (p.sshiftRight' (q.extractLsb' 0 6)) ∧
       gives (.sra g d a b 1) (((p.extractLsb' 0 32).sshiftRight' (q.extractLsb' 0 5)).signExtend 64)) ∧
     gives (.min g d a b) (if q.sle p then q else p) ∧ gives (.max g d a b) (if q.sle p then p else q) ∧
     gives (.minu g d a b) (if q.ule p then q else p) ∧ gives (.maxu g d a b) (if q.ule p then p else q)) ∧
  (∀ (s : State) (c : Nat) (g : Guard) (d a b : XReg),
     let p := (s.ctx c).rx a
     let q := (s.ctx c).rx b
     let gives := fun (i : Instr) (v : Word) => GivesX s c i g [d, a, b] d v
     gives (.div g d a b) (if q = 0 then BitVec.allOnes 64 else p.sdiv q) ∧
     gives (.divu g d a b) (if q = 0 then BitVec.allOnes 64 else p.udiv q) ∧
     gives (.rem g d a b) (if q = 0 then p else p.srem q) ∧
     gives (.remu g d a b) (if q = 0 then p else p.umod q) ∧
     (BitVec.intMin 64).sdiv (BitVec.allOnes 64) = BitVec.intMin 64 ∧
     (BitVec.intMin 64).srem (BitVec.allOnes 64) = 0) ∧
  (∀ (s : State) (c : Nat) (g : Guard) (d a : XReg) (i : BitVec 8) (u : BitVec 6) (lit : W32),
     let p := (s.ctx c).rx a
     let gives := fun (j : Instr) (v : Word) => GivesX s c j g [d, a] d v
     gives (.addi g d a i) (p + i.signExtend 64) ∧ gives (.andi g d a i) (p &&& i.signExtend 64) ∧
     gives (.ori g d a i) (p ||| i.signExtend 64) ∧ gives (.xori g d a i) (p ^^^ i.signExtend 64) ∧
     gives (.shli g d a u) (p <<< u) ∧ gives (.shri g d a u) (p >>> u) ∧ gives (.srai g d a u) (p.sshiftRight' u) ∧
     (KReady s c (.li g d lit) g [d] → exec (.li g d lit) s = .next (writesX s c 8 d (lit.signExtend 64))) ∧
     (KReady s c (.lih g d lit) g [d] →
       exec (.lih g d lit) s = .next (writesX s c 8 d (lit ++ ((s.ctx c).rx d).extractLsb' 0 32))) ∧
     (KReady s c (.lea g d lit) g [d] →
       exec (.lea g d lit) s = .next (writesX s c 8 d ((s.ctx c).k.pc + lit.signExtend 64))))

/-- The compares and the predicate operations write one predicate (spec/09 R187).

The bit operations (spec/09 R188), each result described bit by bit. -/
def Obligations.PredicatesAndBits : Prop :=
  (∀ (s : State) (c : Nat) (g : Guard) (d : PReg) (a b : XReg) (m n : PReg),
     let p := (s.ctx c).rx a
     let q := (s.ctx c).rx b
     let gives := fun (i : Instr) (v : Bool) => GivesP s c i g [a, b] d v
     let logic := fun (i : Instr) (v : Bool) => GivesP s c i g [] d v
     gives (.cmpEq g d a b) (decide (p = q)) ∧ gives (.cmpNe g d a b) (decide (p ≠ q)) ∧
     gives (.cmpLt g d a b) (decide (p.toInt < q.toInt)) ∧ gives (.cmpLtu g d a b) (decide (p.toNat < q.toNat)) ∧
     gives (.cmpGe g d a b) (decide (q.toInt ≤ p.toInt)) ∧ gives (.cmpGeu g d a b) (decide (q.toNat ≤ p.toNat)) ∧
     logic (.pand g d m n) ((s.ctx c).rp m && (s.ctx c).rp n) ∧ logic (.por g d m n) ((s.ctx c).rp m || (s.ctx c).rp n) ∧
     logic (.pxor g d m n) ((s.ctx c).rp m ^^ (s.ctx c).rp n) ∧
     logic (.pandn g d m n) ((s.ctx c).rp m && !(s.ctx c).rp n)) ∧
  (∀ (s : State) (c : Nat) (g : Guard) (d a b : XReg),
     let p := (s.ctx c).rx a
     let q := (s.ctx c).rx b
     (∃ n, n ≤ 64 ∧ (∀ k, 64 - n ≤ k → p.getLsbD k = false) ∧ (n < 64 → p.getLsbD (63 - n) = true) ∧
       GivesX s c (.clz g d a) g [d, a] d (BitVec.ofNat 64 n)) ∧
     (∃ n, n ≤ 64 ∧ (∀ k, k < n → p.getLsbD k = false) ∧ (n < 64 → p.getLsbD n = true) ∧
       GivesX s c (.ctz g d a) g [d, a] d (BitVec.ofNat 64 n)) ∧
     GivesX s c (.popc g d a) g [d, a] d
       (BitVec.ofNat 64 ((List.range 64).filter fun k => p.getLsbD k).length) ∧
     (∃ v : Word, (∀ k, k < 64 → v.getLsbD k = p.getLsbD (63 - k)) ∧ GivesX s c (.brev g d a) g [d, a] d v) ∧
     (∃ v : Word, (∀ i, i < 8 → v.extractLsb' (8 * i) 8 =
         (if (q.extractLsb' (4 * i) 4).toNat < 8 then p.extractLsb' (8 * (q.extractLsb' (4 * i) 4).toNat) 8 else 0)) ∧
       GivesX s c (.bperm g d a b) g [d, a, b] d v) ∧
     (∃ v : BitVec 128,
       (∀ k, k < 128 → v.getLsbD k =
         (((List.range 64).filter fun i => decide (i ≤ k) && q.getLsbD i && p.getLsbD (k - i)).length % 2 == 1)) ∧
       GivesX s c (.clmull g d a b) g [d, a, b] d (v.extractLsb' 0 64) ∧
       GivesX s c (.clmulh g d a b) g [d, a, b] d (v.extractLsb' 64 64)))

/-- The scalar FP32 instructions read bits [31:0] and write the rounded result with zero above (spec/09 R189, R190), and
SEEDADV advances a seed (spec/11 R269). The sign of a sum that is exactly zero, `Num.add`'s, is the model's reading of spec/07
R147: its words are taken literally, so that +0 + +0 rounds down to -0 (log 29).

An SFU operation makes its latch BUSY and not VALID and goes on; it waits while the latch is BUSY (spec/09 R192). Its
landing makes the latch hold the result of R191, VALID. MVL moves the value of a
VALID latch, which keeps it, and waits for any other (R193): one that is not BUSY either only the team itself can end
(spec/20 R369). -/
def Obligations.ScalarFloat : Prop :=
  (∀ (s : State) (c : Nat) (g : Guard) (d a b : XReg) (pd : PReg) (m : BitVec 2),
      let x := s.ctx c
      let val := fun r : XReg => fp32.decode ((x.rx r).extractLsb' 0 32).toNat
      let pack := fun v : Machine.Num => BitVec.ofNat 64 (fp32.encode v)
      let rm := Rm.ofCode m.toNat
      let gives := fun (i : Instr) (v : Word) => GivesX s c i g [d, a, b] d v
      let conv := fun (i : Instr) (v : Word) => GivesX s c i g [d, a] d v
      let cmp := fun (i : Instr) (v : Bool) => GivesP s c i g [a, b] pd v
      gives (.fadd g d a b m) (pack (fp32.round rm (Machine.Num.add rm (val a) (val b)))) ∧
      gives (.fsub g d a b m) (pack (fp32.round rm (Machine.Num.add rm (val a) (val b).neg))) ∧
      gives (.fmul g d a b m) (pack (fp32.round rm ((val a).mul (val b)))) ∧
      gives (.ffma g d a b m) (pack (fma fp32 rm (val a) (val b) (val d))) ∧
      gives (.fmin g d a b) (pack ((val a).min (val b))) ∧ gives (.fmax g d a b) (pack ((val a).max (val b))) ∧
      cmp (.feq g pd a b) ((val a).eq (val b)) ∧ cmp (.flt g pd a b) ((val a).lt (val b)) ∧
      cmp (.fle g pd a b) ((val a).lt (val b) || (val a).eq (val b)) ∧
      conv (.icvtf g d a m) (pack (fp32.round rm (Machine.Num.ofInt (x.rx a).toInt))) ∧
      conv (.ucvtf g d a m) (pack (fp32.round rm (Machine.Num.ofInt (x.rx a).toNat))) ∧
      conv (.fcvti g d a m) (BitVec.ofInt 64 (toRange rm (-9223372036854775808) 9223372036854775807 (val a))) ∧
      conv (.fcvtu g d a m) (BitVec.ofInt 64 (toRange rm 0 18446744073709551615 (val a))) ∧
      conv (.fcvtb g d a m) (BitVec.ofNat 64 (bf16.encode (bf16.round rm (val a)))) ∧
      conv (.bcvtf g d a) (pack (bf16.decode ((x.rx a).extractLsb' 0 16).toNat)) ∧
      gives (.seedadv g d a b) (leap (x.rx a) (1048576 * (x.rx b).toNat))) ∧
  (∀ (s : State) (c : Nat) (g : Guard) (d a : XReg) (l : Fin 4),
      let x := s.ctx c
      let issued := fun fn => advance
        (s.setCtx c { x with lat := x.lat.set l ⟨x.lat[l].val, false, true, some (fn, (x.rx a).extractLsb' 0 32)⟩ }) c .k 4
      let waits := fun (o : Out3) (t : State) => o = .next t ∧ (t.ctx c).k.pc = x.k.pc ∧ (t.ctx c).lat = x.lat ∧ (t.ctx c).x = x.x
      let issues := fun (i : Instr) (fn : Nat) => KReady s c i g [a] →
        (x.lat[l].busy = false → exec i s = .next (issued fn)) ∧ (x.lat[l].busy = true → waits (exec i s) (blockQuiet s c .k))
      (issues (.rcp g l a) 0 ∧ issues (.rsq g l a) 1 ∧ issues (.exp2 g l a) 2 ∧ issues (.log2 g l a) 3) ∧
      (KReady s c (.mvl g d l) g [d] →
        (x.lat[l].valid = true → exec (.mvl g d l) s = .next (writesX s c 4 d (x.lat[l].val.zeroExtend 64))) ∧
        (x.lat[l].valid = false → waits (exec (.mvl g d l) s)
          (if x.lat[l].busy then blockQuiet s c .k else blockTeam s c .k))) ∧
      ∀ fn o, x.lat[l].op = some (fn, o) →
        exec (.sfuLanding c l) s = .next (s.setCtx c { x with lat := x.lat.set l ⟨sfu fn o, true, false, none⟩ }))

/-- Writing x0 or p0 writes nothing, and they read as 0 and as true (spec/02 R24, spec/09 R182); any other register reads
as it was last written, and every other register as before.

The frame of every K instruction that writes one register (`regDest`): memory, every other context, every other
register, stream, queue, accumulator, system register and fault register are as before, and K goes on behind it.

A K instruction that issues and names a register beyond the allocation of its kernel raises the register-allocation
fault, precise at it, and has no effect (spec/03 R43, spec/08 R167).

A guarded K instruction whose guard is false has no effect (spec/08 R167): K goes on behind it, and nothing else of the
machine differs but the count of completed instructions. -/
def Obligations.RegisterFrame : Prop :=
  (∀ (x : Ctx) (v : Word) (w : Bool),
     (x.wx 0 v = x ∧ x.rx 0 = 0 ∧ x.wp 0 w = x ∧ x.rp 0 = true) ∧
     (∀ d, d ≠ 0 → (x.wx d v).rx d = v) ∧ (∀ d r, r ≠ d → (x.wx d v).rx r = x.rx r) ∧
     (∀ d, d ≠ 0 → (x.wp d w).rp d = w) ∧ ∀ d r, r ≠ d → (x.wp d w).rp r = x.rp r) ∧
  (∀ (i : Instr) (s : State) (c : Nat) (g : Guard) (len : Nat) (regs : List XReg) (dest : Sum XReg PReg),
     regDest i = some dest → kShape i = some (g, len, regs) → KReady s c i g regs →
     ∃ t, exec i s = .next t ∧ OnlyCtx s t c ∧ SameMemory s t ∧ OnlyRegs (s.ctx c) (t.ctx c) ∧
       (t.ctx c).k.pc = (s.ctx c).k.pc + BitVec.ofNat 64 len ∧ (t.ctx c).k.loops = (s.ctx c).k.loops ∧
       (match dest with
         | .inl d => (t.ctx c).p = (s.ctx c).p ∧ ∀ r : XReg, r ≠ d → (t.ctx c).rx r = (s.ctx c).rx r
         | .inr d => (t.ctx c).x = (s.ctx c).x ∧ ∀ r : PReg, r ≠ d → (t.ctx c).rp r = (s.ctx c).rp r)) ∧
  (∀ (i : Instr) (s : State) (c : Nat) (g : Guard) (len : Nat) (regs before : List XReg) (r : XReg) (after : List XReg),
     kShape i = some (g, len, regs) → s.turn.who = .lane c .k → i.wf = true → guardHolds (s.ctx c) g = true →
     regs = before ++ r :: after → (∀ q ∈ before, q.val < (s.ctx c).nx) → (s.ctx c).nx ≤ r.val →
     exec i s = .next (takeFault s c .k ⟨0x03, 0, 0, BitVec.ofNat 64 r.val⟩ (wordOf i))) ∧
  (∀ (i : Instr) (s : State) (c : Nat) (g : Guard) (len : Nat) (regs : List XReg),
     kShape i = some (g, len, regs) → s.turn.who = .lane c .k → i.wf = true → guardHolds (s.ctx c) g = false →
     exec i s = .next (advance s c .k len))

/-- Where a lane goes on: its PC is behind the instruction, it waits for nothing, its head has moved by one (spec/14 R303),
what it had noted of that instruction is gone, and nothing else of the machine differs but the performance counters.

How an instruction of the common block ends. In K, L and S the lane goes to `pc` with the loop stack given; in the
compute lane it joins those dispatched, and the lane goes on there (spec/04 R417). Nothing else of the machine differs but
the performance counters. -/
def Obligations.LaneMoves : Prop :=
  let onward := fun (y : LaneSt) (pc : Word) (loops : List (Word × W32)) =>
    { y with
      pc := pc, loops := loops, head := y.head + 1, wait := none, tokWait := none, remain := none, passBp := false
      passBk := false, hitStop := false }
  (∀ (s : State) (c : Nat) (ln : Lane) (len : Nat),
     let t := advance s c ln len
     let y := (s.ctx c).lane ln
     OnlyCtx s t c ∧ SameMemory s t ∧
       t.ctx c = { (s.ctx c).setLane ln (onward y (y.pc + BitVec.ofNat 64 len) y.loops) with perfCnt := (t.ctx c).perfCnt }) ∧
  (∀ (s : State) (c : Nat) (ln : Lane) (i : Instr) (pc : Word) (loops : List (Word × W32)),
     let t := complete s c ln i pc loops id
     let y := (s.ctx c).lane ln
     OnlyCtx s t c ∧ SameMemory s t ∧
       (ln ≠ .c → t.ctx c = { (s.ctx c).setLane ln (onward y pc loops) with perfCnt := (t.ctx c).perfCnt }) ∧
       (ln = .c → ∃ j : Infl, (j.i = i ∧ j.word = wordOf i ∧ j.pc = y.pc ∧ j.loops = y.loops ∧ j.stack = (s.ctx c).stack ∧
           j.results = [] ∧ j.flt = none) ∧
         t.ctx c =
           { (s.ctx c).setLane .c { y with pc := pc, loops := loops, wait := none, tokWait := none, passBp := false, passBk := false } with
             infl := (s.ctx c).infl ++ [j], copied := [], claiming := [] }))

/-! ## Control flow, in every lane -/

/-- NOP completes (spec/09 R210), and BR goes to the word that lies its offset of words from it (R196), in every lane.

CALL and CALLI write the next address to x1; CALLI reads its target before (spec/09 R196, R197). A register target above
2^52 or not a multiple of 4 faults with cause 0x26, DETAIL 2 or else 1 (R198). -/
def Obligations.Branches : Prop :=
  (∀ (s : State) (c : Nat) (ln : Lane) (g : Guard) (o : BitVec 20),
     let y := (s.ctx c).lane ln
     (LaneReady s c ln (.nop g) g → exec (.nop g) s = .next (complete s c ln (.nop g) (y.pc + 4) y.loops id)) ∧
     (LaneReady s c ln (.br g o) g →
       exec (.br g o) s = .next (complete s c ln (.br g o) (y.pc + 4 * o.signExtend 64) y.loops id))) ∧
  (∀ (s : State) (c : Nat) (g : Guard) (o : BitVec 20) (a : XReg),
     let x := s.ctx c
     let v := x.rx a
     let linked := s.setCtx c (x.wx 1 (x.k.pc + 4))
     (KReady s c (.call g o) g [] →
       exec (.call g o) s = .next (goto linked c .k (x.k.pc + 4 * o.signExtend 64))) ∧
     (v.toNat < 2 ^ 52 → v.toNat % 4 = 0 →
       (KReady s c (.calli g a) g [a] → exec (.calli g a) s = .next (goto linked c .k v)) ∧
       (KReady s c (.jmpi g a) g [a] → exec (.jmpi g a) s = .next (goto s c .k v))) ∧
     (¬(v.toNat < 2 ^ 52 ∧ v.toNat % 4 = 0) →
       let f : Flt := ⟨0x26, if v.toNat < 2 ^ 52 then 1 else 2, v, 0⟩
       (KReady s c (.calli g a) g [a] → exec (.calli g a) s = .next (takeFault s c .k f (wordOf (.calli g a)))) ∧
       (KReady s c (.jmpi g a) g [a] → exec (.jmpi g a) s = .next (takeFault s c .k f (wordOf (.jmpi g a))))))

/-- DO pushes the next address and its count, at most four deep; with a count of zero it goes behind its ENDDO, which it searches word
by word, up to 65,536 of them: without a matching ENDDO it is an illegal instruction, and a fetch of the search that faults is its own
fault. ENDDO goes back while passes are left, and else pops (spec/09 R199, R200). That the search tells a word by its opcode alone is
the model's reading (log 35). -/
def Obligations.Loops : Prop :=
  ∀ (s : State) (c : Nat) (ln : Lane) (n : BitVec 12) (r : BitVec 6),
    let y := (s.ctx c).lane ln
    let regReady := LaneReady s c ln (.doReg r) Guard.always ∧ (ln = .k → r.toNat < (s.ctx c).nx)
    let does := fun (i : Instr) (cnt : W32) =>
      (cnt ≠ 0 → y.loops.length < 4 →
        exec i s = .next (complete s c ln i (y.pc + 4) ((y.pc + 4, cnt) :: y.loops) id)) ∧
      (cnt ≠ 0 → 4 ≤ y.loops.length → exec i s = .next (faultAt s c ln i ⟨0x09, 1, 0, 0⟩)) ∧
      (cnt = 0 → let search := findEnd c ln 65536 (y.pc + 4) 0 false s
        (∀ t pc, search = .found t pc → exec i s = .next (complete t c ln i pc y.loops id)) ∧
        (∀ t, search = .none_ t → exec i s = .next (faultAt t c ln i ⟨0x01, 0, 0, 0⟩)) ∧
        (∀ t f, search = .flt t f → exec i s = .next (faultAt t c ln i f)) ∧
        (search = .wait → exec i s = .next (blockQuiet s c ln)))
    -- What the search of `m` words from `pc` comes to; `lit` says that the word there is a literal.
    (∀ (m : Nat) (pc : Word) (depth : Nat) (lit : Bool),
      let finds := fun (t : State) (pc : Word) (depth : Nat) (lit : Bool) => findEnd c ln m pc depth lit t
      findEnd c ln 0 pc depth lit s = .none_ s ∧
      (∀ t f, fetchWord s c pc = .flt t f → findEnd c ln (m + 1) pc depth lit s = .flt t f) ∧
      (fetchWord s c pc = .wait → findEnd c ln (m + 1) pc depth lit s = .wait) ∧
      (∀ t w, fetchWord s c pc = .word t w → findEnd c ln (m + 1) pc depth lit s =
        if lit = true then finds t (pc + 4) depth false
        else if w / 2 ^ 24 % 256 = 1 then finds t (pc + 4) (depth + 1) false
        else if w / 2 ^ 24 % 256 = 2 then (if depth = 0 then .found t (pc + 4) else finds t (pc + 4) (depth - 1) false)
        else finds t (pc + 4) depth (ln == .k && hasLiteral w))) ∧
    (LaneReady s c ln (.doImm n) Guard.always → does (.doImm n) (n.zeroExtend 32)) ∧
    (regReady → does (.doReg r) (if ln = .k then ((s.ctx c).rx r.toFin).extractLsb' 0 32 else (s.ctx c).cnt ln r.toNat)) ∧
    (LaneReady s c ln .enddo Guard.always →
      (y.loops = [] → exec .enddo s = .next (faultAt s c ln .enddo ⟨0x09, 2, 0, 0⟩)) ∧
      ∀ start left rest, y.loops = (start, left) :: rest →
        (left = 1 → exec .enddo s = .next (complete s c ln .enddo (y.pc + 4) rest id)) ∧
        (left ≠ 1 → exec .enddo s = .next (complete s c ln .enddo start ((start, left - 1) :: rest) id)))

/-- WAIT takes its tokens where the queue holds as many and no waiter is served first, and else waits; SIG pushes its tokens
where the queue stays at 63 or fewer, and else waits, with nothing pushed, as it does until what its lane has issued before has
completed; in the compute lane it pushes at its commit (spec/09 R203, R204, spec/04 R417).

SEND writes the low 32 bits of xA to a count register of another lane and marks it ARRIVED (spec/09 R201); RECV waits
for the mark of its own lane's register and clears it (R202). -/
def Obligations.TokensAndCounts : Prop :=
  (∀ (s : State) (c : Nat) (ln : Lane) (g : Guard) (q : Fin 16) (n : BitVec 6),
     let tq := (s.ctx c).tq
     let y := (s.ctx c).lane ln
     (LaneReady s c ln (.wait g q n) g → n.toNat ≤ tq[q].length → servedFirst (s.ctx c) ln.num q.val = false →
       recOf s (clusterOf c) = none →
       ∃ t, exec (.wait g q n) s = .next t ∧ (t.ctx c).tq[q] = tq[q].drop n.toNat ∧
         (∀ r, r ≠ q → (t.ctx c).tq[r] = tq[r]) ∧ ((t.ctx c).lane ln).pc = y.pc + 4 ∧ (t.ctx c).x = (s.ctx c).x) ∧
     (LaneReady s c ln (.wait g q n) g → tq[q].length < n.toNat →
       exec (.wait g q n) s = .next (blockLane s c ln 0 q.val n.toNat 0 true)) ∧
     (LaneReady s c ln (.sig g q n) g → ln ≠ .c → laneDone (s.ctx c) ln = true →
       tq[q].length + heldTokens (s.ctx c) q.val + n.toNat ≤ 63 →
       ∃ t, exec (.sig g q n) s = .next t ∧ (t.ctx c).tq[q] = tq[q] ++ List.replicate n.toNat (posOf s c ln) ∧
         (∀ r, r ≠ q → (t.ctx c).tq[r] = tq[r]) ∧ ((t.ctx c).lane ln).pc = y.pc + 4 ∧ (t.ctx c).x = (s.ctx c).x) ∧
     (LaneReady s c ln (.sig g q n) g → ln ≠ .c →
       (laneDone (s.ctx c) ln = false → exec (.sig g q n) s = .next (blockQuiet s c ln)) ∧
       (laneDone (s.ctx c) ln = true → 63 < tq[q].length + heldTokens (s.ctx c) q.val + n.toNat →
         exec (.sig g q n) s = .next (blockLane s c ln 7 q.val n.toNat 0 true) ∧
           ((blockLane s c ln 7 q.val n.toNat 0 true).ctx c).tq = tq ∧
           (((blockLane s c ln 7 q.val n.toNat 0 true).ctx c).lane ln).pc = y.pc)) ∧
     (LaneReady s c .c (.sig g q n) g →
       exec (.sig g q n) s = .next (completeNext s c .c (.sig g q n) fun j => { j with sig := some (q.val, n.toNat) }))) ∧
  (∀ (s : State) (c : Nat) (ln : Lane) (g : Guard) (tgt : BitVec 2) (n : Fin 8) (a : XReg),
     (KReady s c (.send g tgt n a) g [a] →
       ∃ t, exec (.send g tgt n a) s = .next t ∧
         vget (t.ctx c).n (8 * (tgt.toNat - 1) + n.val) 0 = ((s.ctx c).rx a).extractLsb' 0 32 ∧
         vget (t.ctx c).arrived (8 * (tgt.toNat - 1) + n.val) false = true ∧
         (∀ k, k ≠ 8 * (tgt.toNat - 1) + n.val → vget (t.ctx c).n k 0 = vget (s.ctx c).n k 0 ∧
           vget (t.ctx c).arrived k false = vget (s.ctx c).arrived k false) ∧
         (t.ctx c).k.pc = (s.ctx c).k.pc + 4 ∧ OnlyCtx s t c) ∧
     (LaneReady s c ln (.recv n) Guard.always → ln ≠ .k →
       vget (s.ctx c).arrived (8 * (ln.num - 1) + n.val) false = true → recOf s (clusterOf c) = none →
       ∃ t, exec (.recv n) s = .next t ∧ vget (t.ctx c).arrived (8 * (ln.num - 1) + n.val) true = false ∧
         (t.ctx c).n = (s.ctx c).n ∧ ((t.ctx c).lane ln).pc = ((s.ctx c).lane ln).pc + 4) ∧
     (LaneReady s c ln (.recv n) Guard.always → ln ≠ .k →
       vget (s.ctx c).arrived (8 * (ln.num - 1) + n.val) false = false →
       exec (.recv n) s = .next (blockLane s c ln 1 n.val 0 0 true)))

/-- A lane parks at its PARK once what it issued has completed (spec/09 R210); in the compute lane PARK dispatches, and the
lane stays at it. END makes no lane issue any more (spec/03 R50).

A BAR arrives once (spec/09 R205). The barrier of a team releases with the last arrival of its parcels that have not retired, and
every K lane of the team goes past its BAR at once (spec/03 R60, spec/14 R306). At a die or device barrier the team then waits until
every team of its launch that shares its home die, or every team of the launch, has arrived or ended (R60); it is stated of a barrier
that an earlier cycle has begun, since one begun in this cycle releases nothing in it (log 56, the model's reading). Arrivals of
differing levels raise cause 0x0D, with each parcel's level as DETAIL, and no BAR has had its effect (spec/20 R370). It is stated of
teams that no recording follows. A released lane goes on, and one that is not waits; a supervisor context, which no team holds, goes on
at once (the model's choice, log 31).

YIELD adds the context's STRIDE, 2^20 divided by its TICKETS, to its PASS, and the context issues no more in this cycle
(spec/09 R207, spec/03 R58). -/
def Obligations.WaitingAndEnding : Prop :=
  (∀ (s : State) (c : Nat) (ln : Lane) (g : Guard),
     (LaneReady s c ln (.park g) g → ln ≠ .c → laneDone (s.ctx c) ln = true → recOf s (clusterOf c) = none →
       exec (.park g) s = .next (parkLane s c ln) ∧ (((parkLane s c ln).ctx c).lane ln).parked = true ∧
         (((parkLane s c ln).ctx c).lane ln).pc = ((s.ctx c).lane ln).pc ∧ ((parkLane s c ln).ctx c).x = (s.ctx c).x) ∧
     (LaneReady s c .c (.park g) g →
       exec (.park g) s = .next (complete s c .c (.park g) (s.ctx c).cl.pc (s.ctx c).cl.loops id)) ∧
     (KReady s c (.endParcel g) g [] → recOf s (clusterOf c) = none →
       exec (.endParcel g) s = .next (endLanes s c) ∧ ((endLanes s c).ctx c).ended = true ∧
         allParked ((endLanes s c).ctx c) = true)) ∧
  (∀ (s : State) (c : Nat) (g : Guard) (l : BitVec 8),
     let cl := clusterOf c
     KReady s c (.bar g l) g [] →
       (isSup c = true → exec (.bar g l) s = .next (advance s c .k 4)) ∧
       (∀ tm, isSup c = false → (s.ctx c).bar = none → recOf s cl = none → (s.cluster cl).team = some tm → tm.held = none →
         (s.ctx c).resident = true → (s.ctx c).retired = false → inHandler (s.ctx c) = false →
         let arr := tm.arrivals ++ [(parcelOf c, l.toNat)]
         let all := ∀ k ∈ teamCtxs s cl, k ≠ c → (s.ctx k).retired = false → ∃ a ∈ tm.arrivals, a.1 = parcelOf k
         -- The K lanes of the team on cluster `k` that wait at a barrier go past it; one that does not wait stays.
         let passes := fun (t : State) (k : Nat) => ∀ d ∈ teamCtxs s k, inHandler (s.ctx d) = false →
           (d = c ∨ ∃ b, (s.ctx d).bar = some b ∧ b.released = false) →
           (t.ctx d).bar = none ∧ (t.ctx d).k.pc = (s.ctx d).k.pc + 4
         let stands := fun (t : State) => (∃ b, (t.ctx c).bar = some b ∧ b.level = l.toNat ∧ b.released = false) ∧
           (t.ctx c).k.pc = (s.ctx c).k.pc
         -- Some parcel has not arrived.
         (¬ all → ∃ t, exec (.bar g l) s = .next t ∧ stands t ∧ ((t.cluster cl).team.map (·.arrivals)) = some arr) ∧
         (all → (∀ a ∈ tm.arrivals, a.2 = l.toNat) →
           -- A team barrier.
           (l = 0 → ∃ t, exec (.bar g l) s = .next t ∧ passes t cl ∧ ((t.cluster cl).team.map (·.arrivals)) = some []) ∧
           -- A die or device barrier: the first team to arrive, or a later one.
           (l ≠ 0 → (s.launch tm.launch).bars.length ≤ tm.barOrd → ∃ t, exec (.bar g l) s = .next t ∧ stands t ∧
             ((t.cluster cl).team.map (·.waiting)) = some (some (l.toNat, tm.barOrd))) ∧
           (l ≠ 0 → ∀ b, (s.launch tm.launch).bars[tm.barOrd]? = some b → b.cyc ≠ s.cycle → b.released = false →
             (l ≠ 1 → b.dies = []) →
             (b.level = l.toNat →
               let b' := { b with arrived := b.arrived ++ [tm.t] }
               let there := fun h : Nat => homeArrived s tm.launch h b'
               let opens := fun h : Nat => if l = 1 then h ∈ b.dies ∨ (h ∈ homeDies (s.launch tm.launch) ∧ there h = true)
                 else ∀ k ∈ homeDies (s.launch tm.launch), there k = true
               ∃ t, exec (.bar g l) s = .next t ∧
                 (opens tm.home → tm.home ∈ homeDies (s.launch tm.launch) → passes t cl ∧
                   ((t.cluster cl).team.map (·.waiting)) = some none) ∧
                 (¬ opens tm.home → stands t ∧ ((t.cluster cl).team.map (·.waiting)) = some (some (l.toNat, tm.barOrd))) ∧
                 ∀ k tk, k ≠ cl → (s.cluster k).team = some tk → tk.launch = tm.launch → recOf s k = none →
                   (tk.waiting.map (·.2)) = some tm.barOrd → tk.home ∈ homeDies (s.launch tm.launch) →
                   (opens tk.home → passes t k ∧ ((t.cluster k).team.map (·.waiting)) = some none) ∧
                   (¬ opens tk.home → ((t.cluster k).team.map (·.waiting)) = some tk.waiting)) ∧
             (b.level ≠ l.toNat → (∀ a ∈ arr, let d := ctxOfParcel cl a.1
                 (s.ctx d).dbgFlt = none ∧ stopsFaults (s.ctx d) = false) → (arr.map (·.1)).Nodup → (∀ a ∈ arr, a.1 < 256) →
               ∃ t, exec (.bar g l) s = .next t ∧ ((t.cluster cl).team.map (·.held)) = some (some 0x0D) ∧
                 ∀ a ∈ arr, let y := t.ctx (ctxOfParcel cl a.1)
                   y.bar = none ∧ y.frCause.toNat % 65536 = 0x0D + a.2 % 256 * 256))) ∧
         -- Levels differ within the team.
         (all → (∃ a ∈ tm.arrivals, a.2 ≠ l.toNat) → (arr.map (·.1)).Nodup → (∀ a ∈ arr, a.1 < 256) →
           (∀ a ∈ arr, let d := ctxOfParcel cl a.1
             (s.ctx d).dbgFlt = none ∧ stopsFaults (s.ctx d) = false) →
           ∃ t, exec (.bar g l) s = .next t ∧ ((t.cluster cl).team.map (·.held)) = some (some 0x0D) ∧
             ∀ a ∈ arr, let y := t.ctx (ctxOfParcel cl a.1)
               y.bar = none ∧ y.frCause.toNat % 65536 = 0x0D + a.2 % 256 * 256)) ∧
       (isSup c = false → ∀ b, (s.ctx c).bar = some b →
         (b.released = true → recOf s (clusterOf c) = none →
           ∃ t, exec (.bar g l) s = .next t ∧ (t.ctx c).bar = none ∧ (t.ctx c).k.pc = (s.ctx c).k.pc + 4 ∧
             (t.ctx c).x = (s.ctx c).x) ∧
         (b.released = false → exec (.bar g l) s = .next (blockLane s c .k 3 l.toNat 0 0 true)))) ∧
  (∀ (s : State) (c : Nat), KReady s c .yield Guard.always [] →
     ∃ t, exec .yield s = .next t ∧ (t.ctx c).pass = (s.ctx c).pass + BitVec.ofNat 64 (1048576 / (s.ctx c).tickets) ∧
       (t.ctx c).yielded = some s.cycle ∧ (t.ctx c).k.pc = (s.ctx c).k.pc + 4 ∧ OnlyCtx s t c)

/-! ## Faults -/

/-- A context that takes its faults in its own handler enters it: the record holds the fault, HANDLER is set, every lane's
resume point is where it stood, and K goes on at the trap vector (spec/20 R352, R353, R355). Memory is as before but for the records
of the waits that the entry breaks off (spec/14 R311).

A fault that a context meets in handler state is recorded as a double fault, whose DETAIL is the cause within, and goes
to the supervisor, which holds the team (spec/20 R351, R356, R361); no fault waits for K's boundary or for the debugger's RUN. -/
def Obligations.FaultEntry : Prop :=
  (∀ (s : State) (c : Nat) (ln : Lane) (f : Flt) (word : Word), TakesFaults s c →
     InHandlerOf s (takeFault s c ln f word) c ln.num f (posOf s c ln) word true false ∧
       (NoRing s → SameMemory s (takeFault s c ln f word)) ∧ ∀ c', c' ≠ c → (takeFault s c ln f word).ctx c' = s.ctx c') ∧
  (∀ (s : State) (c : Nat) (ln : Lane) (f : Flt) (word : Word) (tm : Team),
     stopsFaults (s.ctx c) = false → inHandler (s.ctx c) = true → AtBoundary s c → c < 16384 → (s.cluster (clusterOf c)).team = some tm → f.cause < 256 →
     let t := takeFault s c ln f word
     (t.ctx c).frCause.toNat % 65536 = 0x11 + f.cause * 256 ∧ (t.ctx c).frAddr = 0 ∧ (t.ctx c).frInfo = 0 ∧
       (t.cluster (clusterOf c)).team = some { tm with held := some 0x11 } ∧ halted t c = true)

/-- TRAP raises the software trap: in K, L and S it is precise at the TRAP, whose next word is the resume point, and FR_INFO
holds CODE (spec/09 R208, spec/20 R353); in the compute lane it is raised once it is the oldest (spec/04 R417).

ERET in handler state clears HANDLER and resumes every lane at its resume point, a parked one where bit 0 is set, once
what the lane issued before its PARK has completed (spec/20 R353, R354, spec/09 R210); outside it is a privilege violation, cause 0x02 with DETAIL 4 (spec/09 R197). -/
def Obligations.TrapsAndReturn : Prop :=
  (∀ (s : State) (c : Nat) (ln : Lane) (g : Guard) (code : BitVec 12),
     let f : Flt := ⟨0x0A, 0, 0, code.zeroExtend 64⟩
     LaneReady s c ln (.trap g code) g →
       (ln ≠ .c → TakesFaults s c →
         ∃ t, exec (.trap g code) s = .next t ∧
           InHandlerOf (advance s c ln 4) t c ln.num f (posOf s c ln) (wordOf (.trap g code)) true false) ∧
       (ln = .c → exec (.trap g code) s = .next (dispatchFault s c (.trap g code) (wordOf (.trap g code)) f none))) ∧
  (∀ (s : State) (c : Nat) (g : Guard), KReady s c (.eret g) g [] →
     (inHandler (s.ctx c) = false →
       exec (.eret g) s = .next (takeFault s c .k ⟨0x02, 4, 0, 0⟩ (wordOf (.eret g)))) ∧
     (inHandler (s.ctx c) = true →
       exec (.eret g) s = .next (returnFault s c) ∧
       ((s.ctx c).heldFlts = [] → (∃ n : Fin 4, bitAt (s.ctx c).frResume[n] 0 = false) →
         let y := (returnFault s c).ctx c
         inHandler y = false ∧
           ∀ (ln : Lane) (n : Fin 4), n.val = ln.num →
             (y.lane ln).pc = (s.ctx c).frResume[n] &&& ~~~1 ∧
             (y.lane ln).parked = (bitAt (s.ctx c).frResume[n] 0 && !((s.ctx c).lane ln).parking))))

/-- BKPT is a NOP where no debugger is armed or where it has stopped the lane at it already; else it stops the context, a
stepping one included, with the lane's head at it, REASON 3 and its CODE (spec/09 R209, spec/14 R308, R309).

A word that would issue and is no instruction of the lane raises the illegal-instruction fault, cause 0x01, at it
(spec/08 R166, R168): precise in K, L and S, in the compute lane at its dispatch. In a kiln program such a word stops the
program with the kiln-program fault, cause 0x2D with DETAIL 1, whose FR_INFO names the word (spec/13 R293). -/
def Obligations.StopsAtWords : Prop :=
  (∀ (s : State) (c : Nat) (ln : Lane) (g : Guard) (code : BitVec 8),
     let y := (s.ctx c).lane ln
     LaneReady s c ln (.bkpt g code) g →
       (bitAt (s.ctx c).dbgCtl 0 = false ∨ y.passBk = true →
         exec (.bkpt g code) s = .next (complete s c ln (.bkpt g code) (y.pc + 4) y.loops id)) ∧
       (bitAt (s.ctx c).dbgCtl 0 = true → y.passBk = false → (s.ctx c).stopped = false ∨ stepping (s.ctx c) = true →
         ∃ t, exec (.bkpt g code) s = .next t ∧ (t.ctx c).stopped = true ∧
           (t.ctx c).dbgStat = BitVec.ofNat 64 (3 + 2 ^ 6 + code.toNat * 2 ^ 8) ∧ ((t.ctx c).lane ln).pc = y.pc)) ∧
  (∀ (s : State) (w : W32),
     (∀ c ln, s.turn.who = .lane c ln → ln ≠ .c →
       exec (.illegalInstruction w) s = .next (takeFault s c ln ⟨0x01, 0, 0, 0⟩ (w.zeroExtend 64))) ∧
     (∀ c, s.turn.who = .lane c .c →
       exec (.illegalInstruction w) s =
         .next (dispatchFault s c (.illegalInstruction w) (w.zeroExtend 64) ⟨0x01, 0, 0, 0⟩ none)) ∧
     (∀ cl r, XReady s cl r →
       exec (.illegalInstruction w) s = .next (progress (s.modCluster cl fun x =>
         { x with
           run := none
           flts := x.flts ++ [⟨⟨0x2D, 1, 0, BitVec.ofNat 64 (r.pc % 4096)⟩, r.c, 0, kilnPos s cl⟩] }) cl)))

/-! ## System registers -/

/-- CSRR writes the register's value, zero-extended, to xD (spec/09 R212): the position of the context (spec/01 R8), the shape of
the device (R9), global time, the parcel's place in its launch (spec/03 R46), the conversion and running-maximum registers, the
state of the latches (spec/09 R195), the stack registers, the fault record, and the registers of the context's die.

CSRW writes the register where it allows the write, and else is an illegal operation, cause 0x02: DETAIL 1 for a
read-only register, 3 for a register that only a supervisor context writes, 2 for a reserved field that is set and a value that the
register's entry reserves, 6 for a register that is in use (spec/09 R212, spec/20 R357). A register that the write only stores reads
back the value written, its width of it, from the same context: the conversion registers (spec/07 R142), the handler's scratch, the
discard and error counts, the launch queues' tickets (spec/03 R53), the stack pool's place (spec/04 R76), the fault ring's (spec/20
R359), and the debug, watchpoint, counter, trace and recording registers of spec/14 and spec/22 R403; a supervisor context reaches with
it the context that its DBG_SEL names (spec/14 R305). AM0 to AM3 take any value from any context (spec/09 R215), and the
performance counters too. The registers whose write does more refuse what their entries reserve: DBG_CTL (spec/14 R308), TRIG_CTL
(R316), SBUF_RD (spec/22 R402) and FLT_CTL (spec/20 R361). -/
def Obligations.SystemRegisters : Prop :=
  (∀ (s : State) (c : Nat) (g : Guard) (d : XReg) (n : BitVec 12),
     (KReady s c (.csrr g d n) g [d] → recOf s (clusterOf c) = none →
       exec (.csrr g d n) s = .next (writesX s c 4 d (csrRead s c n.toNat))) ∧
     (isSup c = false →
       let x := s.ctx c
       (let id := (csrRead s c 0x000).toNat
        bits id 14 2 = dieOf c ∧ bits id 10 4 = clusterOf c % 16 ∧ bits id 4 6 = coreOf c % 64 ∧ bits id 2 2 = c % 4 ∧
          id % 4 = 0 ∧ id / 2 ^ 16 = 0) ∧
       (let shape := (csrRead s c 0x001).toNat
        bits shape 26 3 = 2 ∧ bits shape 22 4 = 4 ∧ bits shape 18 4 = 6 ∧ bits shape 16 2 = 3 ∧ bits shape 11 5 = 16 ∧
          bits shape 0 11 = 512 ∧ shape / 2 ^ 29 = 0) ∧
       csrRead s c 0x003 = x.teamId ∧ csrRead s c 0x004 = x.larg ∧
       (∀ k : Fin 4, csrRead s c (0x008 + k.val) = x.lix[k].zeroExtend 64 ∧
         csrRead s c (0x00C + k.val) = x.lex[k].zeroExtend 64) ∧
       (∀ k : Fin 4, bitAt (csrRead s c 0x018) k.val = x.lat[k].valid ∧ bitAt (csrRead s c 0x018) (4 + k.val) = x.lat[k].busy) ∧
       csrRead s c 0x018 &&& ~~~0xFF = 0 ∧
       csrRead s c 0x002 = BitVec.ofNat 64 (s.gt + (s.die (dieOf c)).gtOff) ∧
       csrRead s c 0x010 = x.cvtCtl.zeroExtend 64 ∧ csrRead s c 0x011 = x.cvtSr ∧
       csrRead s c 0x012 = x.cvtStat.zeroExtend 64 ∧
       (∀ k : Fin 4, csrRead s c (0x014 + k.val) = x.am[k].zeroExtend 64) ∧
       csrRead s c 0x020 = x.cDepth.zeroExtend 64 ∧ csrRead s c 0x021 = x.cRes.zeroExtend 64 ∧
       csrRead s c 0x022 = x.ovfBase ∧ csrRead s c 0x023 = x.ovfPtr ∧ csrRead s c 0x024 = x.ovfLimit ∧
       csrRead s c 0x600 = x.frCause ∧ csrRead s c 0x601 = x.frPos ∧ csrRead s c 0x602 = x.frWord ∧
       csrRead s c 0x603 = x.frAddr ∧ csrRead s c 0x604 = x.frInfo ∧
       (∀ k : Fin 4, csrRead s c (0x608 + k.val) = x.frResume[k] ∧ csrRead s c (0x60C + k.val) = x.frScr[k]) ∧
       (∀ k : Fin 16, csrRead s c (0x410 + k.val) = (s.die (dieOf c)).q[k].cfg.zeroExtend 64) ∧
       csrRead s c 0x404 = (s.die (dieOf c)).brBase)) ∧
  (∀ (s : State) (c : Nat) (g : Guard) (a : XReg) (n : BitVec 12), KReady s c (.csrw g a n) g [a] →
     let v := (s.ctx c).rx a
     let illegalAt := fun detail : Nat =>
       takeFault s c .k ⟨0x02, detail, 0, BitVec.ofNat 64 n.toNat⟩ (wordOf (.csrw g a n))
     (∀ t, csrWrite s c n.toNat v = (0, t) → exec (.csrw g a n) s = .next (advance t c .k 4)) ∧
     (∀ k : Fin 4, n = BitVec.ofNat 12 (0x014 + k.val) →
       exec (.csrw g a n) s =
         .next (advance (s.setCtx c { s.ctx c with am := (s.ctx c).am.set k (v.extractLsb' 0 32) }) c .k 4)) ∧
     (let e := csrTarget s c n.toNat
      ∀ k : Fin 4, n = BitVec.ofNat 12 (0x724 + k.val) →
       exec (.csrw g a n) s =
         .next (advance (s.setCtx e { s.ctx e with perfCnt := (s.ctx e).perfCnt.set k v }) c .k 4)) ∧
     (let w := if csrNarrow n.toNat then (v.extractLsb' 0 32).zeroExtend 64 else v
      ∀ ok, csrTakes n.toNat w = some ok → csrAccess n.toNat = .rw ∨ isSup c = true →
       (ok = true → csrBusy s c n.toNat = false → ∃ t, exec (.csrw g a n) s = .next t ∧ csrRead t c n.toNat = w) ∧
         (ok = false → csrBusy s c n.toNat = false → exec (.csrw g a n) s = .next (illegalAt 2)) ∧
         (ok = true → csrBusy s c n.toNat = true → exec (.csrw g a n) s = .next (illegalAt 6))) ∧
     (isSup c = true →
       let x := s.ctx (csrTarget s c n.toNat)
       let w := (v.extractLsb' 0 32).toNat
       (n = 0x700 → bits v.toNat 32 32 ≠ 0 ∨ bits v.toNat 22 2 ≠ 0 ∨ bits v.toNat 18 2 ≠ 0 ∨ bits v.toNat 9 7 ≠ 0 ∨ bits v.toNat 4 4 ≠ 0 ∨
           bits v.toNat 16 2 = 3 ∨ (bitAt v 3 = true ∧ bits v.toNat 24 8 = 0) ∨
           ((bitAt v 2 = true ∨ bitAt v 3 = true) ∧ x.stopped = false) →
         exec (.csrw g a n) s = .next (illegalAt 2)) ∧
       (n = 0x612 → bits w 8 24 ≠ 0 ∨ bits w 2 2 ≠ 0 ∨ bits w 0 2 = 0 ∨ bits w 0 2 = 3 → exec (.csrw g a n) s = .next (illegalAt 2)) ∧
       (n = 0x744 → w % 32 ≠ 0 ∨ (s.die (dieOf c)).sbufLen.toNat ≤ w → exec (.csrw g a n) s = .next (illegalAt 2))) ∧
     (n = 0x730 → bits v.toNat 12 20 ≠ 0 → exec (.csrw g a n) s = .next (illegalAt 2)) ∧
     (csrAccess n.toNat = .ro → supReadOnly n.toNat = false → exec (.csrw g a n) s = .next (illegalAt 1)) ∧
     (csrAccess n.toNat = .sup → isSup c = false → exec (.csrw g a n) s = .next (illegalAt 3)) ∧
     (csrAccess n.toNat = .sup → isSup c = true → ∀ t, writeAllowed s c (csrTarget s c n.toNat) n.toNat
         (if csrNarrow n.toNat then BitVec.ofNat 64 (v.toNat % 2 ^ 32) else v) = (0, t) →
       exec (.csrw g a n) s = .next (advance t c .k 4)))

/-! ## Memory -/

/-- A scalar load of a size of 1, 2, 4 or 8 bytes, zero or sign extended, of bytes that resolve (spec/10 R218, R219): LD, LDS, LDA and
LDA.SYS. One that misses leaves its reply outstanding, and nothing else; the reply performs it (spec/09 R179, spec/21 R377), and what
had waited for it follows (`replied`). One that a parcel had issued before its supervisor ended it performs too, and nothing follows
(spec/03 R50). A load that a held store comes before (spec/06 R119) waits; where it lies apart and is of another class, it does not
(spec/10 R218). -/
def Obligations.Loads : Prop :=
  ∀ (s s' : State) (c : Nat) (g : Guard) (d a : XReg) (cls : BitVec 4) (z r : BitVec 2) (ps : List (Loc × Nat)),
    let n := 2 ^ z.toNat
    let info := BitVec.ofNat 64 (16 * cls.toNat)
    let v := leNat (readPieces s' ps)
    let loads := fun (i : Instr) (w : Word) => Misses s c i g [d, a] ∧
      (resolve s (Acc.load c 0 z.toNat info) ((s.ctx c).rx a) n = .ok s' ps →
        (storesFirst (s.ctx c) info false ps = false →
          Performs s c i g [d, a] (advance (noMiss (s'.modCtx c fun x => x.wx d w) c) c .k 4)) ∧
        (storesFirst (s.ctx c) info false ps = true → KReady s c i g [d, a] → s.turn.miss = false →
          exec i s = .next (blockQuiet s c .k)))
    loads (.ld g d a cls z) (BitVec.ofNat 64 v) ∧ loads (.lds g d a cls z) ((BitVec.ofNat (8 * n) v).signExtend 64) ∧
    loads (.lda g d a cls z r) (BitVec.ofNat 64 v) ∧ loads (.ldaSys g d a cls z) (BitVec.ofNat 64 v)

/-- The faults of a scalar access, in the order in which they are found (spec/21 R419): the address itself (cause 0x20), its
alignment (0x24), the range of a cluster or core space (0x23), the translation (0x21), a permission (0x22), the physical
address (0x20, 0x23). Each is precise at the instruction, which has had no effect, and its DETAIL holds the KIND of the access
and the SUB of spec/21 R376 (spec/05 R92, R93, R96-R99, spec/04 R79). A miss of the micro-TLB counts although its access faults
(spec/14 R313).

A walk finds the fault at the level that it has reached: an entry that is not valid, a pointer with a reserved bit set or below
the last level, a leaf above level 2 or one that breaks spec/05 R97 or R98; another leaf gives the page (R96), of 64 KiB for one of a group
of 16 (R97), whose entries are all read. Two things here are the model's choices: the entries of a table are read under key slot 0
(log 14, PRESUMED), and the bedrock pool's fault comes before that of a stack out of service (log 53). -/
def Obligations.AccessFaults : Prop :=
  (∀ (i : Instr) (s : State) (c : Nat) (g : Guard) (len : Nat) (regs : List XReg) (a : XReg) (acc : Acc),
     let addr := (s.ctx c).rx a
     let v := addr.toNat
     let n := 2 ^ acc.align
     let space := v / 2 ^ 62
     let wide := if space = 0 then 52 else if space = 1 then 24 else 19
     let high := v % 2 ^ 62 / 2 ^ wide
     let takes := fun (u : State) (f : Flt) => exec i s = .next (takeFault (noMiss u c) c .k f (wordOf i))
     let found := fun (u : State) (cause sub : Nat) (at_ : Word) => takes u ⟨cause, acc.kind + 16 * sub, at_, acc.info⟩
     let faults := found s
     kShape i = some (g, len, regs) → scalarAcc c i = some (a, acc) → KReady s c i g regs →
     (s.turn.miss = false ∨ acc.rd = false) →
     (space = 3 → faults 0x20 1 addr) ∧
     (space ≠ 3 → high ≠ 0 → faults 0x20 2 addr) ∧
     (space ≠ 3 → high = 0 → v % n ≠ 0 → faults 0x24 acc.align addr) ∧
     (space = 1 ∨ space = 2 → high = 0 → v % n = 0 → localSize s c (space == 2) < v % 2 ^ wide + n →
       faults 0x23 space addr) ∧
     (space = 0 → high = 0 → v % n = 0 → ∀ (va : Nat) (s' : State),
       (if isSup c then some v else forward (s.cluster (clusterOf c)) v) = some va →
       (∀ f, translate s acc va = (s', .flt f) → takes s' f) ∧
       ∀ t, translate s acc va = (s', .leaf t) →
         let pa := t.pa + (va - t.va)
         let sup := bitAt t.perm 3 && !isSup c
         let noRd := acc.rd && !bitAt t.perm 0
         let noWr := acc.wr && !bitAt t.perm 1
         (sup = true → found s' 0x22 4 (BitVec.ofNat 64 va)) ∧
         (sup = false → noRd = true → found s' 0x22 1 (BitVec.ofNat 64 va)) ∧
         (sup = false → noRd = false → noWr = true → found s' 0x22 2 (BitVec.ofNat 64 va)) ∧
         (sup = false → noRd = false → noWr = false →
           let u := countMiss s acc va
           (targetOf pa = .reserved → found u 0x20 3 (BitVec.ofNat 64 va)) ∧
           (targetOf pa = .hbm → inPool s' pa 1 = true → found u 0x23 3 (BitVec.ofNat 64 va))))) ∧
  (∀ (s : State) (acc : Acc) (asid va sh n : Nat) (rest : List (Nat × Nat)) (lv tbl : Nat),
     let ea := tbl + 8 * (va / 2 ^ sh % 2 ^ n)
     let e := leNat (readPhys s 0 ea 8)
     let found := walkFrom s acc asid va ((sh, n) :: rest) lv tbl
     let bad := found = .flt ⟨0x21, acc.kind + 16 * lv, BitVec.ofNat 64 va, acc.info⟩
     let grp := if e / 2 ^ 7 % 2 = 1 then entries8 16 (readPhys s 0 (ea / 128 * 128) 128) else []
     walk s acc va =
       walkFrom s acc ((s.ctx acc.c).ptRoot.toNat % 2 ^ 12) va levels 0 ((s.ctx acc.c).ptRoot.toNat / 2 ^ 12 % 2 ^ 40 * 4096) ∧
     (checkPhys s acc.table (BitVec.ofNat 64 va) ea 8 0 = .go →
       (e % 2 = 0 → bad) ∧
       (e % 4 = 1 → pointerOk e = false ∨ rest = [] → bad) ∧
       (e % 4 = 1 → pointerOk e = true → rest ≠ [] →
         found = walkFrom s acc asid va rest (lv + 1) (e / 2 ^ 12 % 2 ^ 40 * 4096)) ∧
       (e % 4 = 3 → (e / 2 ^ 7 % 2 = 1 → checkPhys s acc.table (BitVec.ofNat 64 va) (ea / 128 * 128) 128 0 = .go) →
         (lv < 2 ∨ leafOk e sh grp = false → bad) ∧
         (2 ≤ lv → leafOk e sh grp = true →
           let lg := if e / 2 ^ 7 % 2 = 1 then 16 else sh
           found = .leaf ⟨asid, va / 2 ^ lg * 2 ^ lg, lg, e / 2 ^ 12 % 2 ^ 40 * 4096 / 2 ^ lg * 2 ^ lg, e / 2 ^ 52 % 64,
             BitVec.ofNat 5 (e / 4 % 32)⟩)) ∧
       (e % 4 = 3 → e / 2 ^ 7 % 2 = 1 → ∀ f, checkPhys s acc.table (BitVec.ofNat 64 va) (ea / 128 * 128) 128 0 = .flt f →
         found = .flt f)))

/-- A read of a place gives the bytes that were last written there, whatever they are (spec/06 R118).

A scalar store writes the low bytes of xD at the address in xA (spec/10 R218, R219): the bytes read back, every other
byte of memory reads as before, registers are as before, and K goes on. It is stated where no sample ring captures, since
a watchpoint's record is a write too, and where the HBM bytes are under the key of the access.

A store whose page, stack or route does not answer yet, or that must follow such a store, is held, and K goes on (spec/10 R218); it
performs later. One that then meets a fault takes K back to it: the fault is precise at the store (spec/21 R377, spec/20 R356). An
instruction that must follow a held store waits (spec/06 R121); which do, where the store may still meet a fault, is the model's
choice (log 57). -/
def Obligations.Stores : Prop :=
  (∀ (s : State) (l : Loc) (bs : List Byte), readPiece (writePiece s l bs) (l, bs.length) = bs) ∧
  (∀ (s s' : State) (c : Nat) (g : Guard) (d a : XReg) (cls : BitVec 4) (z r : BitVec 2) (l : Loc),
     let n := 2 ^ z.toNat
     let addr := (s.ctx c).rx a
     let info := BitVec.ofNat 64 (16 * cls.toNat)
     let ps := [(l, n)]
     let stores := fun (i : Instr) (rel : Bool) => KReady s c i g [d, a] → storesFirst (s.ctx c) info rel ps = false →
       ∃ t, exec i s = .next t ∧
       readPiece t (l, n) = leBytes n ((s.ctx c).rx d).toNat ∧
       (∀ b, coversPhys ps b = false → t.memByte b = s.memByte b) ∧
       (∀ k b, coversCmem ps k b = false → t.cmemByte k b = s.cmemByte k b) ∧
       (∀ k b, coversScratch ps k b = false → t.scratchByte k b = s.scratchByte k b) ∧
       (t.ctx c).x = (s.ctx c).x ∧ (t.ctx c).p = (s.ctx c).p ∧ (t.ctx c).k.pc = (s.ctx c).k.pc + 4
     resolve s (Acc.store c 1 z.toNat info) addr n = .ok s' ps → s.Canonical → NoRing s → sameKey s' ps = true →
     stores (.st g d a cls z) false ∧ stores (.str g d a cls z r) true ∧ stores (.strSys g d a cls z) true) ∧
  (∀ (s : State) (c : Nat) (g : Guard) (d a : XReg) (cls : BitVec 4) (z r : BitVec 2),
     let n := 2 ^ z.toNat
     let addr := (s.ctx c).rx a
     let info := BitVec.ofNat 64 (16 * cls.toNat)
     let found := resolve s (Acc.store c 1 z.toNat info) addr n
     let held := fun (i : Instr) (rel : Bool) => KReady s c i g [d, a] →
       found = .wait ∨ (∃ s' ps, found = .ok s' ps ∧ storesFirst (s.ctx c) info rel ps = true) →
       ∃ t e, exec i s = .next t ∧ (t.ctx c).stores = (s.ctx c).stores ++ [e] ∧
         (e.addr = addr ∧ e.lg = z.toNat ∧ e.info = info ∧ e.data = leBytes n ((s.ctx c).rx d).toNat ∧ e.pos = posOf s c .k ∧
           e.word = wordOf i ∧ e.rel = rel ∧ ∀ u, e.undo = some u → u = ⟨(s.ctx c).x, (s.ctx c).p, (s.ctx c).k⟩) ∧
         (NoRing s → SameMemory s t) ∧ (t.ctx c).x = (s.ctx c).x ∧ (t.ctx c).p = (s.ctx c).p ∧
         (t.ctx c).k.pc = (s.ctx c).k.pc + 4
     held (.st g d a cls z) false ∧ held (.str g d a cls z r) true ∧ held (.strSys g d a cls z) true) ∧
  (∀ (s s' : State) (c : Nat) (e : HeldStore), (s.ctx c).stores = [e] → (s.ctx c).kmiss = none → (s.ctx c).dueFlt = none →
     (∀ ps, allParked (s.ctx c) = false → resolve s (Acc.store c 1 e.lg e.info) e.addr e.data.length = .ok s' ps → PlainPieces s ps →
       ∃ t, exec (.scalarAccessReply c) s = .next t ∧ (t.ctx c).stores = [] ∧ readPieces t ps = e.data ∧ KeepsOthers s t ps ∧
         (t.ctx c).x = (s.ctx c).x ∧ (t.ctx c).k = (s.ctx c).k) ∧
     (∀ u f, e.undo = some u → resolve s (Acc.store c 1 e.lg e.info) e.addr e.data.length = .flt s' f → (s.ctx c).retired = false →
       stopsFaults (s.ctx c) = false → inHandler (s.ctx c) = false → hasHandler (s.ctx c) c = true → (s.ctx c).infl = [] →
       (s.ctx c).dbgFlt = none → (∀ e ∈ (s.ctx c).stack, e.res ≠ .buffer) → u.k.parking = false →
       ∃ t, exec (.scalarAccessReply c) s = .next t ∧ inHandler (t.ctx c) = true ∧ (t.ctx c).x = u.x ∧ (t.ctx c).p = u.p ∧
         (t.ctx c).stores = [] ∧ (t.ctx c).frCause = causeWord f 0 true false true (!(s.ctx c).heldFlts.isEmpty) false ∧
         (t.ctx c).frPos = e.pos ∧ (t.ctx c).frWord = e.word ∧ (t.ctx c).frAddr = f.addr ∧ (t.ctx c).frInfo = f.info ∧
         (t.ctx c).frResume[0] = resumeOf u.k)) ∧
  (∀ (i : Instr) (s : State) (c : Nat) (g : Guard) (len : Nat) (regs : List XReg), kShape i = some (g, len, regs) →
     waitsStores (s.ctx c) i = true → s.turn.who = .lane c .k → i.wf = true → guardHolds (s.ctx c) g = true →
     (∀ r ∈ regs, r.val < (s.ctx c).nx) →
     exec i s = .next (blockQuiet s c .k))

/-- An atomic writes the sign extension of the old value to xD and its new value to memory in one step (spec/10 R221), at its issue,
or when its reply returns where it has missed (spec/21 R377). CAS writes only where the old value is the one expected. -/
def Obligations.Atomics : Prop :=
  ∀ (s s' : State) (c : Nat) (g : Guard) (d a b y : XReg) (cls : BitVec 4) (z o : BitVec 2) (sc : BitVec 3)
    (ps : List (Loc × Nat)),
    let n := 2 ^ z.toNat
    let w := 8 * n
    let addr := (s.ctx c).rx a
    let old := BitVec.ofNat w (leNat (readPieces s' ps))
    let arg := ((s.ctx c).rx b).extractLsb' 0 w
    let swapTo := ((s.ctx c).rx y).extractLsb' 0 w
    let pos := posOf s c .k
    let base := fun t : State => memDone (t.modCtx c fun x => x.wx d (old.signExtend 64)) c 8
    let wrote := fun v : BitVec w => atomicWatch (base (writePieces s' pos ps (leBytes n v.toNat))) c pos addr n ps
    let gives := fun (i : Instr) (swap : Bool) (v : BitVec w) => Misses s c i g [d, a, b] ∧
      (atomicRefused swap addr (classInfo cls) ps = none → Performs s c i g [d, a, b] (wrote v))
    recOf s (clusterOf c) = none → resolve s (Acc.rmw c z.toNat (classInfo cls)) addr n = .ok s' ps →
    storesFirst (s.ctx c) (classInfo cls) (bitAt o 1) ps = false →
    gives (.aadd g d a b cls z o sc) true (old + arg) ∧ gives (.aand g d a b cls z o sc) false (old &&& arg) ∧
    gives (.aor g d a b cls z o sc) false (old ||| arg) ∧ gives (.axor g d a b cls z o sc) false (old ^^^ arg) ∧
    gives (.amin g d a b cls z o sc) false (if old.slt arg then old else arg) ∧
    gives (.amax g d a b cls z o sc) false (if old.slt arg then arg else old) ∧
    gives (.aminu g d a b cls z o sc) false (if old.ult arg then old else arg) ∧
    gives (.amaxu g d a b cls z o sc) false (if old.ult arg then arg else old) ∧
    gives (.aswap g d a b cls z o sc) true arg ∧
    Misses s c (.cas g d a b y cls z o sc) g [d, a, b, y] ∧
    (atomicRefused true addr (classInfo cls) ps = none →
      Performs s c (.cas g d a b y cls z o sc) g [d, a, b, y] (if old = arg then wrote swapTo else base s'))

/-- MONW ends with the value loaded where it differs from xD, and else waits for a write to the 64-byte block, at its issue or when the
reply of its load returns (spec/21 R377); a write there wakes it and it loads again, and so does the passing of 65,536 ticks (spec/09
R206).

FENCE completes: every earlier access of the lane in a class of its mask has performed when it issues (spec/10 R222), and no store of
another class holds it up. Memory and every register are as before. -/
def Obligations.WaitsAndFences : Prop :=
  (∀ (s s' : State) (c : Nat) (g : Guard) (d a : XReg) (cls : BitVec 4) (z : BitVec 2) (ps : List (Loc × Nat)) (m : Monw),
     let i := Instr.monw g d a cls z
     let v := leNat (readPieces s' ps)
     let same := v = ((s.ctx c).rx d).toNat % 2 ^ (8 * 2 ^ z.toNat)
     let loads := fun t : State =>
       resolve t (Acc.load c 0 z.toNat (classInfo cls)) ((s.ctx c).rx a) (2 ^ z.toNat) = .ok s' ps
     let ended := fun o : Out3 => ∃ t, o = .next t ∧ (t.ctx c).rx d = (if d = 0 then 0 else BitVec.ofNat 64 v) ∧
       (t.ctx c).k.pc = (s.ctx c).k.pc + 4
     let waits := fun o : Out3 => ∃ t, o = .next t ∧ ((t.ctx c).monw.map fun m => m.i) = some i ∧ (t.ctx c).k.pc = (s.ctx c).k.pc ∧
       (t.ctx c).x = (s.ctx c).x
     Misses s c i g [d, a] ∧
     (recOf s (clusterOf c) = none → storesFirst (s.ctx c) (classInfo cls) false ps = false →
     (KReady s c i g [d, a] → s.turn.miss = false → loads s → (¬same → ended (exec i s)) ∧ (same → waits (exec i s))) ∧
     ((s.ctx c).kmiss = some i → (s.ctx c).stores = [] → (s.ctx c).retired = false → (s.ctx c).dueFlt = none → loads s →
       (¬same → ended (exec (.scalarAccessReply c) s)) ∧ (same → waits (exec (.scalarAccessReply c) s))) ∧
     ((s.ctx c).monw = some m → m.i = i → loads (s.modCtx c fun x => { x with monw := none }) → ¬same →
       frozen s c .k = false → (s.ctx c).dueFlt = none →
       (m.woken.isSome = true → ended (exec (.monwWake c) s)) ∧
       (m.gt + 65536 ≤ s.gtOf (dieOf c) → ended (exec (.monwTimeout c) s))))) ∧
  (∀ (s : State) (c : Nat) (g : Guard) (m : BitVec 16),
     (waitsStores (s.ctx c) (.fence g m) = (s.ctx c).stores.any fun e => bitAt m (bits e.info.toNat 4 4)) ∧
     (KReady s c (.fence g m) g [] → ∃ t, exec (.fence g m) s = .next t ∧ OnlyCtx s t c ∧ SameMemory s t ∧ (t.ctx c).x = (s.ctx c).x ∧
       (t.ctx c).p = (s.ctx c).p ∧ (t.ctx c).k.pc = (s.ctx c).k.pc + 4))

/-! ## Streams and launches -/

/-- SDEF writes one word of a stream's definition; with ARM, and always for SLDB and SOFF, the stream is armed with the new
definition, its positions and queues start over, and no other stream differs (spec/10 R223-R226). A definition that is not
valid is an illegal operand use, cause 0x04 with DETAIL 6. -/
def Obligations.StreamArming : Prop :=
  ∀ (s s' : State) (c : Nat) (g : Guard) (k : Fin 16) (a : XReg) (w : BitVec 3) (ps : List (Loc × Nat)),
    let t := (s.ctx c).strm[k]
    let v := (s.ctx c).rx a
    let set := putField t.blk (64 * w.toNat) 64 v.toNat
    let valid := fun blk : BitVec 512 => ({ Strm.init with blk := blk } : Strm).valid
    let armedAs := fun (o : Out3) (blk : BitVec 512) => ∃ u, o = .next u ∧
      (let r := (u.ctx c).strm[k]
       r.armed = true ∧ r.blk = blk ∧ r.rpos = 0 ∧ r.tpos = 0 ∧ r.wpos = 0 ∧ r.rowc = 0 ∧ r.arr = [] ∧ r.dep = []) ∧
      (∀ j, j ≠ k → (u.ctx c).strm[j] = (s.ctx c).strm[j]) ∧ (u.ctx c).x = (s.ctx c).x ∧
      (u.ctx c).k.pc = (s.ctx c).k.pc + 4
    let bad := fun (b : State) (i : Instr) => takeFault b c .k ⟨0x04, 6, 0, BitVec.ofNat 64 k.val⟩ (wordOf i)
    (KReady s c (.sdef g k a true w) g [a] →
      (valid set = true → armedAs (exec (.sdef g k a true w) s) set) ∧
      (valid set = false → exec (.sdef g k a true w) s = .next (bad s (.sdef g k a true w)))) ∧
    (KReady s c (.sdef g k a false w) g [a] → ∃ u, exec (.sdef g k a false w) s = .next u ∧
      (u.ctx c).strm[k].armed = false ∧ (u.ctx c).strm[k].blk = set ∧
      (∀ j, j ≠ k → (u.ctx c).strm[j] = (s.ctx c).strm[j]) ∧ (u.ctx c).k.pc = (s.ctx c).k.pc + 4) ∧
    (KReady s c (.sldb g k a) g [a] → resolve s (Acc.load c 0 6 0) v 64 = .ok s' ps → storesFirst (s.ctx c) 0 false ps = false →
      let blk := BitVec.ofNat 512 (leNat (readPieces s' ps))
      (valid blk = true → armedAs (exec (.sldb g k a) s) blk) ∧
      (valid blk = false → exec (.sldb g k a) s = .next (bad s' (.sldb g k a)))) ∧
    (KReady s c (.soff g k a) g [a] →
      let b : Int := t.base + v.toInt
      (0 ≤ b → b < 4503599627370496 → valid (putField t.blk 0 52 b.toNat) = true →
        armedAs (exec (.soff g k a) s) (putField t.blk 0 52 b.toNat)) ∧
      (b < 0 ∨ 4503599627370496 ≤ b ∨ valid (putField t.blk 0 52 b.toNat) = false →
        exec (.soff g k a) s = .next (bad s (.soff g k a))))

/-- A READ of an armed stream takes its token, issues the load of the tile at its read position into a free arrival entry and
goes on; with all four entries taken it waits, and past the extent it faults with cause 0x28 (spec/05 R108). The statement
is of a count of one: a longer READ issues its tiles one by one. -/
def Obligations.StreamReads : Prop :=
  ∀ (s s1 s2 : State) (c : Nat) (k : Fin 16) (n : BitVec 12) (tk : Toks) (v : BitVec 2) (a : Arr),
    let i := Instr.read k n tk v
    let t := (s1.ctx c).strm[k]
    let u := setRemain s1 c .l 1
    s.turn.who = .lane c .l → i.wf = true → ((s.ctx c).lane .l).remain = none → recOf s (clusterOf c) = none →
    (s.ctx c).strm[k].armed = true → afterToken s c .l tk = some s1 → tileCount (s1.ctx c) .l n v = 1 →
    (t.rpos ≠ t.extent → t.arr.length + t.claimed < 4 →
      loadTile u c k.val t.rpos (t.tpos == t.rpos) = some (s2, a) →
      ∃ w, exec i s = .next w ∧ (w.ctx c).strm[k].arr = t.arr ++ [⟨t.rpos, a⟩] ∧
        (w.ctx c).strm[k].rpos = t.rpos + 1 ∧ (w.ctx c).l.pc = (s.ctx c).l.pc + 4 ∧ (w.ctx c).l.remain = none) ∧
    (t.rpos ≠ t.extent → 4 ≤ t.arr.length + t.claimed → exec i s = .next (blockTeam (setRemain u c .l 1) c .l)) ∧
    (t.rpos = t.extent → exec i s = .next (takeFault (setRemain u c .l 1) c .l
      ⟨0x28, 1, BitVec.ofNat 64 (min t.extent (2 ^ 64 - 1)), BitVec.ofNat 64 (k.val + 2 ^ 16)⟩ (wordOf i)))

/-- A WRITE of an armed stream takes its token, stores the oldest departure at its write position and goes on: each segment of
the tile reads back as the bytes of the departing value's image (spec/05 R106, R111, R113), and every other byte of memory is as
before. With no departure it waits, past the extent it faults with cause 0x28 (R111), and a tile that has no packed form is a
conversion fault where the stream stores packed images (R113). That the extent is checked before a departure is waited for is the
model's reading (log 33). The statement is of a count of one. -/
def Obligations.StreamWrites : Prop :=
  ∀ (s s1 s2 : State) (c : Nat) (k : Fin 16) (n : BitVec 12) (tk : Toks) (v : BitVec 2) (d : Val) (rest : List Val)
    (l : List (Seg × List (Loc × Nat))),
    let i := Instr.write k n tk v
    let t := (s1.ctx c).strm[k]
    let u := setRemain s1 c .s 1
    s.turn.who = .lane c .s → i.wf = true → ((s.ctx c).lane .s).remain = none → recOf s (clusterOf c) = none →
    (s.ctx c).strm[k].armed = true → afterToken s c .s tk = some s1 → tileCount (s1.ctx c) .s n v = 1 →
    (t.wpos ≠ t.extent → t.dep = d :: rest → noForm t d = false →
      resolveSegs (Acc.store c 5 0 (streamInfo t k.val 1)) t.space (departure t t.wpos d).1 u = .ok s2 l →
      ∃ w, exec i s = .next w ∧ (w.ctx c).strm[k].dep = rest ∧ (w.ctx c).strm[k].wpos = t.wpos + 1 ∧
        (w.ctx c).strm[k].storing = t.storing ++ [(true, queueOf tk.ts, posOf s c .s)] ∧
        (w.ctx c).sl.pc = (s.ctx c).sl.pc + 4 ∧ (w.ctx c).x = (s.ctx c).x ∧
        l.map (·.1) = (departure t t.wpos d).1 ∧
        (PlainPieces s (l.flatMap (·.2)) →
          (∀ e ∈ l, readPieces w e.2 = leBytes e.1.len ((departure t t.wpos d).2 / 2 ^ (8 * e.1.at_))) ∧
          KeepsOthers s w (l.flatMap (·.2)))) ∧
    (∀ sd, (departure t t.wpos (.seed sd)) = ([⟨t.addr t.wpos, 64, 0⟩], sd.toNat)) ∧
    (∀ f p b, t.comp = false → departure t t.wpos (.single f p b) =
      (tileSegs t t.wpos, (xposeBy t.xpose (p, b)).1.toNat + (xposeBy t.xpose (p, b)).2.toNat * 2 ^ 32768)) ∧
    (∀ f p b bs, t.comp = true → packTile t.fmt p b = some bs →
      departure t t.wpos (.single f p b) = ([⟨t.addr t.wpos, 4288, 0⟩], leNat bs)) ∧
    (t.wpos ≠ t.extent → t.dep = d :: rest → noForm t d = true →
      exec i s = .next (takeFault (setRemain u c .s 1) c .s ⟨0x29, 5, 0, 0⟩ (wordOf i))) ∧
    (t.wpos ≠ t.extent → t.dep = [] → exec i s = .next (blockTeam (setRemain u c .s 1) c .s)) ∧
    (t.wpos = t.extent → exec i s = .next (takeFault (setRemain u c .s 1) c .s
      ⟨0x28, 2, BitVec.ofNat 64 (min t.extent (2 ^ 64 - 1)), BitVec.ofNat 64 (k.val + 2 ^ 16)⟩ (wordOf i)))

/-- The arrival of a tile puts its value, or its fault mark, in its arrival entry (spec/05 R108). A tile store that performs
leaves its stream's list, and the token of a WRITE is pushed where its queue has room, else it is due (R111). -/
def Obligations.TileTraffic : Prop :=
  ∀ (s : State) (c : Nat) (n : Fin 16) (k : Nat), allParked (s.ctx c) = false →
    let t := (s.ctx c).strm[n]
    (∃ u, exec (.tileArrival c n k) s = .next u ∧ (u.ctx c).strm[n].arr = t.arr.map fun e =>
      if e.tile = k then
        { e with st := match e.st with
          | .flight v => .here v
          | .flightBad f => .bad f
          | a => a }
      else e) ∧
    ∀ b q pos rest, t.storing = (b, q, pos) :: rest → (s.ctx c).sigDue = [] →
      (∀ r ∈ (s.ctx c).readSigs, r.isOpen (s.ctx c) = true) →
      (q = none → ∃ u, exec (.tileStorePerformed c n) s = .next u ∧ (u.ctx c).strm[n].storing = rest ∧
        (u.ctx c).tq = (s.ctx c).tq) ∧
      ∀ r : Fin 16, q = some r.val →
        let full := 63 < (s.ctx c).tq[r].length + heldTokens (s.ctx c) r.val + 1
        ∃ u, exec (.tileStorePerformed c n) s = .next u ∧ (u.ctx c).strm[n].storing = rest ∧
          (¬full → (u.ctx c).tq[r] = (s.ctx c).tq[r] ++ [pos] ∧ (u.ctx c).sigDue = []) ∧
          (full → (u.ctx c).tq[r] = (s.ctx c).tq[r] ∧ (u.ctx c).sigDue = [(r.val, pos)])

/-- LAUNCH reads and checks the kernel header, and enters the launch in the launch table with its header, its argument, its
page tables, its queue number and its teams; the queue of that number on each home die gets one entry with the home die's
teams, die by die up to one whose queue is full, where K stalls, and a LAUNCH that has stalled goes on with the dies left
(spec/09 R211, spec/03 R47, R52). It is stated where every die is in service, since R407 moves home dies. A header that fails
a check is a launch refusal, cause 0x0C with the check's DETAIL, as is a pool share too small for a team (DETAIL 11). -/
def Obligations.Launching : Prop :=
  ∀ (s s' : State) (c : Nat) (g : Guard) (q : Fin 16) (a b : XReg) (h : BitVec 512),
    let i := Instr.launch g q a b
    let x := s.ctx c
    -- From state `u` the entries of launch `n` reach the queues of the dies `done`; the dies `left` are still to come.
    let appends := fun (u : State) (n : Nat) (l : Launch) (done left : List Nat) => ∃ t, exec i s = .next t ∧ t.launch n = l ∧
      (∀ m, m ≠ n → t.launch m = u.launch m) ∧ t.nextLaunch = u.nextLaunch ∧ (t.ctx c).x = x.x ∧
      (∀ (d : Fin 4) (k : Fin 16), (t.dies[d].q[k]).ents = (u.dies[d].q[k]).ents ++
        (let first := (d.val + 4 - l.die % 4) % 4
         if k.val = l.queue ∧ d.val ∈ done ∧ first < l.teams then [⟨n, first, (l.teams + 3 - first) / 4⟩] else [])) ∧
      (left = [] → (t.ctx c).k.pc = x.k.pc + 4 ∧ pendingLaunch t c x.k.pc = none) ∧
      (left ≠ [] → (t.ctx c).k.pc = x.k.pc ∧ pendingLaunch t c x.k.pc = some (n, left))
    let upTo := fun (u : State) (l : Launch) (done left : List Nat) =>
      (∀ h ∈ done, queueFull u l h = false) ∧ ∀ h r, left = h :: r → queueFull u l h = true
    KReady s c i g [a, b] →
    (∀ d : Fin 4, s.dies[d].inReset = false ∧ s.dies[d].inService = true) →
    (pendingLaunch s c x.k.pc = none →
      (readHeader s c (x.rx a) = .ok s' h →
        let n := s'.nextLaunch
        let l := mkLaunch s' h (x.rx a) (x.rx b) x.ptRoot (dieOf c) q.val (rootOf s' c)
        (l.hdr = h ∧ l.hdrAddr = x.rx a ∧ l.arg = x.rx b ∧ l.ptRoot = x.ptRoot ∧ l.queue = q.val ∧ l.die = dieOf c ∧
          l.teams = (Header.ofBits h.toNat).teams) ∧
        (shareRefused s' l = false → ∀ done left, homeDies l = done ++ left → upTo s' l done left →
          appends { s' with nextLaunch := n + 1 } n l done left) ∧
        (shareRefused s' l = true → exec i s = .next (takeFault s' c .k ⟨0x0C, 11, x.rx a, 0⟩ (wordOf i)))) ∧
      ∀ d, readHeader s c (x.rx a) = .refused d →
        exec i s = .next (takeFault s c .k ⟨0x0C, d, x.rx a, 0⟩ (wordOf i))) ∧
    ∀ n done left, pendingLaunch s c x.k.pc = some (n, done ++ left) → (done ++ left).Nodup →
      (∀ d ∈ done ++ left, d < 4) → (s.launch n).queue < 16 → upTo s (s.launch n) done left →
      appends s n (s.launch n) done left

/-! ## Engine commands -/

/-- ECRD reads an escrow counter; ECPOST posts where the sum stays below 2^32 and retires what the counter holds, or faults
with cause 0x2B; ECWAIT goes on where the counter is at most its threshold and else waits (spec/10 R243-R245, spec/21
R383).

CPINV drops the block that xA names from the cluster's block cache, CPINV.ALL every block (spec/10 R237). -/
def Obligations.EscrowAndBlockCache : Prop :=
  (∀ (s : State) (c : Nat) (g : Guard) (d a : XReg) (e : Fin 64),
     let cl := clusterOf c
     let n := (s.cluster cl).ec[e].toNat
     let v := (((s.ctx c).rx a).extractLsb' 0 32).toInt
     let moved := fun (o : Out3) (m : Nat) => ∃ t, o = .next t ∧ (t.cluster cl).ec[e].toNat = m ∧
       (∀ f, f ≠ e → (t.cluster cl).ec[f] = (s.cluster cl).ec[f]) ∧ (t.ctx c).k.pc = (s.ctx c).k.pc + 4 ∧
       (t.ctx c).x = (s.ctx c).x
     recOf s cl = none →
     (EReady s c (.ecrd g d e) g [d] → exec (.ecrd g d e) s = .next (writesX s c 4 d (BitVec.ofNat 64 n))) ∧
     (EReady s c (.ecpost g a e) g [a] →
       (0 ≤ v → n + v.toNat < 2 ^ 32 → moved (exec (.ecpost g a e) s) (n + v.toNat)) ∧
       (0 ≤ v → 2 ^ 32 ≤ n + v.toNat → exec (.ecpost g a e) s = .next (blockLane s c .k 8 e.val v.toNat 0 true)) ∧
       (v < 0 → (-v).toNat ≤ n → (s.ctx c).stores = [] → moved (exec (.ecpost g a e) s) (n - (-v).toNat)) ∧
       (v < 0 → n < (-v).toNat → exec (.ecpost g a e) s = .next (takeFault s c .k
         ⟨0x2B, e.val, 0, BitVec.ofNat 64 (n + (-v).toNat * 2 ^ 32)⟩ (wordOf (.ecpost g a e))))) ∧
     (EReady s c (.ecwait g a e) g [a] →
       (n ≤ ((s.ctx c).rx a).toNat % 2 ^ 32 → moved (exec (.ecwait g a e) s) n) ∧
       (((s.ctx c).rx a).toNat % 2 ^ 32 < n →
         exec (.ecwait g a e) s = .next (blockLane s c .k 2 e.val (((s.ctx c).rx a).toNat % 2 ^ 32) 0 true)))) ∧
  (∀ (s : State) (c : Nat) (g : Guard) (a : XReg),
     let cl := clusterOf c
     let asid := asidOf (s.ctx c)
     (EReady s c (.cpinv g a) g [a] → ∃ t, exec (.cpinv g a) s = .next t ∧
       (∀ e, e ∈ (t.cluster cl).bcache ↔
         e ∈ (s.cluster cl).bcache ∧ ¬(e.1 / 64 = ((s.ctx c).rx a).toNat / 64 ∧ e.2.1 = asid)) ∧
       (t.ctx c).k.pc = (s.ctx c).k.pc + 4 ∧ (t.ctx c).x = (s.ctx c).x) ∧
     (EReady s c (.cpinvAll g) g [] → ∃ t, exec (.cpinvAll g) s = .next t ∧ (t.cluster cl).bcache = [] ∧
       (t.ctx c).k.pc = (s.ctx c).k.pc + 4 ∧ (t.ctx c).x = (s.ctx c).x))

/-- An engine command whose block is captured and passes its checks posts its bytes to its escrow counter, enters the queue of
its engine behind the commands there, and K goes on; where the counter has no room for the post, K stalls before it, and where
the engine has none, or a stamped command finds the time-sorted buffer full, K stalls after it (spec/10 R234, R235, spec/12
R284). The block is captured once: a stalled command keeps it (R234).

XSTART enters a start in the kiln's queue of four, and stalls where that is full (spec/10 R246). -/
def Obligations.CommandIssue : Prop :=
  (∀ (s : State) (c e : Nat) (a : Word) (start : Bool),
     ((s.ctx c).issuing = none → ∀ t b fresh, capture s c a start = .ok t b fresh →
       holdBlock s c a e start = .ok t ⟨(t.ctx c).k.pc, b, fresh, none, e, false⟩) ∧
     ∀ j, (s.ctx c).issuing = some j → j.pc = (s.ctx c).k.pc → holdBlock s c a e start = .ok s j) ∧
  (∀ (s s1 s2 : State) (c : Nat) (g : Guard) (a : XReg) (w t : Fin 16) (e : Fin 64) (j : Issuing)
     (p post : Nat) (map : BitVec 128) (i : Instr) (op : CmdOp),
     let cl := clusterOf c
     let addr := (s.ctx c).rx a
     let keeps := fun (u : State) (posted : Bool) =>
       (u.ctx c).issuing = some { j with found := some (map, post), posted := posted } ∧ (u.ctx c).k.pc = (s2.ctx c).k.pc ∧
         (u.cluster cl).cmds = (s2.cluster cl).cmds ∧ (u.ctx c).x = (s2.ctx c).x
     let held := (s2.cluster cl).escrow j.ec
     let due := if j.posted then 0 else post
     (i, op) ∈ [(Instr.cpy g a w t e, CmdOp.cpy), (.cpyq g a w t e, .cpyq), (.cpyrel g a w t e, .cpyrel),
       (.kvapp g a w t e, .kvapp), (.kvsel g a w t e, .kvsel), (.kvatt g a w t e, .kvatt), (.kvpre g a w t e, .kvpre),
       (.selact g a w t e, .selact)] →
     EReady s c i g [a] → addr.toNat % 64 = 0 → holdBlock s c addr e.val false = .ok s1 j → j.ec < 64 →
     blockPost op j.blk.toNat = some p → findOnce s1 c op j p addr = .ok s2 map post →
     (held + due < 2 ^ 32 → hasRoom (s2.cluster cl) op.eng (isStamped op j.blk.toNat) = true →
       ∃ u k, exec i s = .next u ∧ (u.cluster cl).cmds = (s2.cluster cl).cmds ++ [k] ∧
         (k.op = op ∧ k.eng = op.eng ∧ k.blk = j.blk ∧ k.c = c ∧ k.ec = j.ec ∧ k.ts = t.val ∧ k.left = post ∧
           k.phase = if waitsStamp s2 op cl j.blk.toNat then .stamped else .queued) ∧
         (u.cluster cl).escrow j.ec = held + due ∧ (u.ctx c).issuing = none ∧
         (u.ctx c).k.pc = (s2.ctx c).k.pc + 4 ∧ (u.ctx c).x = (s2.ctx c).x) ∧
     (held + due < 2 ^ 32 → hasRoom (s2.cluster cl) op.eng (isStamped op j.blk.toNat) = false →
       ∃ u, exec i s = .next u ∧ keeps u true ∧ (u.cluster cl).escrow j.ec = held + due) ∧
     (2 ^ 32 ≤ held + due → j.posted = false → ∃ u, exec i s = .next u ∧ keeps u false ∧ (u.cluster cl).escrow j.ec = held)) ∧
  (∀ (s s1 : State) (c : Nat) (g : Guard) (a : XReg) (w t : Fin 16) (j : Issuing),
     let cl := clusterOf c
     let addr := (s.ctx c).rx a
     let i := Instr.xstart g a w t
     EReady s c i g [a] → addr.toNat % 64 = 0 → holdBlock s c addr 0 true = .ok s1 j → xstartOk j.blk.toNat = true →
     ((s1.cluster cl).starts.length < 4 →
       ∃ u k, exec i s = .next u ∧ (u.cluster cl).starts = (s1.cluster cl).starts ++ [k] ∧
         (k.blk = j.blk ∧ k.blkAddr = addr ∧ k.c = c ∧ k.tw = w.val ∧ k.ts = t.val) ∧ (u.ctx c).issuing = none ∧
         (u.ctx c).k.pc = (s1.ctx c).k.pc + 4 ∧ (u.ctx c).x = (s1.ctx c).x) ∧
     (4 ≤ (s1.cluster cl).starts.length → ∃ u, exec i s = .next u ∧ (u.ctx c).issuing = some j ∧
       (u.cluster cl).starts = (s1.cluster cl).starts ∧ (u.ctx c).k.pc = (s1.ctx c).k.pc ∧ (u.ctx c).x = (s1.ctx c).x))

/-- A stamped command joins its engine's queue once GT reaches its stamp, in issue order among those that no stop keeps (spec/10
R235, spec/14 R307); a queued command
whose tokens are taken and whose turn has come starts, and an attention command then reads its slab map entry (R234, spec/11
R273).

A command whose writes have all performed makes its last decrement and then pushes its token, once its queue has room
(spec/10 R234, spec/06 R125): its escrow counter falls by what was left, and the token is its. -/
def Obligations.CommandLife : Prop :=
  (∀ (s : State) (cl id : Nat) (k : Cmd), (s.cluster cl).cmd id = some k → mayStart s cl k.c = true →
     (k.phase = .stamped → stampDue s cl (copyBlk k.blk.toNat).stamp = true →
       (∀ j ∈ (s.cluster cl).cmds, j.phase = .stamped → stampDue s cl (copyBlk j.blk.toNat).stamp = true →
         mayStart s cl j.c = true → id ≤ j.id) →
       ∃ t, exec (.stampReached cl id) s = .next t ∧
         (t.cluster cl).cmd id = some { k with phase := .queued, since := s.cycle }) ∧
     (k.phase = .queued → k.tws = [] → itsTurn (s.cluster cl) k = true →
       let k' := { k with phase := .running }
       let r := readMap (progress (putCmd s cl k') cl) cl k'
       ((r.1.cluster cl).cmd id).map (·.phase) = some .running ∧
       (readied r.1 cl r.2 = none → exec (.engineCommandStart cl id) s = .next r.1) ∧
       ∀ s2 k2, readied r.1 cl r.2 = some (s2, k2) → exec (.engineCommandStart cl id) s = .next s2)) ∧
  (∀ (s : State) (cl id : Nat) (k : Cmd), (s.cluster cl).cmd id = some k →
     (k.phase = .running → k.ready = true → k.bad = none →
       (k.op = .selact ∧ k.outs = [] ∨ k.op = .kvsel ∧ k.mapped = true ∧ k.outs = [] ∨
         k.op = .kvatt ∧ k.mapped = true ∧ k.outs = [] ∧ k.deliver = none ∨
         k.op = .cpy ∧ (copyBlk k.blk.toNat).count ≤ k.e) →
       exec (.engineCommandComplete cl id) s = .next (finishCmd s cl k)) ∧
     (k.phase = .pushing → exec (.engineCommandComplete cl id) s = .next (pushDone s cl k)) ∧
     (k.ec < 64 → k.left ≤ (s.cluster cl).escrow k.ec →
       ((finishCmd s cl k).cluster cl).escrow k.ec = (s.cluster cl).escrow k.ec - k.left) ∧
     (∀ q : Fin 16, k.ts = q.val → k.ts ≠ 15 → (s.ctx k.c).retired = false → tokenRoom (s.ctx k.c) k.ts 1 = true →
       ((finishCmd s cl k).ctx k.c).tq[q] = (s.ctx k.c).tq[q] ++ [k.at_ cl]))

/-- A running command performs its writes in order (spec/10 R239): the first listed write of an attention or selection
command reaches memory as it was computed, and its bytes retire from the command's escrow counter, unless it is the last
of the command; writes that share an aligned 8-byte word follow in the same step (spec/06 R118). The written bytes read back.
A copy goes on with its box: a unit whose source is read and whose destination resolves is written at the destination of its first
element, as its source values for CPY and as their conversion for CPYQ (R240, R241), and every other byte is as before. It is
stated of the last unit of the box, whose bytes the completion retires. The order in which such a command's writes are listed, and
that they are computed when it starts, are the model's choice (log 38). -/
def Obligations.CommandWrites : Prop :=
  ∀ (s s1 s2 : State) (cl id : Nat) (k k1 : Cmd) (ps : List (Loc × Nat)) (o : Out) (rest : List Out),
    (s.cluster cl).cmd id = some k → k.phase = .running → readied (readMap s cl k).1 cl (readMap s cl k).2 = some (s1, k1) →
    (k1.op ∈ [CmdOp.kvapp, .kvsel, .kvatt, .kvpre, .selact] → k1.outs = o :: rest →
      outsReady (progress s1 cl) k1.c (o :: rest) = true →
      resolve (progress s1 cl) (Acc.store k1.c 7 0 0) o.addr o.bytes.length = .ok s2 ps →
      let wrote := engWrite s2 cl k1.c (k1.at_ cl) o.addr ps o.bytes
      let k2 := { k1 with outs := rest }
      let n := min o.retire k1.left
      let retired := retireEc wrote cl k1.ec n (k1.at_ cl)
      let k3 := { k2 with left := k1.left - n }
      (rest = [] → k1.bad = none → exec (.copyArrival cl id 1) s = .next (putCmd wrote cl k2)) ∧
      (rest ≠ [] ∨ k1.bad.isSome = true →
        exec (.copyArrival cl id 1) s = .next (outsFrom cl rest.length 0 (nextJoins o rest) retired k3) ∧
          (nextJoins o rest = false → exec (.copyArrival cl id 1) s = .next (putCmd retired cl k3))) ∧
      ∀ l, ps = [(l, o.bytes.length)] → NoRing s2 → readPiece wrote (l, o.bytes.length) = o.bytes) ∧
    (k1.op ∈ [CmdOp.cpy, .cpyq] → k1.bad = none → ∀ n, exec (.copyArrival cl id n) s =
      .next (copyFrom (progress s1 cl) cl (copyBlk k1.blk.toNat) n n (progress s1 cl) k1)) ∧
    (k1.op ∈ [CmdOp.cpy, .cpyq] → k1.bad = none → k1.id = id → k1.ahead = [] → k1.part = [] →
      let u := progress s1 cl
      let b := copyBlk k1.blk.toNat
      let r := takeSrc u b k1 b.unit k1.e u
      let drawn := drawModes b.rnd b.unit k1.sr
      let out := if k1.op = .cpyq then convUnit b.df b.policy drawn.1 k1.k (r.vals.map (elemNum b.sf)) else ⟨r.vals, 127, none⟩
      let bs := unitBytes b.df out
      b.count = k1.e + b.unit → r.stop = none → out.bad = none →
      resolve u (Acc.store k1.c 7 0 0) (b.dstAt k1.e) bs.length ≠ .wait →
      resolve r.s (Acc.store k1.c 7 0 0) (b.dstAt k1.e) bs.length = .ok s2 ps → PlainPieces s1 ps →
      ∃ t, exec (.copyArrival cl id 1) s = .next t ∧ readPieces t ps = bs ∧ KeepsOthers s1 t ps ∧
        (((t.cluster cl).cmd id).map fun j => (j.e, j.left, j.sr)) = some (b.count, k1.left, drawn.2)) ∧
    ∀ (u v : State) (sp : List (Loc × Nat)), let b := copyBlk k1.blk.toNat
      b.unit = 1 → b.df = b.sf → k1.ahead = [] → k1.part = [] →
      resolve u (Acc.load k1.c 6 0 0) (b.srcAt k1.e) (b.sf.width / 8) = .ok v sp → readPieces v sp = readPieces u sp →
      (takeSrc u b k1 b.unit k1.e u).stop = none ∧
        unitBytes b.df ⟨(takeSrc u b k1 b.unit k1.e u).vals, 127, none⟩ = readPieces u sp

/-- What the attention commands and SELACT compute, from what they read (spec/11 R273-R279, spec/10 R247): the tree sum and the bound of
R275; the rows that KVAPP appends and the summary of their page, MN and MX the FMIN and FMAX of the keys (R274), one token that is not
finite filling them with 0x7FC0 (spec/21 R387); its raise of PAGES; the pages that KVSEL keeps and its gather list (R276, R277); the
result rows of KVATT over the pages of an ascending list (R278), those of KVPRE, row i over the tokens up to POS + i (R279); the list
and the count of SELACT. A page in quarantine is ranked by no KVSEL and read by no softmax (spec/21 R388). That a command reads what it
needs when it starts, and lists its writes in this order, is the model's choice (log 38). -/
def Obligations.AttentionResults : Prop :=
  let zero := Machine.Num.fin false 0 0
  let above := fun x y : Machine.Num => (x.isNan && !y.isNan) || (!x.isNan && !y.isNan && y.lt x)
  (∀ v q a b : List Machine.Num,
     let g := fun m => match (v.drop (16 * m)).take 16 with
       | [] => zero
       | x :: r => r.foldl add32 x
     treeSum v = add32 (add32 (add32 (g 0) (g 1)) (add32 (g 2) (g 3))) (add32 (add32 (g 4) (g 5)) (add32 (g 6) (g 7))) ∧
     kvDot q a = treeSum (List.zipWith mul32 q a) ∧
     kvBound q a b = treeSum (List.zipWith Machine.Num.max (List.zipWith mul32 q a) (List.zipWith mul32 q b))) ∧
  -- KVAPP: tokens from the first row of a page on, all finite.
  (∀ (c : Nat) (k : KvBlk) (m : Slab) (src n pos : Nat) (st md : Nat → State) (kb vb : Nat → List Byte),
     let key := fun i => numsOf (fmtCode k.kf) k.d (kb i)
     let page := m.page (pos / 64)
     let extreme := fun (f : Machine.Num → Machine.Num → Machine.Num) ch =>
       (List.range (n - 1)).foldl (fun b i => bf16.encode (f (bf16.decode b) (nth (key (i + 1)) ch .nan)))
         (bf16.encode (nth (key 0) ch .nan))
     k.kf = 1 ∨ k.kf = 3 → pos % 64 = 0 → 0 < n → n ≤ 64 → pos / 64 < 2 ^ m.logp →
     (∀ i, i < n → engRead (st i) c 6 (inSpace k.sspace (src + i * k.row)) k.row = .ok (md i) (kb i) ∧
       engRead (md i) c 6 (inSpace k.sspace (src + (n + i) * k.row)) k.row = .ok (st (i + 1)) (vb i) ∧
       ∀ x ∈ key i ++ numsOf (fmtCode k.kf) k.d (vb i), x.isFin = true) →
     ∃ a, appendFrom c k m src n pos n 0 (st 0) ⟨none, [], [], []⟩ = .ok (st n) a ∧ a.quar = [] ∧
       a.outs.reverse =
         ((List.range n).map fun i =>
           [(⟨BitVec.ofNat 64 (page + 0x200 + i * k.row), kb i, k.row, i⟩ : Machine.Out),
             ⟨BitVec.ofNat 64 (page + 0x200 + (64 + i) * k.row), vb i, k.row, i⟩]).flatten ++
         [⟨BitVec.ofNat 64 page, leBytes (2 * k.d) (packList 16 ((List.range k.d).map (extreme Machine.Num.min))), 2 * k.d, n - 1⟩,
           ⟨BitVec.ofNat 64 (page + 0x100), leBytes (2 * k.d) (packList 16 ((List.range k.d).map (extreme Machine.Num.max))), 2 * k.d,
             n - 1⟩]) ∧
  (∀ (d r : Nat) (mn mx : List Nat) (ks : List Machine.Num) (was : Bool),
     nextSummary d r was mn mx ks true = (List.replicate d 0x7FC0, List.replicate d 0x7FC0, !was) ∧
       (r ≠ 0 → nextSummary d r true mn mx ks false = (mn, mx, false))) ∧
  (∀ (s s1 s2 : State) (x : Cmd) (m : Slab) (a : App),
     let b := x.blk.toNat
     readSlab s x (kvBlk b) = .ok s1 m →
     appendFrom x.c (kvBlk b) m (bits b 64 52) (bits b 256 7) (bits b 224 32) (bits b 256 7) 0 s1 ⟨none, [], [], []⟩ = .ok s2 a →
     prepKvapp s x = .ok s2 { x with ready := true, outs := a.outs.reverse, quar := a.quar }) ∧
  -- KVAPP and KVPRE raise PAGES once everything is written.
  (∀ (s s1 : State) (cl id : Nat) (k : Cmd) (ps : List (Loc × Nat)),
     let b := k.blk.toNat
     let tokens := if k.op = .kvapp then bits b 256 7 else 64
     let want := (bits b 224 32 + tokens - 1) / 64 + 1
     let at_ := BitVec.ofNat 64 (bits b 0 52 + 8)
     let old := leNat (readPieces s1 ps)
     (s.cluster cl).cmd id = some k → k.op = .kvapp ∨ k.op = .kvpre → k.phase = .running → k.ready = true → k.mapped = true →
     k.bad = none → k.outs = [] → resolve s ⟨k.c, 7, 2, true, true, false, 0⟩ at_ 4 = .ok s1 ps → atomicRefused true at_ 0 ps = none →
     (bits old 8 17 < want → exec (.engineCommandComplete cl id) s = .next (finishCmd (foldWatch
       (writePieces s1 (k.at_ cl) ps (leBytes 4 (putField (BitVec.ofNat 32 old) 8 17 want).toNat)) cl k.c (k.at_ cl) at_ ps) cl k)) ∧
     (want ≤ bits old 8 17 → exec (.engineCommandComplete cl id) s = .next (finishCmd s1 cl k))) ∧
  -- KVSEL.
  (∀ (s s1 : State) (x : Cmd) (m : Slab) (q : List (List Machine.Num)) (st : Nat → State) (mn mx : Nat → List Nat),
     let b := x.blk.toNat
     let k := kvBlk b
     let first := bits b 224 17
     let n := bits b 256 17
     let list := bits b 128 52
     let bound := fun i => kvBound (nth q 0 []) ((mn i).map bf16.decode) ((mx i).map bf16.decode)
     let ranked := (List.range n).filter fun i => !(bf16.decode (nth (mn i) 0 0)).isNan
     let rank := fun i => (ranked.filter fun j => above (bound j) (bound i) ||
       ((((bound j).isNan && (bound i).isNan) || (bound j).eq (bound i)) && decide (j < i))).length
     let kept := ranked.filter fun i =>
       decide (rank i < bits b 288 17) || above (bound i) (fp32.decode (bits b 352 32)) || decide (n ≤ i + bits b 320 17)
     readSlab s x k = .ok s1 m →
     (m.pages < first + n → prepKvsel s x = failAt s1 x [] ⟨0x2A, 3, 0, 0⟩ 0) ∧
     (first + n ≤ m.pages → readQuery s1 x.c k (bits b 64 52) 1 = .ok (st 0) q →
       (∀ i, i < n → readSummary (st i) x.c k.d (m.page (first + i)) = .ok (st (i + 1)) (mn i, mx i)) →
       prepKvsel s x = .ok (st n) { x with
         ready := true
         outs := ⟨inSpace k.dspace list, leBytes 8 kept.length, 8, 0⟩ :: (List.zip (List.range kept.length) kept).map fun (j, i) =>
           ⟨inSpace k.dspace (list + 8 + 8 * j), leBytes 8 (first + i + fp32.encode (bound i) * 2 ^ 32), 8, i⟩ })) ∧
  -- The softmax of a row, and the pages that it reads.
  (∀ (f : Fmt) (d : Nat) (q : List Machine.Num) (scale : Machine.Num) (toks : List (List Machine.Num × List Machine.Num)),
     let e := toks.foldl (fun (m, l, acc) (key, val) =>
       let s := mul32 (kvDot q key) scale
       let top := Machine.Num.max m s
       if top = .inf true then (m, l, acc)
       else
         let a := exp2Num (add32 m top.neg)
         let p := exp2Num (add32 s top.neg)
         (top, add32 (mul32 l a) p, List.zipWith (fun y v => add32 (mul32 y a) (mul32 p v)) acc val))
       (Machine.Num.inf true, zero, List.replicate d zero)
     softRow f d q scale toks = e.2.2.map fun y => if e.2.1.isZero then 0 else (fpOf f).encode (divRound (fpOf f) y e.2.1)) ∧
  (∀ (s s1 s2 s3 : State) (c : Nat) (k : KvBlk) (m : Slab) (p n : Nat) (b kb vb : List Byte),
     let row := fun (l : List Byte) r => numsOf (fmtCode k.kf) k.d ((l.drop (r * k.row)).take k.row)
     let pairs := (List.range n).map fun r => (row kb r, row vb r)
     engRead s c 6 (BitVec.ofNat 64 (m.page p)) 2 = .ok s1 b →
     ((bf16.decode (leNat b)).isNan = true ∨ n = 0 → readPage s c k m p n = .ok s1 (.rows [])) ∧
     ((bf16.decode (leNat b)).isNan = false → 0 < n →
       engRead s1 c 6 (BitVec.ofNat 64 (m.page p + 0x200)) (n * k.row) = .ok s2 kb →
       engRead s2 c 6 (BitVec.ofNat 64 (m.page p + 0x200 + 64 * k.row)) (n * k.row) = .ok s3 vb →
       (∀ e ∈ pairs, ∀ y ∈ e.1 ++ e.2, y.isFin = true) → readPage s c k m p n = .ok s3 (.rows pairs))) ∧
  (∀ (s t : State) (c list pages space n : Nat) (ps : List Nat), readList c list pages space n 0 0 s [] = .inl (t, ps) →
     ps.length = n ∧ ps.Pairwise (· < ·) ∧ ∀ p ∈ ps, p < pages) ∧
  -- KVATT.
  (∀ (s s1 s2 s3 : State) (x : Cmd) (m : Slab) (q : List (List Machine.Num)) (cb : List Byte) (ps : List Nat) (st : Nat → State)
     (toks : Nat → List (List Machine.Num × List Machine.Num)),
     let b := x.blk.toNat
     let k := kvBlk b
     let list := bits b 128 52
     let rows := q.map fun qn =>
       softRow (fmtCode k.ofmt) k.d qn (fp32.decode (bits b 320 32)) ((List.range ps.length).map toks).flatten
     readSlab s x k = .ok s1 m → readQuery s1 x.c k (bits b 64 52) (bits b 352 7) = .ok s2 q →
     engRead s2 x.c 6 (inSpace k.dspace list) 4 = .ok s3 cb →
     readList x.c list m.pages k.dspace (min (leNat cb) (m.pages + 1)) 0 0 s3 [] = .inl (st 0, ps) →
     (∀ e, e < ps.length →
       readPage (st e) x.c k m (nth ps e 0) (min 64 (bits b 224 32 - 64 * nth ps e 0)) = .ok (st (e + 1)) (.rows (toks e))) →
     prepKvatt s x = .ok (st ps.length) { x with
       ready := true, quar := []
       outs := if k.omode then [] else (List.zip (List.range rows.length) rows).map fun (n, r) =>
         ⟨inSpace k.dspace (bits b 256 52 + n * k.d * k.ow), leBytes (k.d * k.ow) (packList (8 * k.ow) r), k.d * k.ow, ps.length⟩
       deliver := if k.omode then some (bits b 360 4, deliveryTile k rows) else none }) ∧
  -- KVPRE.
  (∀ (s s1 s2 : State) (x : Cmd) (m : Slab) (q : List (List Machine.Num)) (a : App) (st : Nat → State)
     (toks : Nat → List (List Machine.Num × List Machine.Num)),
     let b := x.blk.toNat
     let k := kvBlk b
     let pos := bits b 224 32
     let before := ((List.range (pos / 64)).map toks).flatten
     let rows := (List.zip (List.range 64) q).map fun (i, qn) =>
       softRow (fmtCode k.ofmt) k.d qn (fp32.decode (bits b 320 32)) (before ++ a.rows.reverse.take (i + 1))
     readSlab s x k = .ok s1 m → pos % 64 = 0 →
     appendFrom x.c k m (bits b 128 52) 64 pos 64 0 s1 ⟨none, [], [], []⟩ = .ok s2 a →
     (∀ e ∈ a.rows, ∀ y ∈ e.1 ++ e.2, y.isFin = true) → readQuery s2 x.c k (bits b 64 52) 64 = .ok (st 0) q →
     (∀ p, p < pos / 64 → readPage (st p) x.c k m p 64 = .ok (st (p + 1)) (.rows (toks p))) →
     prepKvpre s x = .ok (st (pos / 64)) { x with
       ready := true, quar := a.quar
       outs := a.outs.reverse ++ (List.zip (List.range rows.length) rows).map fun (n, r) =>
         ⟨inSpace k.dspace (bits b 256 52 + n * k.d * k.ow), leBytes (k.d * k.ow) (packList (8 * k.ow) r), k.d * k.ow, n⟩ }) ∧
  -- SELACT.
  (∀ (x : Cmd) (st : Nat → State) (bs : Nat → List Byte),
     let b := x.blk.toNat
     let f := fmtCode (bits b 192 4)
     let maxn := bits b 224 32
     let set := (List.range (64 * f.perRow)).filter fun e => elem f.width (leNat (bs (e / f.perRow))) (e % f.perRow) != 0
     (∀ i, i < 64 → engRead (st i) x.c 6 (inSpace (bits b 216 2) (bits b 0 52 + 64 * i)) 64 = .ok (st (i + 1)) (bs i)) →
     prepSelact (st 0) x = .ok (st 64) { x with
       ready := true
       outs := ((List.zip (List.range maxn) set).map fun (n, e) =>
           (⟨inSpace (bits b 218 2) (bits b 64 52 + 4 * n), leBytes 4 ((bits b 256 32 + e) % 2 ^ 32), 4, e⟩ : Machine.Out)) ++
         [⟨inSpace (bits b 220 2) (bits b 128 52), leBytes 4 set.length, 4, 64 * f.perRow⟩] })

/-- A CPYQ with SCALE reads its fold word once, when it starts, and k is the largest power of two by which that magnitude stays
within the destination format, 0 where the word is no positive finite number (spec/10 R241). M is the largest magnitude of the
source elements. Once every element is written, the fold writes the larger of M and the word at FOLD, a store of k at FOLD + 4
before it (spec/10 R241, spec/13 R290), and the command completes. -/
def Obligations.FoldAndScale : Prop :=
  (∀ (s s' : State) (k : Cmd) (bs : List Byte),
     let b := copyBlk k.blk.toNat
     let w := leNat bs
     b.scale = true → engRead s k.c 8 (BitVec.ofNat 64 b.fold) 4 = .ok s' bs →
     prepCpyq s k = .ok s' { k with
       ready := true
       sr := if b.rnd = 4 then lfsrStart (BitVec.ofNat 64 b.srseed) else 0
       k := if 0 < w ∧ w < 0x7F800000 then scaleExp b.df (fp32.decode w) else 0 }) ∧
  (∀ (f : Fmt) (z y : Bool) (a g : Nat) (e h : Int), (targetFor f 127).extreme false = .fin y g h → 0 < a → 0 < g →
     magLt g h a (e + scaleExp f (.fin z a e)) = false ∧ magLt g h a (e + scaleExp f (.fin z a e) + 1) = true) ∧
  (∀ (old s s' : State) (b : CopyBlk) (k k' : Cmd) (e : Nat) (bs : List Byte), k.op = .cpyq →
     readUnit old b k e s = .ok s' k' bs →
     k'.mx = ((takeSrc old b k b.unit e s).vals.map (elemNum b.sf)).foldl (fun m x => maxW m (magPattern x)) k.mx) ∧
  (∀ (s s1 s2 : State) (cl id : Nat) (k : Cmd) (fp kp : List (Loc × Nat)),
     let b := copyBlk k.blk.toNat
     let fa := BitVec.ofNat 64 b.fold
     let ka := BitVec.ofNat 64 (b.fold + 4)
     let who := k.at_ cl
     let folds := fun t : State => finishCmd (foldWatch
       (writePieces t who fp (leBytes 4 (max (leNat (readPieces t fp) % 2 ^ 32) k.mx.toNat))) cl k.c who fa fp) cl k
     (s.cluster cl).cmd id = some k → k.op = .cpyq → k.phase = .running → k.ready = true → k.bad = none → b.count ≤ k.e →
     resolve s (Acc.store k.c 8 0 0) fa 4 = .ok s1 fp → atomicRefused false fa 0 fp = none →
     (b.scale = false → anyPoison s1 fp = false → exec (.engineCommandComplete cl id) s = .next (folds s1)) ∧
     (b.scale = true → resolve s1 (Acc.store k.c 8 0 0) ka 4 = .ok s2 kp →
       let t := engWrite s2 cl k.c who ka kp (leBytes 4 (k.k % 4294967296).toNat)
       anyPoison t fp = false → exec (.engineCommandComplete cl id) s = .next (folds t)))

/-- A running relocation copies its pages in order, one at a time, and counts each in FWD_STAT.MOVED (spec/10 R242, spec/05
R115); once every page has moved it raises LOGP and then releases BASE in the slab map entry; at its end, once the commands
that read the entry before have completed, ACTIVE clears. A moved page reads at its new place, NEWBASE + e * PSTRIDE, as the old
page did; the word at MAP + 8 then holds LOGP + 1 with PAGES and PSTRIDE as they were, and the word at MAP holds NEWBASE (R242).
Every other byte of memory is as before. -/
def Obligations.Relocation : Prop :=
  ∀ (s : State) (cl id : Nat) (k : Cmd), (s.cluster cl).cmd id = some k → k.op = .cpyrel → k.phase = .running →
    let n := 2 ^ (slabOf k.map.toNat).logp
    let mapAt := bits k.blk.toNat 0 52
    let stage := fun t : State => ((t.cluster cl).cmd id).map fun j => j.e
    (k.ready = true → k.e < n →
      exec (.relocationPageMoved cl id) s = .next (progress (movePage s cl k k.e) cl)) ∧
    (∀ s1 sp s2 dp, relocRead s k.c ((slabOf k.map.toNat).base + k.e * (slabOf k.map.toNat).pstride)
        (slabOf k.map.toNat).pstride = .ok s1 sp →
      resolveBy false s1 (Acc.store k.c 7 0 0)
        (BitVec.ofNat 64 (bits k.blk.toNat 64 52 + k.e * (slabOf k.map.toNat).pstride))
        (slabOf k.map.toNat).pstride = .ok s2 dp →
      bits ((movePage s cl k k.e).cluster cl).fwdStat.toNat 32 17 = (k.e + 1) % 2 ^ 17) ∧
    (∀ s1 sp s2 dp, k.ready = true → k.e < n → k.id = id →
      relocRead s k.c ((slabOf k.map.toNat).base + k.e * (slabOf k.map.toNat).pstride) (slabOf k.map.toNat).pstride = .ok s1 sp →
      resolveBy false s1 (Acc.store k.c 7 0 0)
        (BitVec.ofNat 64 (bits k.blk.toNat 64 52 + k.e * (slabOf k.map.toNat).pstride))
        (slabOf k.map.toNat).pstride = .ok s2 dp → PlainPieces s dp →
      ∃ t, exec (.relocationPageMoved cl id) s = .next t ∧ readPieces t dp = readPieces s sp ∧ KeepsOthers s t dp ∧
        bits (t.cluster cl).fwdStat.toNat 32 17 = (k.e + 1) % 2 ^ 17 ∧ stage t = some (k.e + 1)) ∧
    (k.e = n → exec (.relocationFinish cl id) s = .next (raiseLogp s cl k) ∧
      ∀ s1 l, k.id = id → resolveBy false s ⟨k.c, 7, 2, true, true, false, 0⟩ (BitVec.ofNat 64 (mapAt + 8)) 4 = .ok s1 [(l, 4)] →
        atomicRefused true (BitVec.ofNat 64 (mapAt + 8)) 0 [(l, 4)] = none → PlainPieces s [(l, 4)] →
        ∃ t, exec (.relocationFinish cl id) s = .next t ∧ stage t = some (n + 1) ∧ KeepsOthers s t [(l, 4)] ∧
          let old := leNat (readPiece s (l, 4))
          let new := leNat (readPiece t (l, 4))
          new % 32 = ((slabOf k.map.toNat).logp + 1) % 32 ∧ new / 32 = old / 32) ∧
    (k.e = n + 1 → exec (.relocationFinish cl id) s = .next (releaseBase s cl k) ∧
      ∀ s1 l, k.id = id → resolveBy false s (Acc.store k.c 7 2 0) (BitVec.ofNat 64 mapAt) 8 = .ok s1 [(l, 8)] →
        PlainPieces s [(l, 8)] →
        ∃ t, exec (.relocationFinish cl id) s = .next t ∧ stage t = some (n + 2) ∧ KeepsOthers s t [(l, 8)] ∧
          leNat (readPiece t (l, 8)) = bits k.blk.toNat 64 52) ∧
    (k.e = n + 2 → ((s.cluster cl).cmds.any fun j => k.readers.contains j.id && j.live) = false →
      exec (.relocationFinish cl id) s = .next (finishCmd (s.modCluster cl fun x =>
        { x with fwdStat := putField x.fwdStat 63 1 0 }) cl k) ∧
      ∃ t, exec (.relocationFinish cl id) s = .next t ∧ bitAt (t.cluster cl).fwdStat 63 = false)

/-- The oldest fault of a cluster's engines reaches its issuer, and no other (spec/21 R375): taken into the handler where one
is there and free, held where the issuer is in handler state (spec/20 R354). In both cases every other context is as before.
The fault of a parcel that has retired goes to the supervisor: its message is queued and the team held; behind a fault that a debugger
stop has recorded and not yet passed on it waits, and the record stays (spec/20 R351). -/
def Obligations.EngineFaults : Prop :=
  ∀ (s : State) (cl : Nat) (e : EngFlt) (rest : List EngFlt), (s.cluster cl).flts = e :: rest →
    let s1 := s.modCluster cl fun x => { x with flts := rest }
    ∃ t, exec (.engineFault cl) s = .next t ∧ t = takeEngineFault s1 e ∧
      (inHandler (s.ctx e.c) = true → (s.ctx e.c).resident = true → (s.ctx e.c).retired = false →
        (s.ctx e.c).heldFlts.length < 16 →
        (t.ctx e.c).heldFlts = (s.ctx e.c).heldFlts ++ [e] ∧ (t.cluster cl).flts = rest ∧
          ∀ c, c ≠ e.c → t.ctx c = s.ctx c) ∧
      (TakesFaults s e.c → (s.ctx e.c).resident = true → (s.ctx e.c).retired = false →
        InHandlerOf s t e.c e.lane e.flt e.pos 0 false true ∧ (t.cluster cl).flts = rest ∧
          ∀ c, c ≠ e.c → t.ctx c = s.ctx c) ∧
      ((s.ctx e.c).retired = true → ∀ f, (s.ctx e.c).dbgFlt = some f →
        (t.ctx e.c).dbgNext = (s.ctx e.c).dbgNext ++ [⟨e.flt, e.c, e.lane, [⟨e.c, e.flt, e.pos, 0, true⟩]⟩] ∧
          (t.ctx e.c).frCause = (s.ctx e.c).frCause ∧ (t.ctx e.c).frPos = (s.ctx e.c).frPos ∧ SameMemory s t) ∧
      ((s.ctx e.c).retired = true → (s.ctx e.c).dbgFlt = none → stopsFaults (s.ctx e.c) = false → e.c < 16384 →
        e.flt.cause ≠ 0x0D → ∀ tm, (s.cluster (clusterOf e.c)).team = some tm →
        (t.cluster (clusterOf e.c)).team = some { tm with held := some e.flt.cause } ∧
          ∃ m, (t.die (dieOf e.c)).msgs = (s.die (dieOf e.c)).msgs ++ [m] ∧ m.pos = e.pos ∧ m.addr = e.flt.addr ∧
            m.info = e.flt.info ∧ m.cause.toNat % 2 ^ 16 = e.flt.cause % 256 + e.flt.detail % 256 * 2 ^ 8)

/-! ## The compute lane -/

/-- Every instruction of the compute lane that has a dispatch form dispatches once its token is there, its checks pass, its
stream tiles have arrived, its operands are made and claimed, and no late fault is found (spec/04 R83, spec/20 R363): it
joins those dispatched, and the lane goes on. Registers of the other lanes are as before. What it will commit is what its
form makes of its operands' values; on the stack the entries that it pops are gone, those that stay are rearranged by its
form, and pending entries of its results' kinds stand on top (R84, R85).

A compute-lane instruction whose depths do not exist, or whose operands it may not use, does not run: it traps once every
earlier instruction has committed (spec/20 R363, R365, spec/04 R88), a stack underflow with cause 0x05 before any illegal
use with cause 0x04. -/
def Obligations.ComputeDispatch : Prop :=
  (∀ (i : Instr) (s s1 : State) (c : Nat) (f : CForm) (l : List Val),
     let x := s.ctx c
     cformOf i s = some f → CReady s c i → tokenThere s c f = true → earlyFault x f = none → tiles x f = .ok l →
     readsPending x f = false → sinkRoom x f = true → f.hold x = .go → lateFault s c f (.ok l) = none →
     claimAll c (allPops f) (claims x f) s = .ready s1 → recOf s (clusterOf c) = none →
     let x1 := s1.ctx c
     let bare := List.map fun e : Entry => { e with pinned := false }
     let kinds := f.outs (f.srcs.map (kindOf x1))
     let top := (topEntry x1 f).bind (·.val)
     ∃ t front j y r, exec i s = .next t ∧ (t.ctx c).infl = front ++ [j] ∧ front.map (·.i) = x1.infl.map (·.i) ∧
       -- The form sees the context as it stands at dispatch, its token taken and its waits over.
       (y = { x1 with stack := y.stack, cl := y.cl, tq := y.tq, taker := y.taker } ∧ bare y.stack = bare x1.stack) ∧
       (let made := f.make y (valuesOf x1 f.srcs l) top
        j.results.map (·.2) = made.outs ++ (if f.top = .inPlace then made.top.toList else []) ∧ j.flt = made.flt ∧
          j.am = made.am ∧ j.stat = BitVec.ofNat 32 made.stat ∧ j.sr = made.sr ∧ j.dep = made.dep ∧ j.landing = made.landing) ∧
       ((t.ctx c).stack = (pendings s1.nextId kinds).reverse ++ f.perm r ∧
         r.map (·.id) = (dropDepths (allPops f) 0 x1.stack).map (·.id)) ∧
       j.i = i ∧ j.word = wordOf i ∧ j.pc = x.cl.pc ∧ j.loops = x.cl.loops ∧ (t.ctx c).cl.pc = x.cl.pc + 4 ∧ (t.ctx c).cl.loops = x.cl.loops ∧ (t.ctx c).x = x.x ∧ (t.ctx c).p = x.p ∧
       (t.ctx c).k = x.k ∧ (t.ctx c).l = x.l ∧ (t.ctx c).sl = x.sl) ∧
  (∀ (i : Instr) (s : State) (c : Nat) (f : CForm),
     cformOf i s = some f → CReady s c i → tokenThere s c f = true →
     (∀ d, (depthsOf f).find? (fun d => decide ((s.ctx c).stack.length ≤ d)) = some d →
       exec i s = .next (dispatchFault s c i (wordOf i)
         ⟨0x05, 0, BitVec.ofNat 64 d, BitVec.ofNat 64 (s.ctx c).stack.length⟩ none)) ∧
     ((∀ d ∈ depthsOf f, d < (s.ctx c).stack.length) → firstSome (streamMisuse (s.ctx c) f.seedRow) f.srcs = none →
       ∀ e, f.check (s.ctx c) (f.srcs.map (kindOf (s.ctx c))) ((topEntry (s.ctx c) f).map (·.kind)) = some e →
       exec i s = .next (dispatchFault s c i (wordOf i) e none)))

/-- What the tile-stack operations make (spec/10 R227-R232): the new entries and the rearrangement of those that stay; TLIFT's entry is
the tile of its stream as it stands (R229); TSPLAT fills every element, and the scales or poison bits of the band, from the count
register as R231's table gives; TSINK departs with its value as it stands, and faults where its stream shows a poisoned element
(spec/20 R368), has no packed form for it (spec/05 R113), or may not hold its kind (R230); TSEED's entry is built from seven count
registers, or is row ROWC of its stream's head tile, whose cursor moves, and a malformed one faults with the DETAIL of spec/20 R357
(R232, R367). The order of the misuses of a stream is the model's reading (log 36). -/
def Obligations.StackOperations : Prop :=
  (∀ (f : Fmt) (k : Toks) (d : BitVec 12) (n : Fin 8) (x : Ctx) (e0 e1 : Entry) (r : List Entry) (l : List Entry)
    (v : Val),
    ((formTzero f k).make x [] none).outs = [.single f 0 0] ∧ ((formTacc k).make x [] none).outs = [.quad 0 0] ∧
    ((formTsplat n .int32 k).make x [] none).outs =
      [.single .int32 (payloadOf .int32 fun _ _ => (x.cnt .c n.val).toNat) 0] ∧
    (formTdrop k).srcs = [.depth 0 true] ∧ (formTdrop k).perm l = l ∧
    (formTdup k).srcs = [.depth 0 false] ∧ ((formTdup k).make x [v] none).outs = [v] ∧
    (formTover k).srcs = [.depth 1 false] ∧ ((formTover k).make x [v] none).outs = [v] ∧
    (formTpick d k).srcs = [.depth d.toNat false] ∧ ((formTpick d k).make x [v] none).outs = [v] ∧
    (formTswap k).perm (e0 :: e1 :: r) = e1 :: e0 :: r ∧
    (∀ a b, l = a ++ e0 :: b → a.length = d.toNat → (formTrot d k).perm l = e0 :: (a ++ b)) ∧
    (∀ a b, l = e0 :: (a ++ b) → a.length = d.toNat → (formTrrt d k).perm l = a ++ e0 :: b)) ∧
  -- TSPLAT.
  (∀ (g : Fmt) (k : Toks) (n : Fin 8) (x : Ctx) (i j : Nat), i < 64 → j < g.perRow →
     let w := x.cnt .c n.val
     let low := w.toNat % 2 ^ g.width
     let bits := if g = .int64 then (w.signExtend 64).toNat else low
     let nan := (g = .fp32 ∨ g = .bf16) ∧ ((fpOf g).decode low).isNan = true
     ∃ pay band, ((formTsplat n g k).make x [] none).outs = [.single g pay band] ∧
       elemAt g pay.toNat i j = (if nan then (fpOf g).nanBits else bits) ∧
       (nan → poisonAt band.toNat i j = true) ∧ (¬nan → g.isMx = false → band = 0) ∧
       (g.isMx = true → ∀ q, q < granules g → scaleAt band.toNat i q = w.toNat / 2 ^ 8 % 2 ^ 8)) ∧
  -- TLIFT and TSINK.
  (∀ (a o : Opnd) (k : Toks) (x : Ctx) (v : Val) (g : Fmt) (pay : BitVec 32768) (band : BitVec 2048),
     let t := vget x.strm o.idx.val Strm.init
     let sinks := fun v : Val => (formTsink a o k).make x [v] none
     let check := fun kind => (formTsink a o k).check x [kind] none
     let shows := fun n : Nat => (t.fmt = .bf16 ∨ t.fmt = .fp32) ∧ poisonAt band.toNat (n / t.fmt.perRow) (n % t.fmt.perRow) = true
     (formTlift a k).srcs = [srcOf a] ∧ ((formTlift a k).make x [v] none).outs = [v] ∧ (∀ l, (formTlift a k).outs l = l) ∧
     (formTsink a o k).srcs = [srcOf a] ∧ (formTsink a o k).sink = some o.idx.val ∧ (sinks v).dep = some (o.idx.val, v) ∧ (sinks v).outs = [] ∧
     (t.armed = false → ∀ kind, check kind = some ⟨0x04, 5, 0, BitVec.ofNat 64 o.idx.val⟩) ∧
     (t.armed = true → check .quad = some ⟨0x04, 1, 0, 0⟩ ∧ check (.single g) = none ∧
       check .seed = (if t.row = false ∧ t.comp = false ∧ t.xpose = 0 then none else some ⟨0x04, 2, 0, 0⟩)) ∧
     (t.comp = true → (sinks (.single g pay band)).flt = if noForm t (.single g pay band) then some ⟨0x29, 5, 0, 0⟩ else none) ∧
     (t.comp = false → ((∀ n, n < 64 * t.fmt.perRow → ¬shows n) → (sinks (.single g pay band)).flt = none) ∧
       ∀ n, n < 64 * t.fmt.perRow → shows n → (∀ m, m < n → ¬shows m) → (sinks (.single g pay band)).flt =
         some ⟨0x08, 0, 0, BitVec.ofNat 64 (n % t.fmt.perRow % 64 + n / t.fmt.perRow * 64)⟩)) ∧
  -- TSEED.
  (∀ (a : Opnd) (b : Fin 2) (k : Toks) (x : Ctx) (g : Fmt) (pay : BitVec 32768) (band : BitVec 2048) (m : Fin 16),
     let n := fun q => x.cnt .c (b.val + q)
     let t := vget x.strm m Strm.init
     let wrong := fun e : BitVec 512 =>
       let size := (e.extractLsb' 64 8).toNat
       let bad := fun detail => some (⟨0x0B, detail, 0, e.extractLsb' 0 64⟩ : Flt)
       if size = 0 ∨ 8 < size then bad 1
       else if (e.extractLsb' 72 4).toNat ∉ [1, 3, 6] then bad 2
       else if ∃ q : Fin 8, size ≤ q.val ∧ e.extractLsb' (128 + 16 * q.val) 16 ≠ 0 then bad 3
       else if e.extractLsb' 76 52 ≠ 0 ∨ e.extractLsb' 256 256 ≠ 0 then bad 4
       else none
     (∃ e : BitVec 512, ((formTseedCnt b k).make x [] none).outs = [.seed e] ∧ (formTseedCnt b k).bad x [] = wrong e ∧
       e.extractLsb' 0 32 = n 0 ∧ e.extractLsb' 32 32 = n 1 ∧ e.extractLsb' 64 32 = n 2 ∧ e.extractLsb' 96 32 = 0 ∧
       (∀ q : Fin 4, e.extractLsb' (128 + 32 * q.val) 32 = n (3 + q.val)) ∧ e.extractLsb' 256 256 = 0) ∧
     (let e := pay.extractLsb' (512 * (vget x.strm a.idx.val Strm.init).rowc) 512
      (formTseedStream a k).srcs = [srcOf a] ∧ (formTseedStream a k).seedRow = true ∧
        ((formTseedStream a k).make x [.single g pay band] none).outs = [.seed e] ∧
        (formTseedStream a k).bad x [.single g pay band] = wrong e) ∧
     (t.rowc < 63 → takeRow [.strm m true] x = (x.setStrm m { t with rowc := t.rowc + 1 }, [], [(m.val, t.rowc)])) ∧
     (t.rowc = 63 → ∀ e rest, t.arr = e :: rest → takeRow [.strm m true] x =
       (x.setStrm m { t with arr := rest, tpos := t.tpos + 1, rowc := 0, claimed := t.claimed + 1 }, [(m.val, e, 63)], [])) ∧
     takeRow [.strm m false] x = (x, [], []) ∧
     (t.armed = true → streamMisuse x true (.strm m true) =
         (if t.row = true ∧ t.fmt.isMx = false then none else some ⟨0x04, 7, 0, BitVec.ofNat 64 m.val⟩) ∧
       streamMisuse x false (.strm m true) = if t.rowc = 0 then none else some ⟨0x04, 7, 0, BitVec.ofNat 64 m.val⟩))

/-- What the vector pipes make of each element, in every format that R248 of spec/11 accepts, whatever the tags of the operands
(R248-R257). Integer TADD, TSUB and TMUL wrap; TADD.S and TSUB.S saturate, and TADD.T and TSUB.T fault exactly where some element lies
outside the range, with cause 0x07 (R249). FP32, BF16 and FP16 round the exact result once in the mode of VRND, TFMA too (R250); TEXP2
and TRCP follow the algorithms of spec/07 R149 and R150. A reduction leaves one value in column 0 and zero in the others, of INT32 for
INT8 (R252); a compare makes a mask of all ones or zero (R253); TSEL chooses by a mask (R254), TPERM moves the bytes of a row (R255),
TXPOSE transposes (R256, spec/05 R107), and the logic and shift instructions act bit by bit (R257). A BF16 or FP32 result is poisoned
where an operand is, where it is a NaN, and with POVF where it overflows (spec/07 R148); a selected, transposed or combined element
takes its operand's poison. The sign of a sum that is exactly zero, `Num.add`'s, is the model's reading of spec/07 R147 (log 29). -/
def Obligations.ElementArithmetic : Prop :=
  ∀ (a b : Opnd) (k : Toks) (v : BitVec 2) (sh : BitVec 6) (s : State) (x : Ctx) (f ta tb tc : Fmt) (p q r : BitVec 32768)
    (β γ δ : BitVec 2048) (i j : Nat), i < 64 → j < f.perRow →
    let w := f.width
    let at_ := fun t : BitVec 32768 => elemAt f t.toNat i j
    let m := at_ p
    let n := at_ q
    let row := (List.range f.perRow).map fun j => elemAt f p.toNat i j
    let two := fun g : CForm => g.make x [.single ta p β, .single tb q γ] none
    let made := fun g : CForm => outElem (two g) f i j
    let one := fun g : CForm => g.make x [.single ta p β] none
    let made1 := fun g : CForm => outElem (one g) f i j
    let bands := f = .bf16 ∨ f = .fp32
    let outPoison := fun g : Made => match g.outs with
      | [.single _ _ band] => poisonAt band.toNat i j
      | _ => false
    let outBand := fun g : Made => match g.outs with
      | [.single _ _ band] => band
      | _ => 0
    -- Integers.
    (f.isInt = true →
      let int := fun e : Nat => (BitVec.ofNat w e).toInt
      let low := -(2 : Int) ^ (w - 1)
      let top := (2 : Int) ^ (w - 1) - 1
      let wrap := fun z : Int => (z % 2 ^ w).toNat
      let clamp := fun z : Int => wrap (max low (min top z))
      let traps := fun (g : CForm) (op : Int → Int → Int) =>
        let inside := ∀ i j, i < 64 → j < f.perRow →
          let z := op (int (elemAt f p.toNat i j)) (int (elemAt f q.toNat i j))
          low ≤ z ∧ z ≤ top
        (inside → (two g).flt = none ∧ made g = wrap (op (int m) (int n))) ∧
          (¬inside → ∃ e, (two g).flt = some e ∧ e.cause = 7)
      let mask := fun t : Bool => if t then 2 ^ w - 1 else 0
      let red := sumFmt f
      let out := fun g : CForm => outElem (one g) red i
      made (formTadd a b f k v s) = wrap (int m + int n) ∧ made (formTsub a b f k v s) = wrap (int m - int n) ∧
      made (formTmul a b f k v s) = wrap (int m * int n) ∧
      made (formTaddS a b f k v s) = clamp (int m + int n) ∧ made (formTsubS a b f k v s) = clamp (int m - int n) ∧
      traps (formTaddT a b f k v s) (· + ·) ∧ traps (formTsubT a b f k v s) (· - ·) ∧
      made (formTmin a b f k v s) = (if int m ≤ int n then m else n) ∧
      made (formTmax a b f k v s) = (if int m ≤ int n then n else m) ∧
      made1 (formTabs a f k v s) = wrap (int m).natAbs ∧ made1 (formTneg a f k v s) = wrap (-int m) ∧
      out (formTrsum a f k v s) 0 = ((row.map int).sum % 2 ^ red.width).toNat ∧
      (∃ e ∈ row, out (formTrmax a f k v s) 0 = (int e % 2 ^ red.width).toNat ∧ ∀ e' ∈ row, int e' ≤ int e) ∧
      (∃ e ∈ row, out (formTrmin a f k v s) 0 = (int e % 2 ^ red.width).toNat ∧ ∀ e' ∈ row, int e ≤ int e') ∧
      (∀ j, 0 < j → j < red.perRow → out (formTrsum a f k v s) j = 0 ∧ out (formTrmax a f k v s) j = 0 ∧
        out (formTrmin a f k v s) j = 0) ∧
      made (formTcmpeq a b f k v s) = mask (m == n) ∧ made (formTcmplt a b f k v s) = mask (decide (int m < int n)) ∧
      made (formTcmple a b f k v s) = mask (decide (int m ≤ int n)) ∧
      made1 (formTshl a sh f k v s) = m * 2 ^ sh.toNat % 2 ^ w ∧ made1 (formTshr a sh f k v s) = m / 2 ^ sh.toNat ∧
      made1 (formTsra a sh f k v s) = ((BitVec.ofNat w m).sshiftRight sh.toNat).toNat) ∧
    -- Floating point.
    (f.isFp = true →
      let num := (fpOf f).decode
      let fpRes := fun z : Machine.Num => (fpOf f).encode ((fpOf f).round (vrnd x) z)
      let flags := fun (z : Machine.Num) (ins : List (BitVec 32768 × BitVec 2048)) =>
        decide bands && (ins.any (fun e => poisonAt e.2.toNat i j) || z.isNan ||
          (povf x && z.isInf && ins.all fun e => (num (at_ e.1)).isFin))
      let gives2 := fun (g : CForm) (z : Machine.Num) =>
        made g = fpRes z ∧ outPoison (two g) = flags ((fpOf f).round (vrnd x) z) [(p, β), (q, γ)]
      let gives1 := fun (g : CForm) (z : Machine.Num) =>
        made1 g = fpRes z ∧ outPoison (one g) = flags ((fpOf f).round (vrnd x) z) [(p, β)]
      let fixed := fun (g : CForm) (z : Machine.Num) =>
        made1 g = (fpOf f).encode ((fpOf f).round .rne z) ∧ outPoison (one g) = flags ((fpOf f).round .rne z) [(p, β)]
      let reduces := fun (g : CForm) (op : Machine.Num → Machine.Num → Machine.Num) =>
        let z := (fpOf f).round (vrnd x) ((row.tail.map num).foldl op (num (row.headD 0)))
        made1 g = (if j = 0 then (fpOf f).encode z else 0) ∧
          outPoison (one g) = (j == 0 && decide bands && ((List.range f.perRow).any (fun j => poisonAt β.toNat i j) || z.isNan ||
            (povf x && z.isInf && row.all fun e => (num e).isFin)))
      let mask := fun t : Bool => if t then 2 ^ w - 1 else 0
      gives2 (formTadd a b f k v s) (Machine.Num.add (vrnd x) (num m) (num n)) ∧
      gives2 (formTsub a b f k v s) (Machine.Num.add (vrnd x) (num m) (num n).neg) ∧
      gives2 (formTmul a b f k v s) ((num m).mul (num n)) ∧
      gives2 (formTmin a b f k v s) ((num m).min (num n)) ∧ gives2 (formTmax a b f k v s) ((num m).max (num n)) ∧
      gives1 (formTabs a f k v s) (num m).abs ∧ gives1 (formTneg a f k v s) (num m).neg ∧
      (∃ pay band, ((formTfma a b f k v s).make x [.single ta p β, .single tb q γ] (some (.single tc r δ))).top =
          some (.single f pay band) ∧
        let z := Machine.Num.add (vrnd x) ((num m).mul (num n)) (num (at_ r))
        elemAt f pay.toNat i j = fpRes z ∧
          poisonAt band.toNat i j = flags ((fpOf f).round (vrnd x) z) [(p, β), (q, γ), (r, δ)]) ∧
      (bands → fixed (formTexp2 a f k v s) (exp2Num (num m)) ∧ fixed (formTrcp a f k v s) (rcpNum (num m))) ∧
      reduces (formTrsum a f k v s) (Machine.Num.add (vrnd x)) ∧ reduces (formTrmax a f k v s) Machine.Num.max ∧
      reduces (formTrmin a f k v s) Machine.Num.min ∧
      made (formTcmpeq a b f k v s) = mask ((num m).eq (num n)) ∧ made (formTcmplt a b f k v s) = mask ((num m).lt (num n)) ∧
      made (formTcmple a b f k v s) = mask ((num m).lt (num n) || (num m).eq (num n)) ∧
      outBand (two (formTcmpeq a b f k v s)) = 0 ∧ outBand (two (formTcmplt a b f k v s)) = 0 ∧
      outBand (two (formTcmple a b f k v s)) = 0) ∧
    -- Selection, rearrangement and logic.
    (f.isMx = false →
      let sel := (formTsel a b f k v s).make x [.single ta p β, .single tb q γ] (some (.single tc r δ))
      let logic := fun (g : Made) (pay : BitVec 32768) (flag : Bool) =>
        (∃ band, g.outs = [.single f pay band]) ∧ outPoison g = (decide bands && flag) ∧ (¬bands → outBand g = 0)
      outElem sel f i j = (if at_ r ≠ 0 then m else n) ∧
      outPoison sel = (decide bands && if at_ r ≠ 0 then poisonAt β.toNat i j else poisonAt γ.toNat i j) ∧
      (∃ pay, (two (formTperm a b f k v s)).outs = [.single f pay 0] ∧ ∀ j, j < 64 → let e := elemAt .int8 q.toNat i j
        elemAt .int8 pay.toNat i j = if 128 ≤ e then 0 else elemAt .int8 p.toNat i (e % 64)) ∧
      logic (two (formTand a b f k v s)) (p &&& q) (poisonAt β.toNat i j || poisonAt γ.toNat i j) ∧
      logic (two (formTor a b f k v s)) (p ||| q) (poisonAt β.toNat i j || poisonAt γ.toNat i j) ∧
      logic (two (formTxor a b f k v s)) (p ^^^ q) (poisonAt β.toNat i j || poisonAt γ.toNat i j) ∧
      logic (one (formTnot a f k v s)) (~~~p) (poisonAt β.toNat i j)) ∧
    (f = .e4m3 ∨ f = .e5m2 ∨ f = .int8 → made1 (formTxpose a f k v s) = elemAt f p.toNat j i ∧ outBand (one (formTxpose a f k v s)) = 0) ∧
    (f = .bf16 ∨ f = .fp16 → made1 (formTxpose a f k v s) = elemAt f p.toNat (32 * (i / 32) + j) (i % 32) ∧
      outPoison (one (formTxpose a f k v s)) = (decide (f = .bf16) && poisonAt β.toNat (32 * (i / 32) + j) (i % 32)))

/-- What the matrix engine, the mint and the conversion path make. TMMA of every pair adds, granule by granule, the exact sum of the
products of a row of A and a row of B, under their scales, to each element in FP32, and poisons it as R148 gives (spec/07 R146, R148,
spec/11 R259); a seed entry as B counts as its minted tile. TDRAIN gives the columns of the quad in order, as they are in FP32 or
rounded to BF16 or FP16 (R261). TGEN gives the minted tile of BF16, E4M3 or MXINT8 (R267, R268). SEEDFIT gives the first of the
candidates with the least residual, and that residual (R270, R271). TCVT and TQNT convert each source under CVT_CTL, an MX source with
its scale, to a floating-point, an integer or an MX format, whose granule takes the smallest scale that holds its largest magnitude,
under SR with 16 generator bits each; TQNT scales by 2^n4 before; the CVT_STAT bits join, a conversion that faults makes the
instruction fault, and the running maximum takes in the greatest magnitude of the sources (spec/07 R144, R145, R151, spec/11
R262-R265). The bound on the exponent of TQNT is the model's reading (log 37). -/
def Obligations.MatrixMintConvert : Prop :=
  (∀ (w q : Nat) (g : Machine.Num) (l : List Machine.Num),
     let limit := fun b : Nat => Machine.Num.fin false (2 ^ (w - 1) - 1) ((b : Int) - 127 - q)
     let b := scaleFor w q g
     (g.isZero = true → b = 127) ∧
     (g.isZero = false → b ≤ 254 ∧ (∀ b', b' < b → (limit b').lt g = true) ∧ ((limit b).lt g = false ∨ b = 254)) ∧
     (∀ y ∈ l, y.isFin = true → (largest l).lt y.abs = false) ∧
     (largest l = .fin false 0 0 ∨ ∃ y ∈ l, y.isFin = true ∧ largest l = y.abs)) ∧
  (∀ (a b : Opnd) (k : Toks) (x : Ctx) (ta tb : Fmt) (p q : BitVec 32768) (β γ : BitVec 2048) (Q : BitVec 131072) (P : BitVec 4096)
     (pr : Fin 9) (B : Val) (i j : Nat), i < 64 → j < 64 →
     -- TMMA.
     (let fa := [Fmt.bf16, .e4m3, .e4m3, .e5m2, .e5m2, .mxint8, .mxint6, .mxint4, .int8][pr]
      let fb := [Fmt.bf16, .e4m3, .e5m2, .e4m3, .e5m2, .mxint8, .mxint6, .mxint4, .int8][pr]
      let scale := fun (f : Fmt) (band : BitVec 2048) i g => if f.isMx then scaleAt band.toNat i g else 127
      let row := fun (f : Fmt) (t : BitVec 32768) i g => (List.range 32).map fun c => elemNum f (elemAt f t.toNat i (32 * g + c))
      let dot := fun g =>
        let sa := scale fa β i g
        let sb := scale fb γ j g
        if sa = 255 ∨ sb = 255 then Machine.Num.nan
        else plusZero (((List.zipWith Machine.Num.mul (row fa p i g) (row fb q j g)).foldl (Machine.Num.add .rne)
          (.fin false 0 0)).scale ((sa : Int) + sb - 254))
      let granules := List.range (fa.perRow / 32)
      let old := fp32.decode (quadAt Q.toNat i j)
      let new := granules.foldl (fun acc g => add32 acc (dot g)) old
      let finite := fun (f : Fmt) (t : BitVec 32768) (band : BitVec 2048) i =>
        granules.all fun g => scale f band i g != 255 && (row f t i g).all Machine.Num.isFin
      B = .single tb q γ ∨ (∃ e : BitVec 512, B = .seed e ∧ seedFmt e.toNat = fb.code ∧ minted (povf x) e.toNat = .single fb q γ) →
      ∃ Q' P', ((formTmma a b (BitVec.ofNat 4 pr.val) k).make x [.single ta p β, B] (some (.quad Q P))).top = some (.quad Q' P') ∧
        quadAt Q'.toNat i j = fp32.encode new ∧
        quadPoison P'.toNat i j = (quadPoison P.toNat i j ||
          (decide (fa = .bf16) && ((List.range 32).any (poisonAt β.toNat i) || (List.range 32).any (poisonAt γ.toNat j))) || new.isNan ||
          (povf x && new.isInf && old.isFin && finite fa p β i && finite fb q γ j))) ∧
     -- TDRAIN.
     (let old := fp32.decode (quadAt Q.toNat i j)
      let po := quadPoison P.toNat i j
      (∃ pay band, ((formTdrain a .fp32 k).make x [.quad Q P] none).outs[j / 16]? = some (.single .fp32 pay band) ∧
        elemAt .fp32 pay.toNat i (j % 16) = quadAt Q.toNat i j ∧ poisonAt band.toNat i (j % 16) = (po || old.isNan)) ∧
      (∃ pay band, ((formTdrain a .bf16 k).make x [.quad Q P] none).outs[j / 32]? = some (.single .bf16 pay band) ∧
        let z := bf16.round .rne old
        elemAt .bf16 pay.toNat i (j % 32) = bf16.encode z ∧
          poisonAt band.toNat i (j % 32) = (po || z.isNan || (povf x && z.isInf && old.isFin))) ∧
      (∃ pay band, ((formTdrain a .fp16 k).make x [.quad Q P] none).outs[j / 32]? = some (.single .fp16 pay band) ∧
        elemAt .fp16 pay.toNat i (j % 32) = if po then 0x7E00 else (fpOf .fp16).encode ((fpOf .fp16).round .rne old)))) ∧
  (∀ (a : Opnd) (k : Toks) (x : Ctx) (e : BitVec 512) (i : Nat), i < 64 →
     -- TGEN.
     let v := fun n => mintOne (seedCoefs e.toNat)
       (lfsrTake (seedK e.toNat) (lfsrSteps (seedK e.toNat * n) (lfsrStart (seedSeed e.toNat)))).1
     let gives := fun (f : Fmt) (pay : BitVec 32768) (band : BitVec 2048) =>
       ((formTgen a k).make x [.seed e] none).outs = [.single f pay band] ∧ minted (povf x) e.toNat = .single f pay band
     (seedFmt e.toNat = 1 → ∃ pay band, gives .bf16 pay band ∧ ∀ j, j < 32 →
       let z := bf16.round .rne (v (32 * i + j))
       elemAt .bf16 pay.toNat i j = bf16.encode z ∧
         poisonAt band.toNat i j = (z.isNan || (povf x && (seedCoefs e.toNat).all Machine.Num.isFin && z.isInf))) ∧
     (seedFmt e.toNat = 3 → ∃ pay, gives .e4m3 pay 0 ∧ ∀ j, j < 64 →
       let z := (fpOf .e4m3).round .rne (v (64 * i + j))
       elemAt .e4m3 pay.toNat i j = if z = .inf true then 0xFE else if z = .inf false then 0x7E else (fpOf .e4m3).encode z) ∧
     (seedFmt e.toNat = 6 → ∃ pay band, gives .mxint8 pay band ∧ ∀ g, g < 2 →
       let vs := (List.range 32).map fun c => v (64 * i + 32 * g + c)
       let b := if vs.all Machine.Num.isFin then scaleFor 8 6 (largest vs) else 255
       scaleAt band.toNat i g = b ∧ ∀ c, c < 32 →
         (b = 255 → elemAt .mxint8 pay.toNat i (32 * g + c) = 0) ∧
         (b ≠ 255 → ∀ r, ((v (64 * i + 32 * g + c)).scale (133 - (b : Int))).toInt .rne = some r →
           elemAt .mxint8 pay.toNat i (32 * g + c) = (max (-128) (min 127 r) % 256).toNat))) ∧
  (∀ (a b : Opnd) (l : Fin 4) (k : Toks) (x : Ctx) (ta tb : Fmt) (p q : BitVec 32768) (β γ : BitVec 2048) (of_ : Fin 3), 0 < fitN x →
     -- SEEDFIT.
     let f := [Fmt.bf16, .e4m3, .mxint8][of_]
     let target := (List.range (64 * f.perRow)).map fun n =>
       bf16.decode (elemAt .bf16 (if n % f.perRow < 32 then p else q).toNat (n / f.perRow) (n % 32))
     let cand := candidate (fitStart x) (fitK x) f target
     let made := (formSeedfit a b l (BitVec.ofNat 2 of_.val) k).make x
       (if f = .bf16 then [.single ta p β] else [.single ta p β, .single tb q γ]) none
     let better := fun r r' : Machine.Num => r.lt r' || (r'.isNan && !r.isNan)
     ∃ n, n < fitN x ∧ made.outs = [.seed (BitVec.ofNat 512 (cand n).1)] ∧ made.landing = some (toW (cand n).2) ∧
       (∀ n', n' < fitN x → better (cand n').2 (cand n).2 = false) ∧ ∀ n', n' < n → better (cand n).2 (cand n').2 = true) ∧
  (∀ (a b : Opnd) (k : Toks) (x : Ctx) (ta tb S T : Fmt) (p q : BitVec 32768) (β γ : BitVec 2048) (mm : Fin 4) (t i j : Nat),
     -- TQNT and TCVT.
     let two := T.perRow = 2 * S.perRow
     let vals := if two then [Val.single ta p β, .single tb q γ] else [.single ta p β]
     let tiles := if two then 1 else S.perRow / T.perRow
     let flagged := fun (f : Fmt) (band : BitVec 2048) i c => (f == .bf16 || f == .fp32) && poisonAt band.toNat i c
     let poison := fun i c => if c < S.perRow then flagged S β i c else flagged S γ i (c - S.perRow)
     let src := fun i c => if poison i c then Machine.Num.nan
       else if c < S.perRow then valueAt S (p.toNat, β.toNat) i c else valueAt S (q.toNat, γ.toNat) i (c - S.perRow)
     let mode := fun e => if rndOf x = 4 then Rm.sr (lfsrTake 16 (lfsrSteps (16 * e) (lfsrStart x.cvtSr))).1 else Rm.ofCode (rndOf x)
     let scale := fun (z : Int) t i j => if T.isMx then
         scaleFor T.width (mxQ T) (largest ((List.range 32).map fun c => (src i (T.perRow * t + j / 32 * 32 + c)).scale z))
       else 127
     let conv := fun (z : Int) t i j => convert (targetFor T (scale z t i j)) (bits x.cvtCtl.toNat 0 8)
       (mode (64 * T.perRow * t + T.perRow * i + j)) ((src i (T.perRow * t + j)).scale z)
     let each := fun (P : Nat → Nat → Nat → Prop) => ∀ t i j, t < tiles → i < 64 → j < T.perRow → P t i j
     let some_ := fun (P : Nat → Nat → Nat → Prop) => ∃ t i j, t < tiles ∧ i < 64 ∧ j < T.perRow ∧ P t i j
     let works := fun (form : CForm) (z : Int) =>
       let made := form.make x vals none
       form.srcs = (if two then [srcOf a, srcOf b] else [srcOf a]) ∧ made.outs.length = tiles ∧
       (∃ pay band, made.outs[t]? = some (.single T pay band) ∧
         let y := convVal (conv z t i j)
         elemAt T pay.toNat i j = (targetFor T (scale z t i j)).encode y ∧
         (T.isMx = true → scaleAt band.toNat i (j / 32) = scale z t i j) ∧
         (T = .bf16 ∨ T = .fp32 → poisonAt band.toNat i j = (poison i (T.perRow * t + j) || y.isNan ||
           (povf x && y.isInf && ((src i (T.perRow * t + j)).scale z).isFin)))) ∧
       (made.flt = none ↔ each fun t i j => ∃ y st, conv z t i j = .ok y st) ∧
       (∀ n, made.stat.testBit n = true ↔ some_ fun t i j => (convStat (conv z t i j)).testBit n = true) ∧
       made.sr = (if rndOf x = 4 then some (lfsrSteps (16 * (64 * T.perRow * tiles)) (lfsrStart x.cvtSr)) else none) ∧
       ∃ top, made.am = some (mm.val, top) ∧
         (each fun t i j => (magPattern (src i (T.perRow * t + j))).toNat ≤ top.toNat) ∧
         some_ fun t i j => magPattern (src i (T.perRow * t + j)) = top
     two ∨ S.perRow ∈ [T.perRow, 2 * T.perRow, 4 * T.perRow] → t < tiles → i < 64 → j < T.perRow →
     works (formTcvt S a b T k mm) 0 ∧ (S.isMx = false → T.isMx = false → works (formTqnt S a b T k mm) (quantExp x)))

/-- The oldest dispatched instruction commits where it has met no fault and its results have their storage: it leaves the
list, its results become values on the stack, the lane's head moves by one, its CVT_STAT bits are set, its running maximum is
raised and its departure entry made (spec/04 R86, R417). A push that had waited is made once its queue has room.

One that has met a fault is cancelled with all that follow it: the stack, the loops and the PC are those before it, and its
trap is raised, in the handler at the trap vector or at the supervisor, which holds the team (R88, spec/20 R351, R352). A
faulting instruction of a team that is held already is cancelled and no more.

Anticipation makes the shallowest entry of depths 0 to 3 that can get its till slots begin to rise (spec/04 R80), and none while the
team is being saved (R91); an entry that moves is where it moves to at the end of its move (R71). -/
def Obligations.CommitsAndStack : Prop :=
  (∀ (s s1 : State) (c : Nat) (j : Infl) (rest : List Infl), (s.ctx c).infl = j :: rest → j.flt = none →
     (j.results.map (·.1)).foldl (prepResult c) (s, true) = (s1, true) → (j.results.map (·.1)).Nodup →
     ∃ t, exec (.cCommit c) s = .next t ∧ (t.ctx c).infl.map (·.i) = rest.map (·.i) ∧
       (t.ctx c).cl.head = (s.ctx c).cl.head + 1 ∧ (t.ctx c).cvtStat = (s.ctx c).cvtStat ||| j.stat ∧
       (t.ctx c).x = (s.ctx c).x ∧ (∀ r ∈ j.results, ∀ e ∈ (t.ctx c).stack, e.id = r.1 → e.val = some r.2) ∧
       (∀ (v : Fin 4) (m : W32), j.am = some (v.val, m) → (t.ctx c).am[v] = maxW (s.ctx c).am[v] m) ∧
       ((t.ctx c).retired = false →
         (t.ctx c).stack.map (·.id) = (s.ctx c).stack.map (·.id) ∧
         (∀ (k : Fin 16) (v : Val), j.dep = some (k.val, v) → (t.ctx c).strm[k].dep = (s.ctx c).strm[k].dep ++ [v]) ∧
         ∀ (q : Fin 16) (n : Nat), j.sig = some (q.val, n) → (s.ctx c).sigWait = [] →
           tokenRoom { s.ctx c with infl := rest } q.val n = true →
           (t.ctx c).tq[q] = (s.ctx c).tq[q] ++ List.replicate n (posOf s c .c))) ∧
  (∀ (s : State) (c : Nat) (w : SigPush) (more : List SigPush), (s.ctx c).sigWait = w :: more →
     tokenRoom (s.ctx c) w.q w.n = true → w.q < 16 →
     ∃ t, exec (.sigPushDeferred c) s = .next t ∧ (t.ctx c).sigWait = more ∧
       vget (t.ctx c).tq w.q [] = vget (s.ctx c).tq w.q [] ++ List.replicate w.n w.who) ∧
  (∀ (s : State) (c : Nat) (j : Infl) (rest : List Infl) (f : Flt), (s.ctx c).infl = j :: rest → j.flt = some f →
     let isTrap := match j.i with
       | .trap .. => true
       | _ => false
     let resume := if isTrap then j.pc + 4 else j.pc
     let restored := fun t : State => (t.ctx c).infl = [] ∧ (t.ctx c).cl.loops = j.loops ∧
       (t.ctx c).stack.map (fun e => (e.id, e.val)) = j.stack.map (fun e => (e.id, e.val))
     (teamHeld s c = true ∨ (s.ctx c).dueFlt.isSome = true →
       ∃ t, exec (.trapUnwind c) s = .next t ∧ restored t ∧ (t.ctx c).cl.pc = j.pc) ∧
     (teamHeld s c = false → (s.ctx c).dueFlt = none → (s.ctx c).dbgFlt = none → (s.ctx c).kmiss = none →
       (∀ e ∈ (s.ctx c).stores, e.undo = none) → ParkSettled s c → stopsFaults (s.ctx c) = false → (isSup c = true → inHandler (s.ctx c) = false) →
       ∃ t, exec (.trapUnwind c) s = .next t ∧ restored t ∧ (t.ctx c).cl.pc = resume ∧
         (t.ctx c).frPos = posOf s c .c ∧ (t.ctx c).frWord = j.word ∧
         (inHandler (s.ctx c) = false → (t.ctx c).frAddr = f.addr ∧ (t.ctx c).frInfo = f.info) ∧
         (inHandler (s.ctx c) = false → hasHandler (s.ctx c) c = true →
           (t.ctx c).frCause = causeWord f 2 true j.deferred.isSome true (!(s.ctx c).heldFlts.isEmpty) false ∧
           inHandler (t.ctx c) = true ∧ ((s.ctx c).cl.parked = false → (s.ctx c).cl.parking = false →
             (t.ctx c).frResume[2] = resume) ∧
           (t.ctx c).k.pc = if isSup c then Config.supervisorVector c else (s.ctx c).hdr + (s.ctx c).trapOff.zeroExtend 64) ∧
         (c < 16384 → inHandler (s.ctx c) = true ∨ hasHandler (s.ctx c) c = false →
           ∀ tm, (s.cluster (clusterOf c)).team = some tm →
           (t.cluster (clusterOf c)).team =
             some { tm with held := some (if inHandler (s.ctx c) then 0x11 else f.cause) }))) ∧
  (∀ (s : State) (c : Nat),
     (∃ t, exec (.anticipationLift c) s = .next t ∧
       (t.ctx c).stack.map (fun e => (e.id, e.val)) = (s.ctx c).stack.map (fun e => (e.id, e.val))) ∧
     (teamSaving s c = true → exec (.anticipationLift c) s = .next s) ∧
     ∀ e r s', teamSaving s c = false → halted s c = false → toLift (s.ctx c) = e :: r → (getSlotsNow c e.id e.kind.slots true 64 (leaveDeep s c)).isSome = true →
       getSlots (leaveDeep s c) c e.id e.kind.slots true = .have_ s' →
       exec (.anticipationLift c) s = .next (beginRise s' c e.id) ∧
       ∀ a, (s'.ctx c).stack.find? (fun b => b.id == e.id) = some a →
         ∀ b ∈ ((beginRise s' c e.id).ctx c).stack, b.id = e.id →
           (a.res = .subsoil → b.res = .movingS) ∧ (a.res = .bedrock → b.res = .movingB)) ∧
  (∀ (s : State) (c id : Nat),
     (∃ t, exec (.stackMoveComplete c id) s = .next t ∧
       (t.ctx c).stack.map (fun e => (e.id, e.val, e.res)) = (s.ctx c).stack.map fun e =>
         (e.id, e.val, if e.id = id then e.res.settled else e.res)) ∧
     Res.settled .movingS = .till ∧ Res.settled .movingB = .till ∧ Res.settled (.sinkS c id) = .subsoil ∧
       Res.settled (.sinkB c id) = .bedrock ∧ Res.settled .down = .bedrock)

/-! ## The kiln -/

/-- The kiln takes the next start of its queue where it runs no program and has nothing to reload: the program begins at its
entry word with its arguments in g0 to g5 (spec/13 R291, spec/10 R246). The image of a start that loads is read first, and then
the program begins.

XBIND binds a counter to a queue of a parcel of the team and XUNBIND ends that; XSIG and XWAIT push and take tokens of the
counter, or of the queue it is bound to, whose tokens of a retired parcel are discarded, and from which an XWAIT then takes
nothing and goes on (the model's choice, log 55); XHALT ends the program and pushes its
completion token once there is room (spec/13 R299-R301, spec/03 R50). -/
def Obligations.KilnStartsAndTokens : Prop :=
  (∀ (s : State) (cl : Nat),
      (∀ k rest, (s.cluster cl).run = none → (s.cluster cl).kpush = [] → (s.cluster cl).starts = k :: rest → k.tw = 15 →
        (s.cluster cl).reload = [] → (∀ j ∈ rest, j.tw = 15) → mayStart s cl k.c = true →
        ∃ t r, exec (.kilnStart cl) s = .next t ∧ (t.cluster cl).run = some r ∧ (t.cluster cl).starts = rest ∧
          r.pc = k.blk.toNat / 2 ^ 64 % 2 ^ 12 ∧ r.c = k.c ∧ r.loops = [] ∧ r.cfg = 0 ∧
          (∀ n : Fin 16, r.g[n] = if n.val < 6 then k.blk.extractLsb' (128 + 64 * n.val) 64 else 0) ∧
          r.loading = k.blk.getLsbD 89) ∧
      (∀ r t n, (s.cluster cl).run = some r → r.loading = true → (s.cluster cl).reload = [] →
        loadWords cl r.c (bits r.blk.toNat 76 13) (bits r.blk.toNat 0 52) (bits r.blk.toNat 64 12) s = (t, n, none) →
        ∃ u, exec (.kilnLoadComplete cl) s = .next u ∧ (u.cluster cl).run = some { r with loading := false } ∧
          (u.cluster cl).imem = (t.cluster cl).imem)) ∧
  (∀ (s : State) (cl : Nat) (r : KRun) (a : GReg) (q : Fin 16) (n : Fin 32) (m : BitVec 6) (tm : Team), XReady s cl r →
      (s.cluster cl).team = some tm → tm.recd = none →
      let ct := (s.cluster cl).ct[n]
      let goes := fun (o : Out3) (c : Ct) => ∃ t, o = .next t ∧ (t.cluster cl).ct[n] = c ∧
        (∀ k, k ≠ n → (t.cluster cl).ct[k] = (s.cluster cl).ct[k]) ∧
        (t.cluster cl).run = some { r with pc := r.pc + 1, wait := none }
      (q ≠ 15 → r.g[a].toNat < 256 → r.g[a].toNat < tm.size →
        goes (exec (.xbind a q n) s) { ct with bind := some (r.g[a].toNat, q.val) }) ∧
      goes (exec (.xunbind n) s) { ct with bind := none } ∧
      (m ≠ 0 → ct.bind = none → ct.pushers.length + m.toNat ≤ 63 →
        goes (exec (.xsig m n) s) { ct with pushers := ct.pushers ++ List.replicate m.toNat (kilnPos s cl) }) ∧
      (m ≠ 0 → ct.bind = none → m.toNat ≤ ct.pushers.length →
        goes (exec (.xwait m n) s) { ct with pushers := ct.pushers.drop m.toNat }) ∧
      (∀ (p : Nat) (b : Fin 16), m ≠ 0 → ct.bind = some (p, b.val) →
        let k := ctxOfParcel cl p
        let queue := fun (o : Out3) (l : List Word) => goes o ct ∧ ∃ t, o = .next t ∧ (t.ctx k).tq[b] = l ∧
          ∀ j, j ≠ b → (t.ctx k).tq[j] = (s.ctx k).tq[j]
        ((s.ctx k).retired = false → tokenRoom (s.ctx k) b.val m.toNat = true →
          queue (exec (.xsig m n) s) ((s.ctx k).tq[b] ++ List.replicate m.toNat (kilnPos s cl))) ∧
        ((s.ctx k).retired = true → queue (exec (.xsig m n) s) (s.ctx k).tq[b]) ∧
        ((s.ctx k).retired = true → queue (exec (.xwait m n) s) (s.ctx k).tq[b]) ∧
        ((s.ctx k).retired = false → m.toNat ≤ (s.ctx k).tq[b].length → earlierInput (s.cluster cl) k b.val (s.cluster cl).nextCmd = false →
          servedFirst (s.ctx k) 4 b.val = false →
          queue (exec (.xwait m n) s) ((s.ctx k).tq[b].drop m.toNat))) ∧
      (∃ t, exec .xhalt s = .next t ∧ (t.cluster cl).run = none ∧
        (t.cluster cl).knHead = (s.cluster cl).knHead + 1 ∧
        (∀ p : Fin 16, r.ts = p.val → r.ts ≠ 15 → (s.cluster cl).kpush = [] → (s.ctx r.c).retired = false →
          tokenRoom (s.ctx r.c) r.ts 1 = true → (t.ctx r.c).tq[p] = (s.ctx r.c).tq[p] ++ [kilnPos s cl])))

/-- The words of a kiln program that act on its own registers (spec/13 R292, R294, R295): each makes its result and the
program goes on at the next word, or at the word that its loop gives. A count of zero whose search meets a damaged word fails the
program with that word's fault (spec/21 R393); one without a matching XEND before word 4,095, a fifth loop and an XEND without a loop
fail it with cause 0x2D, DETAIL 2. That the search tells a word by its opcode alone is the model's reading (log 35). -/
def Obligations.KilnRegisterWords : Prop :=
  ∀ (s : State) (cl : Nat) (r : KRun) (d a b : GReg) (i : BitVec 12) (j : BitVec 16) (sh : BitVec 6), XReady s cl r →
    let goes := fun (r' : KRun) (pc : Nat) => Host.Outcome.next (φ := Fault) (ρ := Refusal) (kilnTo s cl r' pc)
    let put := fun v : Word => { r with g := r.g.set d v }
    let loops := fun (i : Instr) (cnt : W32) =>
      (cnt ≠ 0 → r.loops.length < 4 → exec i s = goes { r with loops := (r.pc + 1, cnt) :: r.loops } (r.pc + 1)) ∧
      (cnt ≠ 0 → 4 ≤ r.loops.length → exec i s = .next (kilnFail s cl r ⟨0x2D, 2, 0, 0⟩)) ∧
      (cnt = 0 → ∀ pc, skipLoop (s.cluster cl) (4094 - r.pc) (r.pc + 1) 0 = .inl pc → exec i s = goes r pc) ∧
      (cnt = 0 → ∀ f, skipLoop (s.cluster cl) (4094 - r.pc) (r.pc + 1) 0 = .inr f → exec i s = .next (kilnFail s cl r f))
    -- What the search from word `w`, of `n` words to read, comes to: the word behind the XEND, or a fault.
    (∀ n w depth, (skipLoop (s.cluster cl) 0 w depth = .inr ⟨0x2D, 2, 0, 0⟩) ∧
      (∀ f, kilnFetch (s.cluster cl) w = .flt f → skipLoop (s.cluster cl) (n + 1) w depth = .inr f) ∧
      (∀ v, kilnFetch (s.cluster cl) w = .word v → skipLoop (s.cluster cl) (n + 1) w depth =
        if v / 2 ^ 24 % 256 = 1 then skipLoop (s.cluster cl) n (w + 1) (depth + 1)
        else if v / 2 ^ 24 % 256 = 2 then (if depth = 0 then .inl (w + 1) else skipLoop (s.cluster cl) n (w + 1) (depth - 1))
        else skipLoop (s.cluster cl) n (w + 1) depth)) ∧
    exec .xnop s = goes r (r.pc + 1) ∧ loops (.xloopImm i) (i.zeroExtend 32) ∧
    loops (.xloopReg a) (r.g[a].extractLsb' 0 32) ∧
    (∀ start left rest, r.loops = (start, left) :: rest →
      (left = 1 → exec .xend s = goes { r with loops := rest } (r.pc + 1)) ∧
      (left ≠ 1 → exec .xend s = goes { r with loops := (start, left - 1) :: rest } start)) ∧
    (r.loops = [] → exec .xend s = .next (kilnFail s cl r ⟨0x2D, 2, 0, 0⟩)) ∧
    exec (.xli d j) s = goes (put (j.signExtend 64)) (r.pc + 1) ∧
    exec (.xaddi d a i) s = goes (put (r.g[a] + i.signExtend 64)) (r.pc + 1) ∧
    exec (.xaddr d a b sh) s = goes (put (r.g[a] + (r.g[b] <<< sh))) (r.pc + 1) ∧
    (cfgOk r.g[a] = true → exec (.xcfg a) s =
      goes { r with cfg := r.g[a], sr := lfsrStart ((r.g[a].extractLsb' 32 16).zeroExtend 64) } (r.pc + 1)) ∧
    (cfgOk r.g[a] = false → exec (.xcfg a) s = .next (kilnFail s cl r ⟨0x2D, 1, 0, 0⟩))

/-- The words of a kiln program that move data (spec/13 R294, R296, R297): a load writes gD; an image of 4,352 bytes is
written transposed; a packed image is made or expanded; XMOVE moves its first word and goes on. That XMOVE.B8, XMOVE.B16, XPACK and
XUNPACK read their whole image before any of it is written, where source and destination overlap too, is the model's choice (log 10):
R298 leaves an overlapped byte either way.

An XMOVE of one word, or an XCONV of one unit, whose source and destination resolve and that meets no fault, writes its
bytes and completes (spec/13 R294, R296). -/
def Obligations.KilnDataWords : Prop :=
  (∀ (s s1 s2 : State) (cl : Nat) (r : KRun) (d a : GReg) (i : BitVec 12) (sp dp : List (Loc × Nat)), XReady s cl r →
     let reads := fun (lg n : Nat) => resolve s (Acc.load r.c 11 lg 0) r.g[a] n = .ok s1 sp
     let writes := fun (n : Nat) => resolve s1 (Acc.store r.c 11 6 0) r.g[d] n = .ok s2 dp
     let img := leNat (readPieces s2 sp)
     let wrote := fun bs : List Byte => Host.Outcome.next (φ := Fault) (ρ := Refusal)
       (kilnNext (engWrite s2 cl r.c (kilnPos s2 cl) r.g[d] dp bs) cl r)
     let turned := fun t : BitVec 32768 × BitVec 2048 => leBytes 4352 (t.1.toNat + t.2.toNat * 2 ^ 32768)
     let image := (BitVec.ofNat 32768 img, BitVec.ofNat 2048 (img / 2 ^ 32768))
     let cfgFmt := fmtCode (r.cfg.toNat % 16)
     (reads 2 4 → exec (.xldW d a) s =
       .next (kilnNext s1 cl { r with g := r.g.set d (BitVec.ofNat 64 (leNat (readPieces s1 sp))) })) ∧
     (reads 3 8 → exec (.xldD d a) s =
       .next (kilnNext s1 cl { r with g := r.g.set d (BitVec.ofNat 64 (leNat (readPieces s1 sp))) })) ∧
     (reads 6 4352 → writes 4352 →
       exec (.xmoveB8 d a) s = wrote (turned (xposeB8 image.1, image.2)) ∧
       exec (.xmoveB16 d a) s = wrote (turned (xposeB16 image.1, xposeBand image.2))) ∧
     (reads 6 4352 → writes 4288 → cfgFmt.isMx = true → ∀ bs, packTile cfgFmt image.1 image.2 = some bs →
       exec (.xpack d a) s = wrote bs) ∧
     (reads 6 4288 → writes 4352 → ∀ f, packedFmt img = some f → packedOk f img = true →
       exec (.xunpack d a) s = wrote (turned (expandTile f img))) ∧
     (i ≠ 0 → exec (.xmove d a i) s = moveWords s cl r r.g[a] r.g[d] i.toNat 0 s) ∧
     (i ≠ 0 → xconvOk r.cfg i.toNat = true → exec (.xconv d a i) s =
       convFrom s cl r.g[a] r.g[d] cfgFmt (fmtCode (r.cfg.toNat / 16 % 16)) (r.cfg.toNat / 256 % 256)
         (r.cfg.toNat / 2 ^ 20 % 8) (i.toNat / convStep cfgFmt (fmtCode (r.cfg.toNat / 16 % 16))) 0 r s)) ∧
  (∀ (s s1 s2 : State) (cl : Nat) (r : KRun) (d a : GReg) (sp dp : List (Loc × Nat)), XReady s cl r →
     (resolve s (Acc.load r.c 11 3 0) r.g[a] 8 = .ok s1 sp → resolve s1 (Acc.store r.c 11 3 0) r.g[d] 8 = .ok s2 dp →
       let m := readMixed s s2 sp
       exec (.xmove d a 1) s = .next (kilnNext (engWrite m.1 cl r.c (kilnPos m.1 cl) r.g[d] dp m.2) cl r)) ∧
     (let sf := fmtCode (r.cfg.toNat % 16)
       let df := fmtCode (r.cfg.toNat / 16 % 16)
       let u := convStep sf df
       ∀ i : BitVec 12, i.toNat = u → xconvOk r.cfg i.toNat = true →
       resolve s (Acc.load r.c 11 0 0) (r.g[a] + BitVec.ofNat 64 (denseBytes sf 0)) (denseBytes sf u) = .ok s1 sp →
       let m := readMixed s s1 sp
       let drawn := drawModes (r.cfg.toNat / 2 ^ 20 % 8) u r.sr
       let out := convUnit df (r.cfg.toNat / 256 % 256) drawn.1 0 (unitValues sf u m.2)
       out.bad = none → resolve m.1 (Acc.store r.c 11 0 0) (r.g[d] + BitVec.ofNat 64 (denseBytes df 0))
         (unitBytes df out).length = .ok s2 dp →
       exec (.xconv d a i) s = .next (kilnNext (engWrite s2 cl r.c (kilnPos s2 cl)
         (r.g[d] + BitVec.ofNat 64 (denseBytes df 0)) dp (unitBytes df out)) cl { r with sr := drawn.2 })))

/-! ## Teams -/

/-- A parcel of a team that has just been placed (spec/03 R46, R48, R49): it is resident, its lanes stand at the offsets of its
kernel header, and every register holds the value that R49 gives; the debug registers are as the debugger has written or asked them for
the placement (spec/23 R415). Cluster memory reads as zero, and so do the escrow counters.

A team whose parcels have all retired and whose commands and kiln programs have completed ends: its cluster is free and
its contexts are no longer resident (spec/03 R50). A relocation that a fault has suspended ends before: its slab map entry is not
written, and ACTIVE clears (spec/21 R390). A replayed event that it has not made by then stops it with cause 0x43,
DETAIL 6 (spec/22 R398). -/
def Obligations.TeamStartAndEnd : Prop :=
  (∀ (s : State) (cl n t p : Nat), cl < 64 → p < (s.launch n).header.team → (s.launch n).header.team ≤ 256 →
     let l := s.launch n
     let h := l.header
     let u := placeTeam s cl n t
     let x := u.ctx (ctxOfParcel cl p)
     let old := s.ctx (ctxOfParcel cl p)
     let starts := fun (y : LaneSt) (off : Nat) => y.pc = l.hdrAddr + BitVec.ofNat 64 off ∧ y.head = 0 ∧ y.parked = false ∧
       y.loops = [] ∧ y.wait = none
     x.resident = true ∧ x.retired = false ∧ starts x.k h.koff ∧ starts x.l h.loff ∧ starts x.cl h.coff ∧ starts x.sl h.soff ∧
       (∀ r, x.rx r = 0) ∧ (∀ q : Fin 8, x.p[q] = (q == 0)) ∧ (∀ i : Fin 4, x.lat[i].val = 0 ∧ x.lat[i].valid = false) ∧
       (∀ i : Fin 16, x.strm[i].armed = false ∧ x.tq[i] = []) ∧ (∀ i : Fin 24, x.n[i] = 0 ∧ x.arrived[i] = false) ∧
       x.am = Vector.replicate 4 0 ∧ x.stack = [] ∧ x.cvtCtl = 0xAA ∧ x.cvtSr = 0 ∧ x.cvtStat = 0 ∧ x.discStat = 0 ∧
       x.trigCtl = 0 ∧ x.perfSel = Vector.replicate 4 0 ∧ x.perfCnt = Vector.replicate 4 0 ∧ x.frCause = 0 ∧ x.frPos = 0 ∧
       x.frWord = 0 ∧ x.frAddr = 0 ∧ x.frInfo = 0 ∧ x.frResume = Vector.replicate 4 0 ∧ x.frScr = Vector.replicate 4 0 ∧
       inHandler x = false ∧ (x.dbgCtl, x.dbgBp) = FMap.find s.asked (ctxOfParcel cl p) (old.dbgCtl, old.dbgBp) ∧ x.dbgStat = 0 ∧
       x.larg = l.arg ∧ x.ptRoot = l.ptRoot ∧ x.hdr = l.hdrAddr ∧ x.teamId.toNat = homeOf l t * 2 ^ 24 + t % 2 ^ 24 ∧
       (∀ i : Fin 4, x.lix[i].toNat = (loopIndices h.rows p t).getD i.val 0 % 2 ^ 32 ∧
         x.lex[i].toNat = rowExtent (h.rows.getD i.val 0)) ∧
       x.nx = allocated h.xregs ∧ x.tickets = h.tickets ∧ x.subsoil = h.subsoil ∧
       (∀ a, u.cmemByte cl a = 0) ∧ (∀ e : Fin 64, (u.cluster cl).ec[e] = 0) ∧
       ((u.cluster cl).team.map fun m => (m.launch, m.t, m.size)) = some (n, t, h.team)) ∧
  (∀ (s : State) (cl : Nat) (t : Team) (k : Cmd), (s.cluster cl).team = some t → endingReloc s cl t = some k →
     ∃ u, exec (.teamEnd cl) s = .next u ∧ bitAt (u.cluster cl).fwdStat 63 = false ∧ SameMemory s u ∧
       ((u.cluster cl).team.map fun m => (m.launch, m.t)) = some (t.launch, t.t)) ∧
  (∀ (s : State) (cl : Nat) (t : Team), (s.cluster cl).team = some t → endingReloc s cl t = none → teamOver s cl t = true →
     (leftOver t = none → ∃ u, exec (.teamEnd cl) s = .next u ∧ (u.cluster cl).team = none ∧
       ∀ c, isSup c = false → clusterOf c = cl → (u.ctx c).resident = false) ∧
     ∀ e, leftOver t = some e →
       exec (.teamEnd cl) s = .next (divergeAt s (ctxOfParcel cl 0) 0 e.pos 0x43 6 e.seq e.value))

/-- The dispatcher of a die places one team in a cycle on the lowest free cluster: a resumed team first, else the next team of
the queue with the least PASS (spec/03 R54, R65), whose PASS grows by its STRIDE. Where the cluster's share of the bedrock pool
holds the team, it stands on the cluster as `placeTeam` places it (spec/03 R48, R49; `TeamStartAndEnd` says what its parcels are);
where not, its launch ends with cause 0x10: no team of it is left in a queue, and a message goes to the die's supervisor (spec/20
R362, R370). That the root launch of one made by a parcel then counts as failed too is the model's reading (log 22). An idle die steals the last unplaced team of a neighbour, and the same holds of it (spec/03 R56, R57). A resumed team
stands on its cluster with its memories, its escrow counters and its contexts as they were saved, each parcel's bedrock region at its
new place and its held engine faults its own (R65, spec/04 R77, R91, spec/21 R375); it is stated of a team that no recording
follows, and a K lane of it whose barrier has released meanwhile goes past its BAR (R65). That a resumed team which waits for its barrier's release neither resumes nor keeps the die from stealing is the model's
choice (logs 42, 50). -/
def Obligations.TeamPlacement : Prop :=
  ∀ (s : State) (d cl : Nat), freeCluster s d = some cl →
    -- A team of launch `n` that leaves queue `q` of die `v`, of which `rest` stays.
    let took := fun (v q : Nat) (rest : LQueue) => noteTook (s.modDie v fun x => x.modQ q fun _ => rest) d v q
    let needs := fun n : Nat => (s.launch n).header.team * (s.launch n).header.region
    let placed := fun (o : Out3) (v q n t : Nat) (rest : LQueue) => ∃ u, o = .next u ∧ u = placeTeam (took v q rest) cl n t ∧
      ((u.cluster cl).team.map fun m => (m.launch, m.t, m.size)) = some (n, t, (s.launch n).header.team) ∧
      (u.die d).placedAt = some s.cycle ∧ (u.die v).lq q = rest ∧
      ∀ e k, (e, k) ≠ (v, q) → (u.die e).lq k = (s.die e).lq k
    let fails := fun (o : Out3) (v q n t : Nat) (rest : LQueue) => o = .next (placementFailed (took v q rest) d n t) ∧
      ((s.launch n).bars = [] → ∃ u m, o = .next u ∧ (u.launch n).failed = some ((s.launch n).failed.getD 0x10) ∧
        ((s.launch n).root ≠ n →
          (u.launch (s.launch n).root).failed = some ((s.launch (s.launch n).root).failed.getD 0x10)) ∧
        (∀ e k, ∀ x ∈ ((u.die e).lq k).ents, x.launch ≠ n) ∧ (u.cluster cl).team = none ∧
        (u.die d).msgs = (s.die d).msgs ++ [m] ∧ m.cause.toNat % 2 ^ 16 = 0x10 ∧
        m.team = BitVec.ofNat 64 (homeOf (s.launch n) t * 2 ^ 24 + t % 2 ^ 24))
    (mayPlace s d = true →
      (∀ v rest, nextResumed (s.die d) = some (v, rest) →
        let h := (s.launch v.team.launch).header
        let share := shareOf (s.die d)
        exec (.teamPlace d) s = .next (resumeTeam (s.modDie d fun x => { x with resumed := rest }) cl v) ∧
        (v.team.recd = none → (v.ctxs.map (·.1)).Nodup → (∀ e ∈ v.ctxs, e.1 < 256) → (v.cores.map (·.1)).Nodup →
          ∃ u, exec (.teamPlace d) s = .next u ∧ (u.die d).resumed = rest ∧ (u.die d).placedAt = some s.cycle ∧
            ((u.cluster cl).team.map fun m => (m.launch, m.t, m.size, m.held, m.saving)) =
              some (v.team.launch, v.team.t, v.team.size, v.team.held, none) ∧
            (u.cluster cl).cmem = v.cluster.cmem ∧ (u.cluster cl).ec = v.cluster.ec ∧
            (∀ k x, (k, x) ∈ v.cores → (u.core (64 * cl + k)).scratch = x.scratch) ∧
            ∀ p x, (p, x) ∈ v.ctxs →
              let y := u.ctx (ctxOfParcel cl p)
              let base := (poolOf (s.die d).brBase (s.die d).brLen).1 + cl % 16 * share + p * h.region
              y.ovfBase = BitVec.ofNat 64 base ∧ y.ovfLimit = BitVec.ofNat 64 (base + 64 * (h.bedrock / 64)) ∧
                y.ovfPtr = BitVec.ofNat 64 (base + (x.ovfPtr.toNat - x.ovfBase.toNat)) ∧
                y.heldFlts = x.heldFlts.map (fun e => { e with c := ctxOfParcel cl p }) ∧
                y.dbgNext.map (fun t => (t.flt, t.lane)) = x.dbgNext.map (fun t => (t.flt, t.lane)) ∧
                ((∀ b, x.bar = some b → b.released = false) → y =
                  { x with ovfBase := y.ovfBase, ovfLimit := y.ovfLimit, ovfPtr := y.ovfPtr, heldFlts := y.heldFlts, dbgNext := y.dbgNext }) ∧
                (∀ b, x.bar = some b → b.released = true → x.resident = true → inHandler x = false →
                  y.bar = none ∧ y.k.pc = x.k.pc + 4))) ∧
      (∀ q n t rest, nextResumed (s.die d) = none → leastQueue (s.die d) = some q →
        takeFirst ((s.die d).lq q) = some (n, t, rest) →
        (needs n ≤ shareOf (s.die d) → placed (exec (.teamPlace d) s) d q n t
          { rest with pass := rest.pass + BitVec.ofNat 64 (2 ^ 20 / bits rest.cfg.toNat 0 11) }) ∧
        (shareOf (s.die d) < needs n → fails (exec (.teamPlace d) s) d q n t rest))) ∧
    (maySteal s d = true → ∀ v n t rest, victimOf s d = some v → servedBefore s d v = false →
      takeLast ((s.die v.1).lq v.2) = some (n, t, rest) →
      (needs n ≤ shareOf (s.die d) → placed (exec (.teamSteal d) s) v.1 v.2 n t rest) ∧
      (shareOf (s.die d) < needs n → fails (exec (.teamSteal d) s) v.1 v.2 n t rest))

/-- The dispatcher asks the supervisor to pre-empt a waiting team where an unplaced team of a launch with PREEMPT needs its
cluster, and again after 2^24 cycles (spec/03 R62). Without PREEMPT it holds the waiting team with cause 0x12 (spec/20 R371),
and again where the resumed team still waits. Which team it names where several wait, and when a held team may resume, are the
model's readings (logs 41, 42), and so is it that with causes 0x12 and 0x0F every context of the team that has not retired records the
cause, at its own K position (log 23): R371 and R373 name no context.

A write of PREEMPT_CTL with GO starts the save of a cluster's team, which issues nothing more (spec/03 R63, R64); the save
completes once everything under way has ended, and frees the cluster with the team among those to be resumed (R65). A save that
meets an uncorrectable error holds the team with cause 0x0F (spec/20 R373). The causes are those of a team for which no debugger
is armed (R351). -/
def Obligations.Preemption : Prop :=
  (∀ (s : State) (d cl : Nat), d < 4 →
     (need s d true = some cl → savesWaiting s d = false →
       (outstanding s d = false → ∃ t, exec (.preemptRequest d) s = .next t ∧
         (t.die d).msgs = (s.die d).msgs ++ [requestMsg s cl] ∧ (t.die d).request = some (cl, s.cycle)) ∧
       (outstanding s d = true → ∀ k at_, (s.die d).request = some (k, at_) → at_ + 2 ^ 24 ≤ s.cycle →
         ∃ t, exec (.preemptRequestRepeat d) s = .next t ∧
           (t.die d).msgs = (s.die d).msgs ++ [requestMsg s cl] ∧ (t.die d).request = some (cl, s.cycle))) ∧
     (need s d false = some cl → isHeld s cl = false → savesWaiting s d = false →
       (∀ c ∈ teamCtxs s cl, stopsFaults (s.ctx c) = false ∧ (s.ctx c).dbgFlt = none) →
       let raised := fun o : Out3 => ∃ t, o = .next t ∧ ((t.cluster cl).team.map (·.held)) = some (some 0x12) ∧
         (t.die d).noPre = some (cl, s.cycle) ∧ ∀ c ∈ teamCtxs s cl, (s.ctx c).retired = false →
           (t.ctx c).frCause.toNat % 65536 = 0x12 + waitLevel s cl % 256 * 256 ∧ (t.ctx c).frAddr = hdrOf s cl
       ((∀ k at_, (s.die d).noPre = some (k, at_) → k ≠ cl) → raised (exec (.barrierWithoutPreemption d) s)) ∧
       (∀ k at_, (s.die d).noPre = some (k, at_) → at_ + 2 ^ 24 ≤ s.cycle → raised (exec (.barrierNoPreemptRepeat d) s)))) ∧
  (∀ (s : State) (d cl : Nat) (v : Word) (t : Team), d < 4 →
     (bitAt (s.die d).preemptCtl 0 = false → v.toNat / 2 ^ 52 = 0 → v.toNat / 256 % 16 = 0 → v.toNat / 2 % 8 = 0 →
       bitAt v 0 = true → cl = 16 * d + v.toNat / 16 % 16 → (s.cluster cl).team = some t →
       v.toNat / 4096 % 2 ^ 40 * 4096 + saveSize (s.launch t.launch).header ≤ 2 ^ 39 →
       ∃ u, exec (.preemptGo d v) s = .next u ∧ (u.die d).preemptCtl = v ∧ (u.die d).saving = some cl ∧
         (∀ c ln, isSup c = false → clusterOf c = cl → laneRuns u c ln = false) ∧
         ((u.cluster cl).team.map (·.saving)) = some (some (BitVec.ofNat 64 (v.toNat / 4096 % 2 ^ 40 * 4096)))) ∧
     ((s.die d).saving = some cl → (s.cluster cl).team = some t → teamQuiet s cl = true →
       (saveDamaged s cl t = false → ∃ u w, exec (.preemptSaveComplete d false) s = .next u ∧ (u.die d).resumed = (s.die d).resumed ++ [w] ∧
         w.team.launch = t.launch ∧ w.team.t = t.t ∧ bitAt (u.die d).preemptCtl 0 = false ∧ (u.die d).saving = none ∧
         (u.cluster cl).team = none) ∧
       ∀ unc, unc = true ∨ saveDamaged s cl t = true →
         (∀ c ∈ teamCtxs s cl, stopsFaults (s.ctx c) = false ∧ (s.ctx c).dbgFlt = none) →
         ∃ u, exec (.preemptSaveComplete d unc) s = .next u ∧
           ((u.cluster cl).team.map fun t => (t.held, t.saving)) = some (some 0x0F, none) ∧
           (u.die d).saving = none ∧ bitAt (u.die d).preemptCtl 0 = false ∧
           ∀ c ∈ teamCtxs s cl, (s.ctx c).retired = false → (u.ctx c).frCause.toNat % 65536 = 0x0F))

/-- A team of which every lane has waited 2^24 cycles for what only the team itself could provide is held with cause 0x0E and
the number of its waiting lanes (spec/20 R369). An escrow post that the capacity has held for 2^24 cycles faults at its
instruction with cause 0x2C (spec/21 R384).

In replay, a queue whose recorded event has waited 2^24 cycles for one of lower SEQ stops its team with cause 0x43, DETAIL
7 (spec/22 R398, R399). -/
def Obligations.Stalls : Prop :=
  (∀ (s : State) (cl c : Nat) (t : Team),
     ((s.cluster cl).team = some t →
       let l := teamCtxs s cl
       let n := l.foldl (fun n c => n + lanesWaiting (s.ctx c)) 0
       t.held = none → t.saving = none → t.waiting = none → 0 < n → t.lastAct + 2 ^ 24 ≤ s.cycle →
       (∀ k ∈ l, ctxStuck s.cycle (s.ctx k) = true) → ((s.cluster cl).cmds.any Cmd.unended) = false →
       (s.cluster cl).starts = [] → (s.cluster cl).run = none →
       exec (.teamStall cl) s = .next (holdWhole s cl ⟨0x0E, 0, 0, BitVec.ofNat 64 n⟩) ∧
         ((∀ c ∈ l, stopsFaults (s.ctx c) = false ∧ (s.ctx c).dbgFlt = none) →
           let u := holdWhole s cl ⟨0x0E, 0, 0, BitVec.ofNat 64 n⟩
           ((u.cluster cl).team.map (·.held)) = some (some 0x0E) ∧
           ∀ c ∈ l, (s.ctx c).retired = false → (u.ctx c).frCause.toNat % 65536 = 0x0E ∧
             (u.ctx c).frInfo = BitVec.ofNat 64 n)) ∧
     ∀ (w : Wait) (s1 : State) (word : Nat), (s.ctx c).k.wait = some w → w.kind = 8 →
       max w.since (vget (s.cluster (clusterOf c)).ecAt w.obj 0) + 2 ^ 24 ≤ s.cycle →
       2 ^ 32 ≤ (s.cluster (clusterOf c)).escrow w.obj + w.amount → fetchWord s c (s.ctx c).k.pc = .word s1 word →
       exec (.escrowStall c) s = .next (takeFault s1 c .k
         ⟨0x2C, w.obj, 0, BitVec.ofNat 64
           ((s.cluster (clusterOf c)).escrow w.obj + w.amount * 2 ^ 32)⟩ (BitVec.ofNat 64 word))) ∧
  (∀ (s : State) (c lane : Nat) (r : RecSt) (e : SyncRec), isSup c = false → recOf s (clusterOf c) = some r →
     r.mode = 2 → r.diverged = false → stopsFaults (s.ctx c) = false → (s.ctx c).dbgFlt = none → ((waitsOf s c).findSome? fun w => (heldEvent r w.2.1 w.2.2 s.cycle).map fun e => (w.1, e)) = some (lane, e) →
     ∃ t, exec (.replayWaitTimeout c) s = .next t ∧ isHeld t (clusterOf c) = true ∧
       (t.ctx c).frCause.toNat % 65536 = 0x43 + 7 * 256)

/-- The oldest message of a die goes into its slot of the fault ring once the slot's first word reads zero, and its number
follows (spec/20 R359): bytes 0x08 to 0x3F of the slot hold its CAUSE, POS, WORD, ADDR, INFO, TEAM and HDR (R360). A ring that has had no free slot for a second is a fatal error (spec/22 R414). -/
def Obligations.FaultRing : Prop :=
  ∀ (s : State) (d : Nat) (m : FltMsg) (rest : List FltMsg), d < 4 → (s.die d).msgs = m :: rest →
    ((s.die d).inReset = false → s.svc.boot ≠ 3 → fqFree s (s.die d) = true →
      ∃ t, exec (.faultMessageWrite d) s = .next t ∧ (t.die d).msgs = rest ∧ (t.die d).msgN = (s.die d).msgN + 1 ∧
        (let word := fun i : Nat => leNat (readPhys t ((s.die d).fqBase.toNat % 64) (fqSlot (s.die d) + 8 * i) 8)
         word 0 = ((s.die d).msgN + 1) % 2 ^ 64 ∧
         (s.Canonical → ∀ i v, [m.cause, m.pos, m.word, m.addr, m.info, m.team, m.hdr][i]? = some v →
           word (i + 1) = v.toNat))) ∧
    (∀ g, (s.die d).fqFull = some g → (s.die d).fqLen.toNat % 2 ^ 13 ≠ 0 → fqFree s (s.die d) = false →
      g + 1100000000 ≤ s.gtOf d → exec (.faultRingTimeout d) s = .next (fatal s 0x84))

/-- FLT_RESUME lets a held team go on, and FLT_END ends it: every parcel retires and the launch is marked FAILED
with the cause, the first cause where there was one already (spec/20 R361, R362); that its root is marked with it is the model's
reading (log 22). Cause 0x12 comes again only 2^24 cycles after the
resume (R371), and a context of the resumed team that is not in handler state takes the first of its held engine faults (R351, R354).

A handler may move the resume point of a lane that has not parked to an aligned address; a write outside handler state, of
a parked lane's, or of an unaligned address is an illegal operation, cause 0x02 with DETAIL 5, 7 or 2 (spec/20 R353). -/
def Obligations.HeldTeams : Prop :=
  (∀ (s : State) (cl cause : Nat) (t : Team), (s.cluster cl).team = some t → t.held = some cause →
     ((∀ c ∈ teamCtxs s cl, (s.ctx c).retired = false ∧ allParked (resumeHeld cause (s.ctx c)) = false) →
       (∃ c ∈ teamCtxs s cl, ∀ a ∈ t.arrivals, a.1 ≠ parcelOf c) →
       (∀ c ∈ teamCtxs s cl, (s.ctx c).heldFlts = [] ∨ inHandler (resumeHeld cause (s.ctx c)) = true) →
       ∃ u v, exec (.fltResume cl) s = .next u ∧ (u.cluster cl).team = some v ∧ v.held = none ∧
         ∀ g, (s.die (dieOfCluster cl)).noPre = some (cl, g) → (u.die (dieOfCluster cl)).noPre = some (cl, s.cycle)) ∧
     (∀ c e r, teamCtxs s cl = [c] → (∀ a ∈ t.arrivals, a.1 ≠ parcelOf c) → (s.ctx c).heldFlts = e :: r → e.c = c →
       (s.ctx c).resident = true → (s.ctx c).retired = false → allParked (resumeHeld cause (s.ctx c)) = false →
       clusterOf c = cl → isSup c = false → TakesFaults s c →
       ∃ u, exec (.fltResume cl) s = .next u ∧ inHandler (u.ctx c) = true ∧ (u.ctx c).heldFlts = r ∧
         (u.ctx c).frPos = e.pos ∧ (u.ctx c).frAddr = e.flt.addr ∧ (u.ctx c).frInfo = e.flt.info) ∧
     ∃ u, exec (.fltEnd cl) s = .next u ∧ (∀ c ∈ teamCtxs s cl, (u.ctx c).retired = true) ∧
       (u.launch t.launch).failed = some ((s.launch t.launch).failed.getD cause) ∧
       ((s.launch t.launch).root ≠ t.launch → (u.launch (s.launch t.launch).root).failed =
         some ((s.launch (s.launch t.launch).root).failed.getD cause)) ∧
       ((u.cluster cl).team.map (·.held)) = some none) ∧
  (∀ (s : State) (c : Nat) (ln : Lane) (n : Fin 4) (v : Word), n.val = ln.num →
     let old := (s.ctx c).frResume[n]
     let bad := fun d : Nat => takeFault s c .k ⟨0x02, d, 0, BitVec.ofNat 64 (0x608 + n.val)⟩ (wordAt s c)
     (inHandler (s.ctx c) = true → bitAt old 0 = false → v.toNat % 4 = 0 →
       exec (.frResumeWrite c ln v) s = .next (s.setCtx c { s.ctx c with
         frResume := (s.ctx c).frResume.set n v, resumeWritten := (s.ctx c).resumeWritten.set n true })) ∧
     (inHandler (s.ctx c) = false → exec (.frResumeWrite c ln v) s = .next (bad 5)) ∧
     (inHandler (s.ctx c) = true → bitAt old 0 = true → exec (.frResumeWrite c ln v) s = .next (bad 7)) ∧
     (inHandler (s.ctx c) = true → bitAt old 0 = false → v.toNat % 4 ≠ 0 →
       exec (.frResumeWrite c ln v) s = .next (bad 2)))

/-! ## Debug, trace and translation caches -/

/-- HALT stops a context, one that steps included, with REASON 1 and FORMING, and the others of its scope with REASON 8; a stopped
context issues nothing (spec/14 R307, R308). STOP_FORMED clears FORMING once what the stop lets complete has completed. RUN makes
the scope of the stop run again (spec/18 R346), and a fault that the stop has recorded goes to the handler, or for one of the
supervisor level to the supervisor (spec/20 R351).

STEP lets the lane STEPL of a stopped context issue STEPN instructions, and no other lane (spec/14 R310), after which REASON
reads 6; a K lane that stands in a MONW shows WAITING from the start. A breakpoint that matches stops the scope with the lane's head at the instruction, REASON 2 (R309). -/
def Obligations.DebugControl : Prop :=
  (∀ (s : State) (c : Nat),
     (let scope := bits (s.ctx c).dbgCtl.toNat 16 2
      (s.ctx c).stopped = false ∨ stepping (s.ctx c) = true →
       ∃ t, exec (.dbgHalt c) s = .next t ∧ (t.ctx c).stopped = true ∧ (t.ctx c).stopSc = scope ∧
       (t.ctx c).dbgStat = BitVec.ofNat 64 (1 + 2 ^ 6) ∧ (t.ctx c).x = (s.ctx c).x ∧
       (∀ ln, ((t.ctx c).lane ln) = ((s.ctx c).lane ln)) ∧ (∀ ln, laneRuns t c ln = false) ∧
       ∀ k ∈ scopeOf s c scope, k ≠ c → (s.ctx k).stopped = false →
         (t.ctx k).stopped = true ∧ (t.ctx k).dbgStat = BitVec.ofNat 64 (8 + 2 ^ 6) ∧ (t.ctx k).x = (s.ctx k).x) ∧
     ((s.ctx c).stopped = true → stopFormed s c = true → ∃ t, exec (.stopFormed c) s = .next t ∧
       bitAt (t.ctx c).dbgStat 6 = false ∧ (t.ctx c).stopped = true ∧ (t.ctx c).x = (s.ctx c).x) ∧
     ((s.ctx c).stopped = true →
       (∀ k ∈ c :: scopeOf s c (s.ctx c).stopSc, (s.ctx k).dbgFlt = none ∧ (s.ctx k).dbgNext = [] ∧ allParked (s.ctx k) = false) →
       ∃ t, exec (.dbgRun c) s = .next t ∧ (t.ctx c).dbgStat = 0 ∧
         ∀ k ∈ c :: scopeOf s c (s.ctx c).stopSc, (t.ctx k).stopped = false ∧ (t.ctx k).x = (s.ctx k).x) ∧
     ∀ (f : Flt) (lane : Nat) (sup : Bool), (s.ctx c).stopped = true → (s.ctx c).stopSc = 0 →
       (s.ctx c).dbgFlt = some (f, lane, sup) → (s.ctx c).dbgNext = [] → ParkSettled s c → ∃ t, exec (.dbgRun c) s = .next t ∧ (t.ctx c).stopped = false ∧
         (sup = false → inHandler (s.ctx c) = false → hasHandler (s.ctx c) c = true →
           inHandler (t.ctx c) = true ∧ (t.ctx c).frAddr = f.addr ∧ (t.ctx c).frPos = (s.ctx c).frPos ∧
           (t.ctx c).k.pc = if isSup c then Config.supervisorVector c else (s.ctx c).hdr + (s.ctx c).trapOff.zeroExtend 64) ∧
         (sup = true → ∀ tm, (s.cluster (clusterOf c)).team = some tm →
           (t.cluster (clusterOf c)).team = some { tm with held := some f.cause })) ∧
  (∀ (s : State) (c : Nat) (ln : Lane),
     ((s.ctx c).stopped = true → bits (s.ctx c).dbgCtl.toNat 24 8 ≠ 0 → ∃ t, exec (.dbgStep c) s = .next t ∧
       (t.ctx c).stepLeft = bits (s.ctx c).dbgCtl.toNat 24 8 ∧ bits (t.ctx c).dbgStat.toNat 0 4 = 0 ∧
       bitAt (t.ctx c).dbgStat 7 = (bits (s.ctx c).dbgCtl.toNat 20 2 == 0 && (s.ctx c).monw.isSome) ∧
       (t.ctx c).stopped = true ∧ OnlyCtx s t c ∧ (laneRuns t c ln = true → ln.num = bits (s.ctx c).dbgCtl.toNat 20 2) ∧
       (let x := s.ctx c
        ln.num = bits x.dbgCtl.toNat 20 2 → x.resident = true → x.retired = false → (x.lane ln).parked = false →
        (x.lane ln).parking = false → halted s c = false → x.dueFlt = none → (ln = .k ∨ inHandler x = false) →
        (ln = .k → x.kmiss = none ∧ x.monw = none) → x.infl = [] → x.yielded ≠ some s.cycle → laneRuns t c ln = true)) ∧
     (stepping (s.ctx c) = true → (s.ctx c).stepLeft = 0 → (s.ctx c).kmiss = none → (s.ctx c).infl = [] →
       ∃ t, exec (.stepDone c) s = .next t ∧ bits (t.ctx c).dbgStat.toNat 0 4 = 6 ∧ OnlyCtx s t c) ∧
     (breaks s c ln = true → ∃ t, exec (.breakpointMatch c ln) s = .next t ∧ (t.ctx c).stopped = true ∧
       (t.ctx c).dbgStat = BitVec.ofNat 64 (2 + 2 ^ 6) ∧ ((t.ctx c).lane ln).pc = ((s.ctx c).lane ln).pc ∧
       ((t.ctx c).lane ln).passBp = true))

/-- A trigger of a context goes to every die in service, with its position and its ID, and with REACH to every peer (spec/14
R316). A die that receives it in time notes its origin in TRIG_LAST, with TCAP ends its capture POST later, and stops the contexts
that ask for it (R317); one that comes too late, or a peer's that has come before, is discarded. A peer that has not acknowledged
it after 4,400 ticks is counted as LOST in TRIG_STAT, with the link (spec/22 R403, R405). The bound of a peer's trigger, 2,640 ticks
and 32 of lead, is the model's reading (log 49).

A sample writes one counter record for each resident context of the die, every 2^PERIOD cycles (spec/14 R314), and the
supervisor frees ring space by SBUF_RD (spec/22 R402).

The oldest imprecise hit that a cluster has noted leaves its list, and a record with its writer, its address, its watchpoint and
the cycles since its write goes to the ring (spec/14 R315, R319, spec/22 R404). -/
def Obligations.TraceEvents : Prop :=
  (∀ (s : State) (c d : Nat) (l : Fin 32), d < 4 →
     (∃ t, exec (.triggerFire c) s = .next t ∧ ((s.die d).inReset = false → (s.die d).inService = true →
         (t.die d).trigIn = (s.die d).trigIn ++
           [(posOf s c .k, s.gtOf (dieOf c), bits (s.ctx c).trigCtl.toNat 4 8)]) ∧
       (bitAt (s.ctx c).trigCtl 1 = true → d = dieOf c → (t.die d).trigOut = (s.die d).trigOut ++
         (peerLinks s).map fun e => (e.1, e.2, s.gtOf d, acknowledges s e.2))) ∧
     (∀ (org at_ : Word) (id : Byte) (rest : List (Word × Nat × Nat)),
       (s.die d).trigIn = (org, at_.toNat, id.toNat) :: rest → (s.die d).inReset = false →
       (s.gtOf d ≤ at_.toNat + 440 → ∃ t, exec (.triggerReceive d org at_ id) s = .next t ∧
         (t.die d).trigLast = at_ ∧ rest <+: (t.die d).trigIn ∧ (org, at_.toNat, id.toNat) ∈ (t.die d).trigSeen ∧
         (bitAt (s.die d).sbufCtl 2 = true →
           let e := at_.toNat + 1024 * bits (s.die d).sbufCtl.toNat 16 16
           (t.die d).capEnd = some (min e ((s.die d).capEnd.getD e))) ∧
         ∀ k, dieOf k = d → (s.ctx k).resident = true → bitAt (s.ctx k).trigCtl 3 = true → bitAt (s.ctx k).dbgCtl 0 = true →
           (t.ctx k).stopped = true) ∧
       (at_.toNat + 440 < s.gtOf d → ∃ t, exec (.triggerReceive d org at_ id) s = .next t ∧
         (t.die d).trigLast = (s.die d).trigLast ∧ (t.die d).trigIn = rest)) ∧
     (∀ (org at_ : Word) (id : Byte), let seen := (org, at_.toNat, id.toNat)
       seen ∉ (s.die d).trigIn → (s.die d).inReset = false → (s.die d).inService = true →
       (at_.toNat ≤ s.gtOf d + 32 → s.gtOf d ≤ at_.toNat + 2640 → seen ∉ (s.die d).trigSeen →
         ∃ t, exec (.triggerReceive d org at_ id) s = .next t ∧ (t.die d).trigLast = at_ ∧ seen ∈ (t.die d).trigSeen) ∧
       (at_.toNat + 2640 < s.gtOf d ∨ seen ∈ (s.die d).trigSeen → exec (.triggerReceive d org at_ id) s = .next s)) ∧
     ∀ m g acked rest, (s.die d).trigOut = (l.val, m, g, acked) :: rest → g + 4400 < s.gtOf d →
       ∃ t, exec (.triggerAckTimeout d l) s = .next t ∧ (t.die d).trigOut = rest ∧
         (acked = true ∨ acknowledges s m = true → (t.die d).trigStat = (s.die d).trigStat) ∧
         (acked = false → acknowledges s m = false → bits (t.die d).trigStat.toNat 16 5 = l.val ∧
           bits (t.die d).trigStat.toNat 0 16 = min (bits (s.die d).trigStat.toNat 0 16 + 1) 65535)) ∧
  (∀ (s : State) (d : Nat) (v : W32), d < 4 →
     let x := s.die d
     let p := bits x.sbufCtl.toNat 32 5
     (p ≠ 0 → bitAt x.sbufCtl 0 = true → x.inReset = false → x.lastSample + 2 ^ p ≤ s.cycle →
       exec (.counterSample d) s = .next
         ((((FMap.keys s.ctxs).filter fun c => dieOf c == d && (s.ctx c).resident && !(s.ctx c).retired).foldl
           (counterRecord d)) (s.modDie d fun x => { x with lastSample := s.cycle }))) ∧
     (v.toNat % 32 = 0 → v.toNat < x.sbufLen.toNat →
       ∃ t, exec (.sbufRdWrite d v) s = .next t ∧ (t.die d).sbufRd = v ∧ t.ctxs = s.ctxs ∧ t.mem = s.mem)) ∧
  (∀ (s : State) (cl w : Nat) (a who : Word) (at_ : Nat) (rest : List (Nat × Word × Word × Nat)),
     (s.cluster cl).hits = (w, a, who, at_) :: rest → s.cycle - at_ ≤ 256 → w < 4 → cl < 64 →
     let d := cl / 16
     let x := s.die d
     let key := x.sbufBase.toNat % 64
     let slot := x.sbufBase.toNat / 4096 % 2 ^ 40 * 4096 + x.sbufWr.toNat
     ∃ t, exec (.watchHitImprecise cl (s.cycle - at_)) s = .next t ∧ (t.cluster cl).hits = rest ∧
       (bitAt (vget (s.cluster cl).wpCtl w 0) 2 = false → bitAt x.sbufCtl 0 = true → x.capEnd = none →
         x.sbufWr.toNat + 32 ≤ x.sbufLen.toNat →
         (x.sbufWr.toNat + x.sbufLen.toNat - x.sbufRd.toNat) % x.sbufLen.toNat + 64 ≤ x.sbufLen.toNat →
         slot + 32 ≤ hbmEnd →
         readPhys t key slot 32 = leBytes 8 (recHeader s d 1 4).toNat ++ leBytes 8 who.toNat ++ leBytes 8 a.toNat ++
           leBytes 8 (w + (s.cycle - at_) * 2 ^ 32) ∧
         (t.die d).sbufWr.toNat = (x.sbufWr.toNat + 32) % x.sbufLen.toNat))

/-- The recording of a team (spec/14 R321-R324, spec/22 R398-R400). An event of a recorded team makes one sync record of 64 bytes in the
die's region, numbered in SEQ, and adds its bytes, GT, DIE and CLUSTER zero, to the team's hash, the CRC-64 of R323; the event that ends
an interval writes a hash record too, and the hash starts again from 0. A record that would pass REC_LEN, and any after it, is not
written: the event is made, and its team is held with cause 0x44. A CSRR of a register that R321 lists makes its event; in replay it
returns the recorded VALUE, waits for an event of lower SEQ, and where the record has no such event, another kind or another head, the
team is held with cause 0x43, DETAIL 5, 1 or 2, its K lane at the CSRR. An atomic or MONW that has returned another value (DETAIL 4),
an interval hash that differs (DETAIL 8) and a queue that ends with events left (DETAIL 6) hold it too. -/
def Obligations.Recording : Prop :=
  let shift := fun h : Word => if h.getLsbD 63 = true then (h <<< 1) ^^^ 0x42F0E1EBA9EA3693 else h <<< 1
  (∀ (h : Word) (b : Byte) (bs : List Byte),
     crc64 h [] = h ∧ crc64 h (b :: bs) = crc64 ((List.range 8).foldl (fun h _ => shift h) (h ^^^ (b.zeroExtend 64 <<< 56))) bs) ∧
  (∀ (s : State) (c lane kind : Nat) (pos word partner value : Word) (t : Team) (r : RecSt),
     let cl := clusterOf c
     let d := dieOf c
     let x := s.die d
     let key := x.recBase.toNat % 64
     let place := x.recBase.toNat / 4096 % 2 ^ 40 * 4096 + x.recWr.toNat
     let record := fun (gt : Nat) (p q : Word) =>
       leBytes 8 (1 + 1 * 2 + 5 * 2 ^ 4 + gt * 2 ^ 16) ++ leBytes 8 p.toNat ++ leBytes 8 q.toNat ++
         leBytes 8 (t.t % 2 ^ 24 + kind * 2 ^ 24) ++ leBytes 8 0 ++ leBytes 8 r.seq ++ leBytes 8 value.toNat ++ leBytes 8 0
     let blind := fun p : Word => p &&& ~~~0x0FC0000000000000#64
     let hash := crc64 r.hash (record 0 (blind pos) (blind partner))
     let ends : Prop := r.seq % 2 ^ 20 = 2 ^ 20 - 1
     let next : RecSt :=
       { r with
         seq := r.seq + 1
         hash := if ends then 0 else hash
         interval := if ends then r.interval + 1 else r.interval }
     let u := syncWord s c lane pos word partner kind value
     c < 16384 → (s.cluster cl).team = some t → t.recd = some r → r.diverged = false →
     (r.mode = 1 → x.recFull = false → s.mem.wf = true → x.recWr.toNat + (if ends then 96 else 64) ≤ x.recLen.toNat → place + 96 ≤ hbmEnd →
       recOf u cl = some next ∧ (u.die d).recWr.toNat = x.recWr.toNat + (if ends then 96 else 64) ∧
         readPhys u key place 64 = record (s.gtOf d % 2 ^ 48) pos partner ∧
         (ends → readPhys u key (place + 64) 32 =
           leBytes 8 (1 + 6 * 2 ^ 4 + s.gtOf d % 2 ^ 48 * 2 ^ 16) ++ leBytes 8 (t.t % 2 ^ 24) ++ leBytes 8 r.interval ++
             leBytes 8 hash.toNat)) ∧
     (r.mode = 1 → x.recFull = true ∨ x.recLen.toNat < x.recWr.toNat + (if ends then 96 else 64) → stopsFaults (s.ctx c) = false → (s.ctx c).dbgFlt = none →
       recOf u cl = some { next with diverged := true } ∧ (u.die d).recFull = true ∧
         (u.die d).recWr.toNat =
           x.recWr.toNat + (if x.recFull = false ∧ x.recWr.toNat + 64 ≤ x.recLen.toNat then 64 else 0) ∧
         isHeld u cl = true ∧ (u.ctx c).frCause.toNat % 65536 = 0x44) ∧
     (r.mode = 2 → ∀ w, r.events.find? (fun e => sameQueue e.pos pos) = some w →
       let made := setRec s cl (some (matched next pos))
       (kind = 4 ∨ kind = 5 → w.value ≠ value → u = divergeWord made c lane pos word 0x43 4 w.seq w.value) ∧
       ((kind ≠ 4 ∧ kind ≠ 5) ∨ w.value = value →
         (ends → ∀ h, (r.interval, h) ∈ r.hashes → (∀ e ∈ r.hashes, e.1 = r.interval → e.2 = h) → h ≠ hash →
           u = divergeWord made c lane pos word 0x43 8 r.seq h) ∧
         (¬ends ∨ (∀ e ∈ r.hashes, e.1 = r.interval → e.2 = hash) → u = made)))) ∧
  (∀ (s : State) (c : Nat) (g : Guard) (d : XReg) (n : BitVec 12) (r : RecSt),
     let pos := posOf s c .k
     let makes := fun v : Word => .next (syncWord (writesX s c 4 d v) c 0 pos (wordOfPos s c pos) noPos 6 v)
     let parts := fun (detail seq : Nat) (v : Word) => .next (divergeAt s c 0 pos 0x43 detail seq v)
     n.toNat ∈ [0x002, 0x011, 0x012, 0x014, 0x015, 0x016, 0x017, 0x018, 0x020, 0x021, 0x032, 0x618, 0x743, 0x753] →
     KReady s c (.csrr g d n) g [d] → c < 16384 → recOf s (clusterOf c) = some r → r.undone = [] →
     (r.mode = 1 → exec (.csrr g d n) s = makes (csrRead s c n.toNat)) ∧
     (r.mode = 2 → r.diverged = false →
       (r.events.find? (fun e => sameQueue e.pos pos) = none → exec (.csrr g d n) s = parts 5 r.seq 0) ∧
       ∀ e, r.events.find? (fun e => sameQueue e.pos pos) = some e →
         (e.kind ≠ 6 → exec (.csrr g d n) s = parts 1 e.seq e.value) ∧
         (e.kind = 6 → posKey e.pos ≠ posKey pos → exec (.csrr g d n) s = parts 2 e.seq e.value) ∧
         (e.kind = 6 → posKey e.pos = posKey pos →
           (r.seq < e.seq → exec (.csrr g d n) s = .next (blockPartner s c .k)) ∧
             (e.seq ≤ r.seq → exec (.csrr g d n) s = makes e.value)))) ∧
  (∀ (s : State) (c lane cause detail seq : Nat) (pos value : Word) (r : RecSt), c < 16384 → recOf s (clusterOf c) = some r →
     let u := divergeAt s c lane pos cause detail seq value
     recOf u (clusterOf c) = some { r with diverged := true } ∧ (u.ctx c).k.pc = (s.ctx c).k.pc ∧
     (stopsFaults (s.ctx c) = false → (s.ctx c).dbgFlt = none → cause < 256 → cause ≠ 0x0D → detail < 256 →
       isHeld u (clusterOf c) = true ∧ (u.ctx c).frCause.toNat % 65536 = cause + detail * 256 ∧
         (u.ctx c).frAddr = BitVec.ofNat 64 seq ∧ (u.ctx c).frInfo = value) ∧
     (r.mode = 2 → r.diverged = false →
       (r.events.find? (fun e => sameQueue e.pos pos) = none → queueEnds s c lane pos = s) ∧
       ∀ e, r.events.find? (fun e => sameQueue e.pos pos) = some e →
         queueEnds s c lane pos = divergeAt s c lane pos 0x43 6 e.seq e.value))

/-- A write of TLB_INV_CTL with GO captures TLB_INV and MODE; at its end no translation cache of a core or a cluster holds a
matching entry, and GO reads 0 (spec/05 R103). -/
def Obligations.TlbInvalidation : Prop :=
  ∀ (s : State) (d : Nat) (v : W32), d < 4 →
    (bitAt (s.die d).tlbInvCtl 0 = false → v.toNat / 8 = 0 → bits v.toNat 1 2 ≠ 3 → bitAt v 0 = true →
      ∃ t, exec (.tlbInvStart d v) s = .next t ∧ (t.die d).tlbInvCtl = v ∧
        (t.die d).tlbCap = some ((s.die d).tlbInv, bits v.toNat 1 2)) ∧
    ∀ w mode, (s.die d).tlbCap = some (w, mode) → ∃ t, exec (.tlbInvComplete d) s = .next t ∧
      bitAt (t.die d).tlbInvCtl 0 = false ∧ (∀ n, ∀ e ∈ (t.core n).tlb, invalidates w mode e = false) ∧
      ∀ n, ∀ e ∈ (t.cluster n).tlb, invalidates w mode e = false

/-! ## The host -/

/-- A module reset wipes HBM, every SRAM and key slots 1 to 63 and keeps the flash and the life cycle (spec/15 R341); the boot
ROM then loads slot 0 from the fused device key and starts an image that passes the three checks of R337 on D0.SP0, with BOOT 2;
else BOOT is 1 with the code in BERR (spec/22 R413). A write of IMGLEN keeps the length and makes the recovery loader do the same
with an image in host memory, which goes to flash (R338). What the hash, the signature and the layout of the image come to,
where the length of the flash image stands, and the addresses of the copy and of the start are free (logs 11, 12). That a reset
commits the journal first is the model's reading (log 44), and that a wiped byte of HBM reads as 0 is its choice (log 4): R341 says
wiped and gives no value. -/
def Obligations.BootAndRecovery : Prop :=
  ∀ (s : State) (len : Nat),
    let w := afterReset (if s.holdUp = true ∨ s.svc.boot = 3 then s else commitJournal s)
    let u := takeLog (bootRom w)
    let hashOk := fun bs : List Byte => Config.shake256 (Config.imageKey bs) = Config.fusedKeyHash
    let started := fun (t : State) (bs : List Byte) => t.svc.boot = 2 ∧ (t.ctx 16384).resident = true ∧
      (t.ctx 16384).k.pc = Config.firmwareStart 16384 ∧ readPhys t 0 Config.firmwareBase bs.length = bs ∧
      t.svc.image = some (Config.shake256 bs, (Config.imageVersion bs).val)
    let checked := fun (t : State) (bs : List Byte) =>
      (¬ hashOk bs → t.svc.boot = 1 ∧ t.svc.berr = 1) ∧
      (hashOk bs → Config.imageVersion bs < Config.fusedVersion → t.svc.boot = 1 ∧ t.svc.berr = 2) ∧
      (hashOk bs → Config.fusedVersion ≤ Config.imageVersion bs → Config.imageSigned bs = false →
        t.svc.boot = 1 ∧ t.svc.berr = 3)
    let valid := fun bs : List Byte => hashOk bs ∧ Config.fusedVersion ≤ Config.imageVersion bs ∧ Config.imageSigned bs = true
    (exec .moduleReset s = .next u ∧
      (∀ a, a < hbmEnd → w.memByte a = 0) ∧ (∀ a, hbmEnd ≤ a → w.memByte a = s.memByte a) ∧ w.ctxs = [] ∧ w.cores = [] ∧
      w.clusters = [] ∧ (∀ k : Fin 64, k ≠ 0 → u.keys[k].loaded = false) ∧
      u.keys[(0 : Fin 64)].key = some Config.deviceKey ∧
      (s.flash.wf = true → ∀ a, a < journalBase → u.flash.byte a = s.flash.byte a) ∧ u.life = s.life ∧ u.dies = State.reset.dies ∧ u.holdUp = false) ∧
    (let n := imageBytes w
     let bs := flashRead w 0 n
     (Config.flashReads w.fresh = false → u.svc.boot = 1 ∧ u.svc.berr = 5) ∧
     (Config.flashReads w.fresh = true → n = 0 ∨ imageMax < n → u.svc.boot = 1 ∧ u.svc.berr = 4) ∧
     (Config.flashReads w.fresh = true → 0 < n → n ≤ imageMax →
       (s.flashBad = true → u.svc.boot = 1 ∧ 1 ≤ u.svc.berr ∧ u.svc.berr ≤ 3) ∧
       (s.flashBad = false → checked u bs ∧
         (valid bs → started u bs ∧ ∀ c, c ≠ 16384 → (u.ctx c).resident = false)))) ∧
    (len < 2 ^ 26 → ∃ t, exec (.recoveryImageLoad len) s = .next t ∧ t.svc.imglen.toNat = len ∧
      let bs := s.mem.load (hostBase + s.svc.img.toNat) len
      (s.svc.boot ≠ 1 → t = { s with svc := { s.svc with imglen := t.svc.imglen } }) ∧
      (s.svc.boot = 1 → len = 0 ∨ imageMax < len → t.svc.boot = 1 ∧ t.svc.berr = 4 ∧ t.flash = s.flash) ∧
      (s.svc.boot = 1 → 0 < len → len ≤ imageMax →
        (Config.hostReads s.fresh = false → t.svc.boot = 1 ∧ t.svc.berr = 6 ∧ t.flash = s.flash) ∧
        (Config.hostReads s.fresh = true → checked t bs ∧ (¬ valid bs → t.flash = s.flash) ∧
          (valid bs → started t bs ∧
            (Config.flashWrites s.fresh = true → t.svc.berr = s.svc.berr ∧ flashRead t 0 len = bs ∧ t.flashBad = false) ∧
            (Config.flashWrites s.fresh = false → t.svc.berr = 7 ∧ t.flash = s.flash ∧ t.flashBad = true)))))

/-- The journal (spec/15 R331-R336, spec/22 R411, R412). JEN starts it. The record of SEQ NEXT is refused with reason 0x14
where its CRC fails, 0x15 where a reserved field is set and 0x0C where its header fails a check, or else accepted, with STATE 1,
or 5 without protection; an accepted record is launched when SERIAL allows it, and NEXT moves on once every home die's queue has
taken it; a record that has its final status already is passed over (the model's reading, log 58). After a power loss an idempotent record of the log is launched again and every other is FAILED with reason 0x45. What
counts as a reserved field of ROOT is the model's reading (log 45).

A root launch all of whose teams have ended is reported once: COMPLETED after the earlier accepted records of its stream,
or FAILED with the cause that ended it; its record leaves the journal (spec/03 R51, spec/15 R335, R336, spec/20 R362). While D0 is
in reset, whose supervisor context runs the program, nothing is reported (spec/22 R406). -/
def Obligations.JournalRecords : Prop :=
  (∀ (s s' : State) (h : BitVec 512) (e : JRec),
     let v := s.svc
     let n := v.next.toNat
     let r := BitVec.ofNat 512 (leNat (readPhys s 0 (recAddr v n) 64))
     let status := fun (t : State) (n state reason : Nat) =>
       leNat (readPhys t 0 (statusAddr v n) 8) = n % 2 ^ 48 + state * 2 ^ 48 + reason * 2 ^ 56
     let refused := fun reason : Nat => ∃ t, exec .journalRecord s = .next t ∧ status t n 2 reason ∧
       t.svc.next = BitVec.ofNat 64 (n + 1) ∧ t.svc.mirror = v.mirror ∧ t.launches = s.launches
     exec .journalEnable s = .next { s with svc := { v with jen := true } } ∧
     (serves s = true → toLaunch s = none → toRecover s = none → recSeq r = n → hasFinal s n = true →
       exec .journalRecord s = .next { s with svc := { v with next := BitVec.ofNat 64 (n + 1) } }) ∧
     (serves s = true → toLaunch s = none → toRecover s = none → recSeq r = n → hasFinal s n = false → v.mirror.length < 4096 →
       (recCrcOk r = false → refused 0x14) ∧
       (recCrcOk r = true → recReserved r = true → refused 0x15) ∧
       (recCrcOk r = true → recReserved r = false →
         (∀ d, readRecHeader s r = .refused d → refused 0x0C) ∧
         (∀ f u, f.cause < 256 → readRecHeader s r = .flt u f → refused f.cause) ∧
         (readRecHeader s r = .ok s' h → s'.svc = v →
           let st := if (Header.ofBits h.toNat).idem ∨ (Header.ofBits h.toNat).preempt then 1 else 5
           ∃ t, exec .journalRecord s = .next t ∧ status t n st 0 ∧ t.svc.mirror = v.mirror ++ [⟨n, r, st, none⟩] ∧
             t.svc.next = v.next))) ∧
     (serves s = true → toLaunch s = some e → pendingLaunch s svcCtx (recKey e.seq) = none →
       (recSerial e.rec_ = true → streamBusy s e.seq e.rec_ = true → exec .journalRecord s = .next s) ∧
       (recSerial e.rec_ = false ∨ streamBusy s e.seq e.rec_ = false → readRecHeader s e.rec_ = .ok s' h → s'.svc = v →
         let l := mkLaunch s' h (recHdr e.rec_) (recArg e.rec_) (recRoot e.rec_) 0 (recQueue e.rec_) none
         let u := startLaunch s' svcCtx (recKey e.seq) l
         shareRefused s' l = false → n ≤ e.seq →
         ∃ t, exec .journalRecord s = .next t ∧ t.nextLaunch = s'.nextLaunch + 1 ∧ t.dies = u.dies ∧
           (pendingLaunch u svcCtx (recKey e.seq) = none → t.svc.next = BitVec.ofNat 64 (e.seq + 1)) ∧
           (pendingLaunch u svcCtx (recKey e.seq) ≠ none → t.svc.next = v.next) ∧
           ∀ k ∈ t.svc.mirror, k.seq = e.seq → k.launch = some s'.nextLaunch)) ∧
     (∀ p, serves s = true → toLaunch s = none → toRecover s = some p → readRecHeader s p = .ok s' h →
       let m := recSeq p
       ∃ t, exec .journalRecord s = .next t ∧ t.svc.next = BitVec.ofNat 64 (m + 1) ∧
         ((Header.ofBits h.toNat).idem = true → t.svc.mirror = v.mirror ++ [⟨m, p, 1, none⟩]) ∧
         ((Header.ofBits h.toNat).idem = false → status t m 4 0x45 ∧ ∀ k ∈ t.svc.logged, recSeq k.1 ≠ m))) ∧
  (∀ (s : State) (n : Nat) (e : JRec), (s.launch n).root = n → (s.launch n).reported = false → rootOver s n = true →
     s.holdUp = false → s.svc.boot ≠ 3 → (s.svc.mirror.find? fun e => e.launch == some n) = some e →
     ((s.die 0).inReset = true → exec (.rootLaunchComplete n) s = .next s) ∧ ((s.die 0).inReset = false →
     let reported := fun (state reason : Nat) => ∃ t, exec (.rootLaunchComplete n) s = .next t ∧
       leNat (readPhys t 0 (statusAddr s.svc e.seq) 8) = e.seq % 2 ^ 48 + state * 2 ^ 48 + reason * 2 ^ 56 ∧
       (t.launch n).reported = true ∧ t.svc.mirror = s.svc.mirror.filter fun k => k.seq ≠ e.seq
     ((s.launch n).failed = none → streamBusy s e.seq e.rec_ = false → reported 3 0) ∧
     ((s.launch n).failed = none → streamBusy s e.seq e.rec_ = true → exec (.rootLaunchComplete n) s = .next s) ∧
     ∀ cause, cause ≠ 0 → cause < 256 → (s.launch n).failed = some cause → reported 4 cause))

/-- A key request over IDE whose key unwraps loads a slot from 1 to 63 with it, and nothing else differs (spec/15 R339); slot 0 is
never loaded by one. An attestation report holds the nonce, the running image's measurement and version, the life-cycle state, the
mask of loaded slots and the signature, and stands in the mailbox (R340). A life-cycle change goes forward only, wipes HBM, the
SRAMs and slots 1 to 63, and erases the flash journal region (R341). IDE stays enabled once it is (R329). What a wrapped key
holds, the signature and the layout of the report's bytes are free (log 12).

At a hold-up event placement stops and the log is erased; then each accepted record that is not done is written to the flash log,
one after the other in SEQ order (spec/15 R342, spec/22 R411). When the hold-up ends, HBM, the SRAMs and slots 1 to 63 are lost
and the flash stays. That a hold-up first erases the log region, and that one step writes one entry, is the model's reading (log 44);
that a wiped byte of HBM reads as 0 is its choice (log 4). -/
def Obligations.KeysAndPower : Prop :=
  (∀ (s : State) (slot : Fin 64) (blob : Nat) (nonce : BitVec 256),
     (s.svc.boot = 2 → s.svc.ide = true → slot ≠ 0 →
       (∀ k, Config.unwrapKey slot.val blob = some k →
         exec (.keyRequest slot blob) s = .next { s with keys := s.keys.set slot ⟨some k⟩ }) ∧
       (Config.unwrapKey slot.val blob = none → exec (.keyRequest slot blob) s = .next s)) ∧
     exec (.keyRequest 0 blob) s = .next s ∧ (s.svc.ide = false → exec (.keyRequest slot blob) s = .next s) ∧
     (∀ m ver, s.svc.boot = 2 → s.svc.image = some (m, ver) →
       let sig := Config.attestationSign nonce m ver s.life.num (keyMask s)
       exec (.attestationRequest nonce) s = .next { s with svc := { s.svc with
         report := some ⟨nonce, m, ver, s.life.num, keyMask s, sig⟩
         req := s.svc.req.store 0 ((Config.reportBytes nonce m ver s.life.num (keyMask s) sig).take 512) } } ∧
       ∀ k : Fin 64, bitAt (keyMask s) k.val = s.keys[k].loaded) ∧
     exec .ideEnable s = .next { s with svc := { s.svc with ide := true } } ∧
     (s.life = .decommissioned → exec .lifeCycleChange s = .next s) ∧
     (s.life ≠ .decommissioned → ∃ t, exec .lifeCycleChange s = .next t ∧
       t.life = (if s.life = .manufacture then .production else .decommissioned) ∧
       (∀ a, a < hbmEnd → t.memByte a = 0) ∧ (∀ k a, t.cmemByte k a = 0) ∧ (∀ k a, t.scratchByte k a = 0) ∧
       (∀ k : Fin 64, k ≠ 0 → t.keys[k].loaded = false) ∧ t.svc.mirror = [] ∧
       (∀ a, journalBase ≤ a → a < 2 * journalBase → flashRead t a 1 = [0xFF]) ∧
       ∀ a, a < journalBase → t.flash.byte a = s.flash.byte a)) ∧
  (∀ (s : State),
     (s.holdUp = false → s.svc.boot ≠ 3 → ∃ t, exec .holdUp s = .next t ∧ t.holdUp = true ∧ t.mem = s.mem ∧
       t.svc.commit = openRecords s ∧ t.svc.commitAt = 0 ∧ t.svc.mirror = s.svc.mirror ∧ (∀ d, placing t d = false) ∧
       ∀ a, journalBase ≤ a → a < 2 * journalBase → flashRead t a 1 = [0xFF]) ∧
     (s.svc.logged = [] → (openRecords s).Pairwise (fun x y => x.seq ≤ y.seq) ∧
       ∀ r, r ∈ openRecords s ↔ r ∈ s.svc.mirror ∧ (r.state = 1 ∨ r.state = 5)) ∧
     (∀ r rest, s.holdUp = true → s.svc.boot ≠ 3 → s.flash.wf = true → s.svc.commit = r :: rest →
       ∃ t, exec .holdUp s = .next t ∧ t.svc.commit = rest ∧ t.svc.commitAt = s.svc.commitAt + 1 ∧
         flashRead t (journalBase + 128 * s.svc.commitAt) 128 = logEntry r.rec_ r.state ∧
         ∀ k, k < s.svc.commitAt → flashRead t (journalBase + 128 * k) 128 = flashRead s (journalBase + 128 * k) 128) ∧
     (s.holdUp = true → ∃ t, exec .holdUpEnd s = .next t ∧ t.flash = s.flash ∧ t.life = s.life ∧ t.svc.boot = 0 ∧
       (∀ a, a < hbmEnd → t.memByte a = 0) ∧ (∀ k : Fin 64, k ≠ 0 → t.keys[k].loaded = false) ∧
       t.ctxs = [] ∧ t.cores = [] ∧ t.clusters = []))

/-- Accesses from outside: the host reads and writes the mailbox, and HBM under key slot 1 (spec/15 R330, R331); a peer
accesses HBM over a trained link under the key slot that it names (R328); with IDE enabled a host access outside its stream,
and with the module stopped any, is refused (R329, spec/22 R414): it is answered nothing, which is the model's reading (log 46).
The mailbox has R331's layout: BOOT, BERR, JBASE, NREC, SBASE, JEN, NEXT, IMG, IMGLEN, the request bytes, and zero elsewhere; a write
reaches the fields that may be written and nothing else, and JBASE, NREC and SBASE stay once JEN is set. The base die performs the
atomics of the host (R330) and of peers: the old value is answered and the new one written. That the host's are those that PCIe has,
an add, a swap and a CAS, of 4 or 8 aligned bytes, and that any other is refused, is log 46 too. -/
def Obligations.OutsideAccesses : Prop :=
  ∀ (s : State) (a : Nat) (n : Fin 9) (key : Fin 64) (v : Word) (ide mb : Bool) (op : HostOp),
    let acc := fun (op : HostOp) (mb : Bool) => (⟨op, mb, a, n, key, ide⟩ : HostAcc)
    let answered := fun (r : Option Word) => { s with svc := { s.svc with reply := r } }
    let served := fun (i : HostOp → Instr) (k : Fin 64) =>
      n ≠ 0 → a + n.val ≤ hbmEnd → inPool s a n.val = false → s.keys[k].loaded = true → stackState s a = 0 →
      (marked s.poisoned 64 a n.val = false →
        exec (i .read) s = .next (answered (some (BitVec.ofNat 64 (leNat (readPhys s k.val a n.val)))))) ∧
      ∃ t, exec (i (.write v)) s = .next t ∧ readPhys t k.val a n.val = leBytes n.val v.toNat ∧ t.svc.reply = none ∧
        ∀ c, (t.ctx c).x = (s.ctx c).x
    (s.svc.boot ≠ 3 → (s.svc.ide = false ∨ ide = true) →
      exec (.hostAccess (acc .read true)) s = .next (answered (some (BitVec.ofNat 64 (mbRead s.svc a n.val)))) ∧
      exec (.hostAccess (acc (.write v) true)) s = .next (answer (mbWrite s a n.val v) none) ∧
      (s.svc.jen = true → (mbWrite s a n.val v).svc.jbase = s.svc.jbase ∧ (mbWrite s a n.val v).svc.nrec = s.svc.nrec ∧
        (mbWrite s a n.val v).svc.sbase = s.svc.sbase) ∧
      served (fun op => .hostAccess (acc op false)) 1) ∧
    (let word := fun r : Nat => mbRead s.svc r 8
     let written := fun r : Nat => mbWrite s r 8 v
     let svc := fun x : Svc => { s with svc := x }
     let free := !s.svc.jen
     word 0x000 = s.svc.boot % 4 + s.svc.berr % 256 * 2 ^ 8 ∧ word 0x008 = s.svc.jbase.toNat ∧ word 0x010 = s.svc.nrec.toNat ∧
     word 0x018 = s.svc.sbase.toNat ∧ word 0x020 = (if s.svc.jen then 1 else 0) ∧ word 0x028 = s.svc.next.toNat ∧
     word 0x100 = s.svc.img.toNat ∧ word 0x108 = s.svc.imglen.toNat ∧
     (∀ r, r % 8 = 0 → r < 0x200 ∨ 0x400 ≤ r → r ∉ [0x000, 0x008, 0x010, 0x018, 0x020, 0x028, 0x100, 0x108] →
       word r = 0 ∧ written r = s) ∧
     (∀ r, r % 8 = 0 → ∀ k, k < 8 → mbRead s.svc (r + k) 1 = word r / 2 ^ (8 * k) % 256) ∧
     written 0x000 = s ∧ written 0x028 = s ∧
     written 0x008 = svc { s.svc with jbase := if free then v.extractLsb' 0 40 else s.svc.jbase } ∧
     written 0x010 = svc { s.svc with nrec := if free then v.extractLsb' 0 18 else s.svc.nrec } ∧
     written 0x018 = svc { s.svc with sbase := if free then v.extractLsb' 0 40 else s.svc.sbase } ∧
     written 0x020 = svc { s.svc with jen := s.svc.jen || v.getLsbD 0 } ∧
     written 0x100 = svc { s.svc with img := v.extractLsb' 0 40 } ∧
     written 0x108 = recoveryLoad (svc { s.svc with imglen := v.extractLsb' 0 26 }) ∧
     (s.svc.boot ≠ 1 → written 0x108 = svc { s.svc with imglen := v.extractLsb' 0 26 }) ∧
     (s.svc.req.wf = true → 0x200 ≤ a → a + n.val ≤ 0x400 →
       (∀ k, k < n.val → mbRead (mbWrite s a n.val v).svc (a + k) 1 = v.toNat / 2 ^ (8 * k) % 256) ∧
       mbWrite s a n.val v = svc { s.svc with req := (mbWrite s a n.val v).svc.req } ∧
       ∀ k, k < a ∨ a + n.val ≤ k → mbRead (mbWrite s a n.val v).svc k 1 = mbRead s.svc k 1)) ∧
    (let w := 8 * n.val
     ∀ (f : Fin 9) (x : Word) (i : HostOp → Instr) (k : Fin 64),
       let old := BitVec.ofNat w (leNat (readPhys s k.val a n.val))
       let b := v.truncate w
       let result := if f = 0 then old + b else if f = 1 then old &&& b else if f = 2 then old ||| b else if f = 3 then old ^^^ b
         else if f = 4 then (if old.slt b then old else b) else if f = 5 then (if old.slt b then b else old)
         else if f = 6 then (if old.ult b then old else b) else if f = 7 then (if old.ult b then b else old) else b
       let host := s.svc.boot ≠ 3 ∧ (s.svc.ide = false ∨ ide = true) ∧ i = (fun op => Instr.hostAccess (acc op false)) ∧ k = 1
       let peer := s.svc.boot ≠ 3 ∧ (∃ l : Fin 32, s.links[l].trained = true) ∧ i = (fun op => Instr.peerAccess (acc op false)) ∧ k = key
       let makes := fun (op : HostOp) (r : BitVec w) => ∃ t, exec (i op) s = .next t ∧ readPhys t k.val a n.val = leBytes n.val r.toNat ∧
         t.svc.reply = some (old.zeroExtend 64) ∧ ∀ c, (t.ctx c).x = (s.ctx c).x
       n = 4 ∨ n = 8 → a + n.val ≤ hbmEnd → inPool s a n.val = false → s.keys[k].loaded = true → stackState s a = 0 →
       (a % n.val = 0 → marked s.poisoned 64 a n.val = false →
         (host ∧ (f = 0 ∨ f = 8) ∨ peer → makes (.atomic f v) result) ∧
         (host ∨ peer → makes (.cas x v) (if old = x.truncate w then b else old)) ∧
         (host → f ≠ 0 → f ≠ 8 → exec (i (.atomic f v)) s = .next (answered none))) ∧
       (a % n.val ≠ 0 → host ∨ peer →
         exec (i (.atomic f v)) s = .next (answered none) ∧ exec (i (.cas x v)) s = .next (answered none))) ∧
    (s.svc.boot = 3 ∨ s.svc.ide = true ∧ ide = false →
      exec (.hostAccess (acc op mb)) s = .next (answered none)) ∧
    (s.svc.boot ≠ 3 → (∃ l : Fin 32, s.links[l].trained = true) → served (fun op => .peerAccess (acc op false)) key) ∧
    (s.svc.boot = 3 → exec (.peerAccess (acc op mb)) s = .next s)

/-! ## Faults of the device -/

/-- A watchdog expiry and a fabric error reset a die (spec/22 R406): its contexts, scratchpads and cluster memories are gone,
its teams are lost, its queues and pre-empted teams go to the next die in service (R407) or, with none, wait on it, of the
host-service program's context the LAUNCH under way stays (the model's readings, log 58), and HBM, the key slots, the flash and
every other die's contexts stay. A die comes back with its GT in agreement (R406), for which the model takes the offset of die d + 1
modulo 4 (its choice, log 3), and its supervisor cores started (log 11); an
accepted launch that lost a team is run again from its record where it is idempotent, the team resumes from its last save or starts
again where it is pre-emptible, and else it is FAILED with 0x40, with every launch that belongs to it (R408). A die that is in reset for a second is a
fatal error with code 0x83 (R414). That a wiped byte of HBM reads as 0 is the model's choice (log 4). -/
def Obligations.DieResets : Prop :=
  ∀ (s : State) (d : Fin 4),
    (s.dies[d].inReset = false → s.svc.boot ≠ 3 → ∀ i ∈ [Instr.dieWatchdogExpiry d.val, .dieFabricError d.val],
      ∃ t, exec i s = .next t ∧ t.dies[d].inReset = true ∧ t.dies[d].resetAt = s.gt ∧
        t.dies[d].lost = s.dies[d].lost ++ (teamsOn s d.val).map (fun m => (m.launch, m.t)) ∧
        (∀ e : Fin 4, heir s d.val = some e.val → t.dies[d].resumed = [] ∧ ∀ q : Fin 16, t.dies[d].q[q].ents = []) ∧
        (heir s d.val = none → t.dies[d].resumed = s.dies[d].resumed ∧
          ∀ q : Fin 16, t.dies[d].q[q].ents = s.dies[d].q[q].ents) ∧
        (∀ e : Fin 4, heir s d.val = some e.val → ∀ q : Fin 16,
          t.dies[e].q[q].ents = s.dies[e].q[q].ents ++ s.dies[d].q[q].ents ∧ t.dies[e].q[q].pass = s.dies[e].q[q].pass ∧
          t.dies[e].resumed = s.dies[e].resumed ++ s.dies[d].resumed) ∧
        (∀ c, dieOf c = d.val →
          t.ctx c = { Ctx.init with launching := if c = svcCtx then (s.ctx c).launching else [] }) ∧ (∀ c, dieOf c ≠ d.val → t.ctx c = s.ctx c) ∧
        (∀ k a, k / 16 = d.val → t.cmemByte k a = 0) ∧ (∀ k a, k / 1024 = d.val → t.scratchByte k a = 0) ∧
        t.mem = s.mem ∧ t.keys = s.keys ∧ t.flash = s.flash) ∧
    (s.dies[d].inReset = true → s.svc.boot ≠ 3 → s.dies[d].lost = [] →
      ∃ t, exec (.dieReturn d.val) s = .next t ∧ t.dies[d].inReset = false ∧
        t.dies[d].gtOff = (s.die ((d.val + 1) % 4)).gtOff ∧
        ∀ n : Fin 4, (t.ctx (16384 + 4 * d.val + n.val)).resident = true ∧
          (t.ctx (16384 + 4 * d.val + n.val)).k.pc = Config.firmwareStart (16384 + 4 * d.val + n.val)) ∧
    (∀ n m, s.dies[d].inReset = true → s.svc.boot ≠ 3 → s.dies[d].lost = [(n, m)] →
      let l := s.launch n
      let root := s.launch l.root
      (root.failed.isSome = true → ∃ t, exec (.dieReturn d.val) s = .next t ∧ (t.launch l.root).failed = root.failed) ∧
      (root.failed = none → l.bars = [] → ∃ t, exec (.dieReturn d.val) s = .next t ∧ t.dies[d].lost = [] ∧
        (root.header.idem = true → (t.launch l.root).failed = some replayMark) ∧
        (root.header.idem = false → root.header.preempt = true →
          (∀ v, lastSave s n m = some v → t.dies[d].resumed = s.dies[d].resumed ++ [{ v with until_ := none }]) ∧
          (lastSave s n m = none → ∀ q : Fin 16, l.queue = q.val →
            t.dies[d].q[q].ents = s.dies[d].q[q].ents ++ [⟨n, m, 1⟩])) ∧
        (root.header.idem = false → root.header.preempt = false →
          ∀ k ∈ ofRoot s l.root, (t.launch k).failed = some ((s.launch k).failed.getD 0x40) ∧
            ∀ j : Fin 4, ∀ q : Fin 16, ∀ x ∈ t.dies[j].q[q].ents, x.launch ≠ k))) ∧
    (s.svc.boot ≠ 3 → s.dies[d].inReset = true → s.dies[d].resetAt + 1100000000 ≤ s.gt →
      ∃ t, exec (.dieResetTimeout d.val) s = .next t ∧ t.svc.boot = 3 ∧ t.svc.berr = 0x83 ∧
        (∀ a, a < hbmEnd → t.memByte a = 0) ∧ t.ctxs = [] ∧ ∀ k : Fin 64, k ≠ 0 → t.keys[k].loaded = false) ∧
    (s.dies[d].inReset = false → exec (.dieResetTimeout d.val) s = .next s)

/-- A stack that faults retrains while accesses wait, and then goes on with one message of cause 0x41, DETAIL 1, or goes out of
service with DETAIL 2, and the launches with an access pending there fail with 0x41 (spec/22 R409); the ring that takes the message
is the model's choice (log 27). A link that goes down is no longer trained, and one that is trained reaches its peer again; a peer
that no trained link has reached for 1,100,000 ticks, or that its switch removes, has no route (R410).

A corrected error is counted in MERR_CNT, noted in MERR_LAST and invisible in every other way (spec/21 R392, R394); scrubbing
changes nothing. An error that cannot be corrected is counted as such and marks the block of HBM, the word of an SRAM or the entry
that it hit, or holds the team of a register's context with cause 0x2F (R393); one in the firmware's HBM, in the key slots or in a
supervisor core of D0 is fatal with 0x81 (R414). Where the firmware lies is free (log 11). -/
def Obligations.StacksLinksErrors : Prop :=
  (∀ (s : State) (k : Fin 8) (l : Fin 32) (m own : Nat),
     let told := fun (t : State) (detail : Nat) => ∃ x, (t.die (k.val / 2)).msgs = (s.die (k.val / 2)).msgs ++ [x] ∧
       x.cause.toNat % 65536 = 0x41 + detail * 256
     let gone := { s with hbmStacks := s.hbmStacks.set k .out }
     let down := { s with links := s.links.set l { s.links[l] with trained := false, since := s.gt } }
     let peer := s.links[l].peer
     (s.hbmStacks[k] = .up → exec (.stackFault k) s = .next { s with hbmStacks := s.hbmStacks.set k .retraining }) ∧
     (s.hbmStacks[k] = .retraining → ∃ t, exec (.stackRetrained k) s = .next t ∧ t.hbmStacks = s.hbmStacks.set k .up ∧ told t 1 ∧
       t.mem = s.mem ∧ t.ctxs = s.ctxs) ∧
     (s.hbmStacks[k] = .retraining → ∃ t, exec (.stackOutOfService k) s = .next t ∧ t.hbmStacks = s.hbmStacks.set k .out ∧
       (launchesPending gone = [] → told t 2 ∧ t.launches = s.launches) ∧
       ∀ n ∈ launchesPending gone, (t.launch n).failed = some ((s.launch n).failed.getD 0x41)) ∧
     (s.links[l].trained = true → ∃ t, exec (.linkDown l) s = .next t ∧ t.links = down.links ∧ t.modId = s.modId ∧
       (reaches down peer = true → t.unreached = s.unreached.filter (fun e => e.1 != peer) ∧ peer ∉ t.noRoute) ∧
       (reaches down peer = false → peer < 4096 → (∀ e ∈ s.unreached, e.1 ≠ peer) →
         t.unreached = s.unreached ++ [(peer, s.gt)] ∧ t.noRoute = s.noRoute)) ∧
     (m < 4096 → own < 4096 → m ≠ own → ∃ t, exec (.linkTrained l m own) s = .next t ∧ t.modId = own ∧ reaches t m = true ∧
       (∀ j, j ≠ l → t.links[j] = s.links[j]) ∧ m ∉ t.noRoute ∧ m ∉ t.removed ∧ ∀ e ∈ t.unreached, e.1 ≠ m) ∧
     (let timesOut := ∃ t, exec (.noRouteTimeout m) s = .next t ∧ m ∈ t.noRoute ∧ ∀ p, p ≠ m → (p ∈ t.noRoute ↔ p ∈ s.noRoute)
      reaches s m = false →
       (∀ g, (s.unreached.find? fun e => e.1 == m) = some (m, g) →
         (g + 1100000 ≤ s.gt → timesOut) ∧ (s.gt < g + 1100000 → exec (.noRouteTimeout m) s = .next s)) ∧
       ((∀ e ∈ s.unreached, e.1 ≠ m) → 1100000 ≤ s.gt → timesOut)) ∧
     ∃ t, exec (.peerRemoved m) s = .next t ∧ m ∈ t.removed ∧ ∀ p, p ≠ m → (p ∈ t.removed ↔ p ∈ s.removed)) ∧
  (∀ (s : State) (b c id off : Nat) (tm : Team),
     let fatalOf := fun e : MemErr => ∃ t, exec (.memoryError e) s = .next t ∧ t.svc.boot = 3 ∧ t.svc.berr = 0x81
     (∀ e ∈ [(MemErr.hbm false b, 64 * b / 2 ^ 37, 0), (.till false c id off, dieOf c, 32),
         (.image false c id, if inBedrock s c id then imageBlock s c / 2 ^ 37 else dieOf c, if inBedrock s c id then 0 else 16), (.scratch false b off, b / 1024, 16),
         (.cmem false b off, b / 16, 16), (.kiln false b off, b / 16, 16), (.reg false c off, dieOf c, 16)], e.2.1 < 4 →
       let d := e.2.1
       ∃ t, exec (.memoryError e.1) s = .next t ∧ t = { s with dies := t.dies } ∧ (∀ j, j ≠ d → t.die j = s.die j) ∧
         t.die d = { s.die d with merrCnt := (t.die d).merrCnt, merrLast := (t.die d).merrLast } ∧
         bits (t.die d).merrCnt.toNat e.2.2 16 = min (bits (s.die d).merrCnt.toNat e.2.2 16 + 1) 65535 ∧
         bitAt (t.die d).merrLast 60 = false) ∧
     exec (.memoryError (.keys false)) s = .next s ∧ exec (.hbmScrub b) s = .next s ∧
     (64 * b < hbmEnd → inFirmware b = false → ∃ t, exec (.memoryError (.hbm true b)) s = .next t ∧ b ∈ t.poisoned ∧
       (∀ k, k ≠ b → (k ∈ t.poisoned ↔ k ∈ s.poisoned)) ∧ t.mem = s.mem ∧
       bits (t.die (64 * b / 2 ^ 37)).merrCnt.toNat 48 16 = min (bits (s.die (64 * b / 2 ^ 37)).merrCnt.toNat 48 16 + 1) 65535 ∧
       bits (t.die (64 * b / 2 ^ 37)).merrLast.toNat 0 52 = 64 * b ∧ bitAt (t.die (64 * b / 2 ^ 37)).merrLast 60 = true) ∧
     (64 * b < hbmEnd → inFirmware b = true → fatalOf (.hbm true b)) ∧ fatalOf (.keys true) ∧
     (∀ e ∈ [MemErr.till true c id off, .image true c id], ∃ t, exec (.memoryError e) s = .next t ∧
       ∀ x ∈ (t.ctx c).stack, x.id = id → x.damaged = true) ∧
     (∃ t, exec (.memoryError (.scratch true b off)) s = .next t ∧ off / 8 ∈ (t.core b).scratchBad) ∧
     (∃ t, exec (.memoryError (.cmem true b off)) s = .next t ∧ off / 8 ∈ (t.cluster b).cmemBad) ∧
     (∃ t, exec (.memoryError (.kiln true b off)) s = .next t ∧ off / 8 ∈ (t.cluster b).imemBad) ∧
     (isSup c = true → dieOf c = 0 → fatalOf (.reg true c off)) ∧
     (isSup c = true → dieOf c ≠ 0 → (s.die (dieOf c)).inReset = false → s.svc.boot ≠ 3 →
       ∃ t, exec (.memoryError (.reg true c off)) s = .next t ∧ (t.die (dieOf c)).inReset = true) ∧
     (isSup c = false → (s.ctx c).resident = true → (s.ctx c).retired = false → stopsFaults (s.ctx c) = false →
       (s.ctx c).dbgFlt = none → (s.cluster (clusterOf c)).team = some tm →
       ∃ t, exec (.memoryError (.reg true c off)) s = .next t ∧ isHeld t (clusterOf c) = true ∧
         (t.ctx c).frCause.toNat % 65536 = 0x2F + 80 * 256))

/-! ## Encoding, the step, the invariant -/

/-- Decoding undoes encoding: for every well-formed instruction that has an encoding, in the unit whose map holds it, with
every operand at every value that the encoding admits (spec/08 R153-R166, spec/13 R293, R294). An instruction of the common
block without a guard is read alike by every lane that R162 lists for it. -/
def Obligations.DecodeUndoesEncode : Prop :=
  ∀ (i : Instr) (w : Nat) (rest : List Nat), i.wf = true → encode i = w :: rest →
    w < 2 ^ 32 ∧ rest.length ≤ 1 ∧ (∀ l ∈ rest, l < 2 ^ 32) ∧ decode i.homeUnit w (rest.headD 0) = some i ∧
      (i.homeUnit = .lane .k → (hasLiteral w = true ↔ rest ≠ [])) ∧
      ∀ (ln : Lane), ln ≠ .k → i.unguarded = true → inEveryLane i = true → decode (.lane ln) w 0 = some i

/-- Words written out from the encoding tables of spec/08 (R155-R164) and spec/13 (R293, R294) decode to what they stand for;
the word of all ones is an instruction of no unit, and a guard of `!p0` is none. -/
def Obligations.DecodeWords : Prop :=
  decode (.lane .k) 0x242146FF 0 = some (.addi ⟨false, 2⟩ 5 6 0xFF) ∧
  decode (.lane .k) 0x1000420D 0 = some (.add Guard.always 1 2 3 1) ∧
  decode (.lane .k) 0x3630C414 0 = some (.pand ⟨false, 3⟩ 3 4 5) ∧
  decode (.lane .k) 0x030FFFFE 0 = some (.br Guard.always 0xFFFFE) ∧
  decode (.lane .k) 0x2B01C000 0x12345678 = some (.li Guard.always 7 0x12345678) ∧
  decode (.lane .k) 0x7500423C 0 = some (.ldaSys Guard.always 1 2 3 3) ∧
  decode (.lane .k) 0x8000420D 0x2003 = some (.aadd Guard.always 1 2 3 0 3 1 2) ∧
  decode (.lane .k) 0x8900420C 0x4103 = some (.cas Guard.always 1 2 3 4 0 3 0 4) ∧
  decode (.lane .k) 0x9001420C 0 = some (.launch Guard.always 5 2 3) ∧
  decode (.lane .k) 0xA0017C89 0 = some (.cpy Guard.always 5 15 2 9) ∧
  decode (.lane .c) 0x20022000 0 = some (.tmma ⟨false, 0, false⟩ ⟨true, 1, false⟩ 0 ⟨0, 0⟩) ∧
  decode (.lane .c) 0x30080029 0 = some (.tadd ⟨false, 1, false⟩ ⟨false, 0, false⟩ .fp32 ⟨1, 2⟩ 1) ∧
  decode (.lane .c) 0x61080300 0 = some (.tcvt .bf16 ⟨false, 1, false⟩ ⟨false, 0, false⟩ .e4m3 ⟨0, 0⟩ 0) ∧
  decode (.lane .l) 0x10300C80 0 = some (.read 3 12 ⟨4, 0⟩ 0) ∧
  decode (.lane .s) 0x10300C80 0 = some (.write 3 12 ⟨4, 0⟩ 0) ∧
  decode .kiln 0x04120FFF 0 = some (.xaddi 1 2 0xFFF) ∧ decode .kiln 0x08342000 0 = some (.xmoveB16 3 4) ∧
  (∀ ln : Lane, decode (.lane ln) 0 0 = some (.nop Guard.always) ∧
    decode (.lane ln) 0x04030800 0 = some (.wait Guard.always 3 2) ∧
    decode (.lane ln) 0xFFFFFFFF 0 = none) ∧
  decode .kiln 0 0 = some .xnop ∧ decode .kiln 0xFFFFFFFF 0 = none ∧ decode (.lane .k) 0x00800000 0 = none

/-- A step runs the decoded instruction (spec/08 R153, spec/13 R291): where the turn is a lane's and the lane runs, the word at
its PC, with its literal where it has one, decodes to an instruction and the step is that instruction's meaning, after which
nothing changes but the count of a debugger's step and the note of the team's progress. A kiln's turn runs the word at the
program's PC, and a turn of an event is the event's meaning. -/
def Obligations.StepRunsDecoded : Prop :=
  ∀ (s b : State) (t : Turn) (rest : List Turn), s.agenda = t :: rest → b = takeTurn s t rest →
    (∀ (c : Nat) (ln : Lane) (s1 : State) (w : Nat) (i : Instr), t.who = .lane c ln → c < 16400 →
      (isSup c = true → ln = .k) → laneRuns b c ln = true → breaks b c ln = false →
      fetchWord b c ((b.ctx c).lane ln).pc = .word s1 w →
      let after := fun (o : Out3) => ∀ u, o = .next u → ∃ v, step s = .next v ∧ v.mem = u.mem ∧
        (∀ c', c' ≠ c → v.ctx c' = u.ctx c') ∧
        v.ctx c = { u.ctx c with stepLeft := (v.ctx c).stepLeft, dbgStat := (v.ctx c).dbgStat } ∧
        ((b.ctx c).stopped = false → v.ctx c = u.ctx c)
      ((ln ≠ .k ∨ hasLiteral w = false) → decode (.lane ln) w 0 = some i → after (exec i s1)) ∧
      (ln = .k → hasLiteral w = true → ∀ s2 lit, fetchWord s1 c (((b.ctx c).lane ln).pc + 4) = .word s2 lit →
        decode (.lane ln) w lit = some i → after (exec i s2))) ∧
    (∀ (cl : Nat) (r : KRun) (w : Nat) (i : Instr), t.who = .kiln cl → cl < 64 → kilnRuns b cl = true →
      (b.cluster cl).run = some r → kilnFetch (b.cluster cl) r.pc = .word w → decode .kiln w 0 = some i →
      step s = exec i b) ∧
    ∀ i, t.who = .event i → step s = exec i b

/-- Every step keeps every memory in its canonical form, whatever instruction or event it is. -/
def Obligations.StepKeepsCanonical : Prop :=
  ∀ (s t : State), s.Canonical → step s = .next t → t.Canonical

/-- What reset leaves (spec/01 R12, spec/09 R212-R215, spec/20 R355, spec/03 R53, spec/15 R331, R341): global time is 0, every memory is
in its canonical form and lists nothing, every register of a context holds its reset value, BOOT is 0 and NEXT is 1, no key slot is
loaded, and every launch queue is empty and holds its reset TICKETS. That the boot ROM has not yet loaded slot 0 and the values the manual
does not give are the model's choice (logs 5, 6). -/
def Obligations.ResetState : Prop :=
  let s := State.reset
  s.Canonical ∧ s.mem = [] ∧ s.svc.req = [] ∧ (∀ k, (s.cluster k).cmem = [] ∧ (s.core k).scratch = []) ∧ s.flash = [] ∧
    (∀ c, s.ctx c = Ctx.init) ∧ Ctx.init.resident = false ∧ Ctx.init.cvtCtl = 0xAA ∧ Ctx.init.frCause = 0 ∧
    s.svc.boot = 0 ∧ s.svc.berr = 0 ∧ s.svc.jen = false ∧ s.svc.next = 1 ∧ s.gt = 0 ∧
    (∀ k : Fin 64, s.keys[k].loaded = false) ∧
    (∀ d : Fin 4, s.dies[d].inReset = false ∧ s.dies[d].msgs = [] ∧ s.dies[d].brLen = 0 ∧ s.dies[d].fqLen = 0 ∧
      ∀ q : Fin 16, s.dies[d].q[q].ents = [] ∧ bits s.dies[d].q[q].cfg.toNat 0 11 = 16) ∧
    (∀ k : Fin 8, s.hbmStacks[k] = .up) ∧ (∀ l : Fin 32, s.links[l].trained = false)
end

