-- ==== Sys2Proof/Laws/Mem.lean ====
section
/-! SUPPORT. Byte memories: every operation keeps the canonical form; what a store, a wipe and a load do to each byte. -/

namespace Sys2Proof.Machine

/-! ## The canonical form -/

theorem Memory.wfFrom_iff (m : Memory) (lo : Nat) :
    Memory.wfFrom lo m = true ↔ (∀ e ∈ m, lo ≤ e.1 ∧ e.2 ≠ unlisted) ∧ m.Pairwise (fun e f => e.1 < f.1) := by
  induction m generalizing lo with
  | nil => simp [Memory.wfFrom]
  | cons e r ih =>
    obtain ⟨k, v⟩ := e
    simp only [Memory.wfFrom, Bool.and_eq_true, decide_eq_true_eq, ih, List.forall_mem_cons, List.pairwise_cons, bne_iff_ne, ne_eq]
    constructor
    · rintro ⟨⟨h1, h2⟩, h3, h4⟩
      exact ⟨⟨⟨h1, h2⟩, fun e he => ⟨by have := (h3 e he).1; omega, (h3 e he).2⟩⟩, fun e he => by have := (h3 e he).1; omega, h4⟩
    · rintro ⟨⟨⟨h1, h2⟩, h3⟩, h5, h4⟩
      exact ⟨⟨h1, h2⟩, fun e he => ⟨by have := h5 e he; omega, (h3 e he).2⟩, h4⟩

/-- The canonical form: no entry holds the unlisted value, and addresses rise strictly. -/
theorem Memory.wf_iff (m : Memory) :
    m.wf = true ↔ (∀ e ∈ m, e.2 ≠ unlisted) ∧ m.Pairwise (fun e f => e.1 < f.1) := by
  simp [Memory.wf, Memory.wfFrom_iff]

@[simp] theorem Memory.wf_nil : Memory.wf [] = true := rfl

theorem mem_cellsFrom {a : Nat} {bs : List Byte} {e : Nat × Byte} (h : e ∈ cellsFrom a bs) :
    a ≤ e.1 ∧ e.1 < a + bs.length ∧ e.2 ≠ unlisted := by
  induction bs generalizing a with
  | nil => cases h
  | cons b r ih =>
    simp only [cellsFrom] at h
    split at h
    · have := ih h
      simp only [List.length_cons]; exact ⟨by omega, by omega, this.2.2⟩
    · next hb =>
      rcases List.mem_cons.1 h with rfl | h
      · exact ⟨Nat.le_refl _, by simp, hb⟩
      · have := ih h
        simp only [List.length_cons]; exact ⟨by omega, by omega, this.2.2⟩

theorem cellsFrom_pairwise (a : Nat) (bs : List Byte) : (cellsFrom a bs).Pairwise fun e f => e.1 < f.1 := by
  induction bs generalizing a with
  | nil => exact .nil
  | cons b r ih =>
    simp only [cellsFrom]
    split
    · exact ih _
    · exact List.pairwise_cons.2 ⟨fun e he => by have := (mem_cellsFrom he).1; simp only; omega, ih _⟩

theorem mem_takeWhile_lt {m : Memory} {a : Nat} {e : Nat × Byte} (h : e ∈ m.takeWhile fun e => decide (e.1 < a)) : e.1 < a := by
  induction m with
  | nil => cases h
  | cons x r ih =>
    simp only [List.takeWhile_cons] at h
    split at h
    · next hx =>
      rcases List.mem_cons.1 h with rfl | h
      · simpa using hx
      · exact ih h
    · cases h

theorem mem_dropWhile_lt {m : Memory} (hm : m.Pairwise fun e f => e.1 < f.1) {a : Nat} {e : Nat × Byte}
    (h : e ∈ m.dropWhile fun e => decide (e.1 < a)) : a ≤ e.1 := by
  induction m with
  | nil => cases h
  | cons x r ih =>
    simp only [List.dropWhile_cons] at h
    split at h
    · exact ih (List.pairwise_cons.1 hm).2 h
    · next hx =>
      simp only [decide_eq_true_eq, Nat.not_lt] at hx
      rcases List.mem_cons.1 h with rfl | h
      · exact hx
      · have := (List.pairwise_cons.1 hm).1 e h; omega

/-- A store keeps the canonical form. -/
theorem Memory.wf_store {m : Memory} (hm : m.wf = true) (a : Nat) (bs : List Byte) : (m.store a bs).wf = true := by
  obtain ⟨h1, h2⟩ := (Memory.wf_iff m).1 hm
  refine (Memory.wf_iff _).2 ⟨?_, ?_⟩
  · intro e he
    simp only [Memory.store, List.mem_append] at he
    rcases he with (he | he) | he
    · exact h1 e ((List.takeWhile_sublist _).mem he)
    · exact (mem_cellsFrom he).2.2
    · exact h1 e ((List.dropWhile_sublist _).mem he)
  · simp only [Memory.store, List.pairwise_append]
    refine ⟨⟨h2.sublist (List.takeWhile_sublist _), cellsFrom_pairwise a bs, ?_⟩, h2.sublist (List.dropWhile_sublist _), ?_⟩
    · intro e he f hf
      have := mem_takeWhile_lt he; have := (mem_cellsFrom hf).1; omega
    · intro e he f hf
      have hf := mem_dropWhile_lt h2 hf
      rcases List.mem_append.1 he with he | he
      · have := mem_takeWhile_lt he; omega
      · have := (mem_cellsFrom he).2.1; omega

/-- A wipe keeps the canonical form. -/
theorem Memory.wf_wipe {m : Memory} (hm : m.wf = true) (a b : Nat) : (m.wipe a b).wf = true := by
  obtain ⟨h1, h2⟩ := (Memory.wf_iff m).1 hm
  exact (Memory.wf_iff _).2 ⟨fun e he => h1 e (List.mem_filter.1 he).1, h2.sublist List.filter_sublist⟩

/-! ## Bytes -/

theorem Memory.byte_eq_unlisted {m : Memory} {x : Nat} (h : ∀ e ∈ m, e.1 ≠ x) : m.byte x = unlisted := by
  induction m with
  | nil => rfl
  | cons e r ih =>
    simp only [Memory.byte, if_neg (h e (by simp))]
    exact ih fun f hf => h f (by simp [hf])

theorem Memory.byte_of_mem {m : Memory} (hm : m.Pairwise fun e f => e.1 < f.1) {x : Nat} {v : Byte} (h : (x, v) ∈ m) :
    m.byte x = v := by
  induction m with
  | nil => cases h
  | cons e r ih =>
    obtain ⟨k, w⟩ := e
    have hp := List.pairwise_cons.1 hm
    rcases List.mem_cons.1 h with h | h
    · cases h; simp [Memory.byte]
    · have := hp.1 _ h
      simp only at this
      simp only [Memory.byte, show ¬k = x by omega, if_false]
      exact ih hp.2 h

/-- Two memories that list the same at an address read the same there. -/
theorem Memory.byte_congr {m n : Memory} (hm : m.Pairwise fun e f => e.1 < f.1) (hn : n.Pairwise fun e f => e.1 < f.1)
    {x : Nat} (h : ∀ v, (x, v) ∈ m ↔ (x, v) ∈ n) : m.byte x = n.byte x := by
  by_cases he : ∃ v, (x, v) ∈ m
  · obtain ⟨v, hv⟩ := he
    rw [Memory.byte_of_mem hm hv, Memory.byte_of_mem hn ((h v).1 hv)]
  · rw [Memory.byte_eq_unlisted (m := m) (x := x) (fun ⟨k, v⟩ hx hk => he ⟨v, by cases hk; exact hx⟩),
      Memory.byte_eq_unlisted (m := n) (x := x) (fun ⟨k, v⟩ hx hk => he ⟨v, by cases hk; exact (h v).2 hx⟩)]

theorem mem_cellsFrom_iff (a : Nat) (bs : List Byte) (x : Nat) (v : Byte) :
    (x, v) ∈ cellsFrom a bs ↔ v ≠ unlisted ∧ a ≤ x ∧ bs[x - a]? = some v := by
  induction bs generalizing a with
  | nil => simp [cellsFrom]
  | cons b r ih =>
    by_cases hx : x = a
    · subst hx
      have hno : ¬(x, v) ∈ cellsFrom (x + 1) r := fun h => by have := (mem_cellsFrom h).1; simp only at this; omega
      by_cases hb : b = unlisted
      · simp only [cellsFrom, hb, if_true, hno, Nat.sub_self, List.getElem?_cons_zero, Option.some.injEq, false_iff]
        exact fun h => h.1 h.2.2.symm
      · simp only [cellsFrom, hb, if_false, List.mem_cons, hno, or_false, Prod.mk.injEq, true_and, Nat.sub_self,
          List.getElem?_cons_zero, Option.some.injEq, Nat.le_refl]
        exact ⟨fun h => ⟨h ▸ hb, h.symm⟩, fun h => h.2.symm⟩
    · have hi := ih (a + 1)
      have hm : (x, v) ∈ cellsFrom a (b :: r) ↔ (x, v) ∈ cellsFrom (a + 1) r := by
        simp only [cellsFrom]; split <;> simp [hx]
      rw [hm, hi]
      by_cases hl : a < x
      · have h1 : x - a = x - (a + 1) + 1 := by omega
        simp [h1, show a + 1 ≤ x by omega, show a ≤ x by omega]
      · simp [show ¬a + 1 ≤ x by omega, show ¬a ≤ x by omega]

theorem Memory.mem_takeWhile_iff {m : Memory} (hm : m.Pairwise fun e f => e.1 < f.1) (a : Nat) (e : Nat × Byte) :
    e ∈ m.takeWhile (fun e => decide (e.1 < a)) ↔ e ∈ m ∧ e.1 < a := by
  refine ⟨fun h => ⟨(List.takeWhile_sublist _).mem h, mem_takeWhile_lt h⟩, fun h => ?_⟩
  have h1 := h.1
  rw [← List.takeWhile_append_dropWhile (p := fun e => decide (e.1 < a)) (l := m)] at h1
  rcases List.mem_append.1 h1 with h1 | h1
  · exact h1
  · have := mem_dropWhile_lt hm h1; omega

theorem Memory.mem_dropWhile_iff {m : Memory} (hm : m.Pairwise fun e f => e.1 < f.1) (a : Nat) (e : Nat × Byte) :
    e ∈ m.dropWhile (fun e => decide (e.1 < a)) ↔ e ∈ m ∧ a ≤ e.1 := by
  refine ⟨fun h => ⟨(List.dropWhile_sublist _).mem h, mem_dropWhile_lt hm h⟩, fun h => ?_⟩
  have h1 := h.1
  rw [← List.takeWhile_append_dropWhile (p := fun e => decide (e.1 < a)) (l := m)] at h1
  rcases List.mem_append.1 h1 with h1 | h1
  · have := mem_takeWhile_lt h1; omega
  · exact h1

/-- Each byte after a store: the stored one, or the one before. -/
theorem Memory.byte_store {m : Memory} (hm : m.wf = true) (a : Nat) (bs : List Byte) (x : Nat) :
    (m.store a bs).byte x = if h : a ≤ x ∧ x < a + bs.length then bs[x - a] else m.byte x := by
  have h2 := ((Memory.wf_iff m).1 hm).2
  have hs := ((Memory.wf_iff _).1 (Memory.wf_store hm a bs)).2
  split
  · next h =>
    have hl : x - a < bs.length := by omega
    by_cases hb : bs[x - a] = unlisted
    · rw [hb]
      refine Memory.byte_eq_unlisted fun e he hx => ?_
      simp only [Memory.store, List.mem_append] at he
      rcases he with (he | he) | he
      · have := mem_takeWhile_lt he; omega
      · obtain ⟨k, v⟩ := e
        simp only at hx; subst hx
        have := (mem_cellsFrom_iff a bs k v).1 he
        rw [List.getElem?_eq_getElem hl, hb] at this
        exact this.1 (by simpa using this.2.2.symm)
      · have := mem_dropWhile_lt h2 he; omega
    · refine Memory.byte_of_mem hs ?_
      simp only [Memory.store, List.mem_append]
      exact .inl (.inr ((mem_cellsFrom_iff ..).2 ⟨hb, h.1, List.getElem?_eq_getElem hl⟩))
  · next h =>
    refine Memory.byte_congr hs h2 fun v => ?_
    simp only [Memory.store, List.mem_append, Memory.mem_takeWhile_iff h2, Memory.mem_dropWhile_iff h2]
    constructor
    · rintro ((h1 | h1) | h1)
      · exact h1.1
      · have := mem_cellsFrom h1; simp only at this; omega
      · exact h1.1
    · intro h1
      by_cases hx : x < a
      · exact .inl (.inl ⟨h1, hx⟩)
      · exact .inr ⟨h1, by omega⟩

/-- Each byte after a wipe. -/
theorem Memory.byte_wipe (m : Memory) (a b x : Nat) :
    (m.wipe a b).byte x = if a ≤ x ∧ x < b then unlisted else m.byte x := by
  induction m with
  | nil => simp [Memory.wipe, Memory.byte]
  | cons e r ih =>
    obtain ⟨k, v⟩ := e
    simp only [Memory.wipe] at ih
    simp only [Memory.wipe, List.filter_cons, Memory.byte]
    by_cases hk : k = x
    · subst hk
      by_cases hr : a ≤ k ∧ k < b
      · simp [ih, hr, show ¬k < a by omega, show ¬b ≤ k by omega]
      · rw [if_pos (by simp only [Bool.or_eq_true, decide_eq_true_eq]; omega), if_neg hr]; simp [Memory.byte]
    · rw [if_neg hk]
      split
      · simp only [Memory.byte, if_neg hk]; exact ih
      · exact ih

/-! ## Loads -/

theorem Memory.length_take (m : Memory) (a n : Nat) : (Memory.take m a n).length = n := by
  induction n generalizing m a with
  | zero => simp [Memory.take]
  | succ n ih =>
    cases m with
    | nil => simp [Memory.take, ih]
    | cons e r => obtain ⟨k, v⟩ := e; simp only [Memory.take]; split <;> simp [ih]

@[simp] theorem Memory.length_load (m : Memory) (a n : Nat) : (m.load a n).length = n := Memory.length_take ..

theorem Memory.take_getElem (m : Memory) (hm : m.Pairwise fun e f => e.1 < f.1) (a n : Nat) (h : ∀ e ∈ m, a ≤ e.1) (i : Nat)
    (hi : i < (Memory.take m a n).length) : (Memory.take m a n)[i] = m.byte (a + i) := by
  induction n generalizing m a i with
  | zero => simp [Memory.take] at hi
  | succ n ih =>
    cases m with
    | nil =>
      cases i with
      | zero => simp [Memory.take, Memory.byte]
      | succ i =>
        simp only [Memory.take, List.getElem_cons_succ]
        rw [ih [] .nil (a + 1) (by simp) i]; simp [Memory.byte]
    | cons e r =>
      obtain ⟨k, v⟩ := e
      have hp := List.pairwise_cons.1 hm
      by_cases hk : k = a
      · subst hk
        cases i with
        | zero => simp [Memory.take, Memory.byte]
        | succ i =>
          simp only [Memory.take, if_true, List.getElem_cons_succ]
          rw [ih r hp.2 (k + 1) (fun e he => hp.1 e he) i]
          simp only [Memory.byte, show ¬k = k + (i + 1) by omega, if_false]
          congr 1; omega
      · have hlt : a < k := by have := h (k, v) (by simp); simp only at this; omega
        cases i with
        | zero =>
          simp only [Memory.take, if_neg hk, List.getElem_cons_zero]
          exact (Memory.byte_eq_unlisted fun e he => by
            rcases List.mem_cons.1 he with rfl | he
            · simpa using hk
            · have := hp.1 e he; simp only at this; omega).symm
        | succ i =>
          simp only [Memory.take, if_neg hk, List.getElem_cons_succ]
          rw [ih _ hm (a + 1) (fun e he => by
            rcases List.mem_cons.1 he with rfl | he
            · exact hlt
            · have := hp.1 e he; simp only at this; omega) i]
          congr 1; omega

theorem Memory.byte_dropWhile {m : Memory} (hm : m.Pairwise fun e f => e.1 < f.1) {a x : Nat} (h : a ≤ x) :
    Memory.byte (m.dropWhile fun e => decide (e.1 < a)) x = m.byte x :=
  Memory.byte_congr (hm.sublist (List.dropWhile_sublist _)) hm fun v => by
    simp [Memory.mem_dropWhile_iff hm, h]

/-- A load of a memory in canonical form gives its bytes. -/
theorem Memory.load_getElem {m : Memory} (hm : m.wf = true) (a n i : Nat) (hi : i < (m.load a n).length) :
    (m.load a n)[i] = m.byte (a + i) := by
  have h2 := ((Memory.wf_iff m).1 hm).2
  exact (Memory.take_getElem _ (h2.sublist (List.dropWhile_sublist _)) a n (fun e he => mem_dropWhile_lt h2 he) i hi).trans
    (Memory.byte_dropWhile h2 (by omega))

/-- Two memories in canonical form whose bytes agree load alike. -/
theorem Memory.load_congr {m n : Memory} (hm : m.wf = true) (hn : n.wf = true) (a k : Nat)
    (h : ∀ x, a ≤ x → x < a + k → m.byte x = n.byte x) : m.load a k = n.load a k := by
  apply List.ext_getElem (by simp)
  intro i h1 h2
  rw [Memory.load_getElem hm, Memory.load_getElem hn]
  exact h _ (by omega) (by simp at h1; omega)

theorem dropWhile_head {m : Memory} {a : Nat} {e : Nat × Byte} {r : Memory}
    (h : m.dropWhile (fun e => decide (e.1 < a)) = e :: r) : a ≤ e.1 := by
  induction m with
  | nil => cases h
  | cons x q ih =>
    simp only [List.dropWhile_cons] at h
    split at h
    · exact ih h
    · next hx => cases h; simpa using hx

theorem take_cellsFrom (a : Nat) (bs : List Byte) (r : Memory) (h : ∀ e q, r = e :: q → a + bs.length ≤ e.1) :
    Memory.take (cellsFrom a bs ++ r) a bs.length = bs := by
  induction bs generalizing a with
  | nil => simp [Memory.take]
  | cons b q ih =>
    have hq : ∀ e p, r = e :: p → a + 1 + q.length ≤ e.1 := fun e p hr => by
      have := h e p hr; simp only [List.length_cons] at this; omega
    have hi := ih (a + 1) hq
    simp only [cellsFrom, List.length_cons]
    split
    · next hb =>
      cases hc : cellsFrom (a + 1) q ++ r with
      | nil => rw [hc] at hi; simp [Memory.take, hi, hb]
      | cons e p =>
        obtain ⟨k, v⟩ := e
        have hk : k ≠ a := by
          rcases hcc : cellsFrom (a + 1) q with _ | ⟨e, p'⟩
          · rw [hcc] at hc
            have := hq _ _ hc; simp only at this; omega
          · rw [hcc] at hc
            have he : e ∈ cellsFrom (a + 1) q := by simp [hcc]
            have := (mem_cellsFrom he).1
            simp only [List.cons_append, List.cons.injEq] at hc
            rw [hc.1] at this; simp only at this; omega
        rw [hc] at hi
        simp [Memory.take, hk, hi, hb]
    · simp [Memory.take, hi]

/-- What has been stored is loaded, whatever the memory. -/
theorem Memory.load_store (m : Memory) (a : Nat) (bs : List Byte) : (m.store a bs).load a bs.length = bs := by
  have hd : (m.store a bs).dropWhile (fun e => decide (e.1 < a)) =
      cellsFrom a bs ++ m.dropWhile (fun e => decide (e.1 < a + bs.length)) := by
    simp only [Memory.store, List.append_assoc]
    rw [List.dropWhile_append_of_pos fun e he => by simpa using mem_takeWhile_lt he]
    cases hc : cellsFrom a bs ++ m.dropWhile (fun e => decide (e.1 < a + bs.length)) with
    | nil => rfl
    | cons e p =>
      have : a ≤ e.1 := by
        rcases hcc : cellsFrom a bs with _ | ⟨f, q⟩
        · rw [hcc] at hc; have := dropWhile_head hc; omega
        · rw [hcc] at hc
          simp only [List.cons_append, List.cons.injEq] at hc
          rw [← hc.1]; exact (mem_cellsFrom (show f ∈ cellsFrom a bs by simp [hcc])).1
      rw [List.dropWhile_cons_of_neg]; simpa using this
  unfold Memory.load
  rw [hd]
  exact take_cellsFrom a bs _ fun e q h => dropWhile_head h

end Sys2Proof.Machine
end

