-- ==== Sys2Proof/Laws/State.lean ====
section
/-! SUPPORT. What an update of the state leaves and makes: tables, then each field of the state after each update, then the
registers of a context. -/

namespace Sys2Proof

/-! ## Tables -/

@[simp] theorem FMap.find_insert_self {α : Type} (m : FMap α) (k : Nat) (v d : α) : FMap.find (FMap.insert m k v) k d = v := by
  induction m with
  | nil => simp [FMap.insert, FMap.find]
  | cons e r ih =>
    obtain ⟨j, w⟩ := e
    by_cases h1 : k < j
    · simp [FMap.insert, FMap.find, h1]
    · by_cases h2 : k = j
      · simp [FMap.insert, FMap.find, h2]
      · have h3 : j ≠ k := fun h => h2 h.symm
        simp [FMap.insert, FMap.find, h1, h2, h3, ih]

theorem FMap.find_insert_ne {α : Type} (m : FMap α) {k j : Nat} (h : j ≠ k) (v d : α) :
    FMap.find (FMap.insert m k v) j d = FMap.find m j d := by
  induction m with
  | nil => simp [FMap.insert, FMap.find, h.symm]
  | cons e r ih =>
    obtain ⟨i, w⟩ := e
    by_cases h1 : k < i
    · simp [FMap.insert, FMap.find, h1, h.symm]
    · by_cases h2 : k = i
      · simp [FMap.insert, FMap.find, h2, show i ≠ j from fun e => h (e ▸ h2).symm]
      · simp only [FMap.insert, h1, h2, if_false, FMap.find]
        split
        · rfl
        · exact ih

theorem FMap.find_insert {α : Type} (m : FMap α) (k j : Nat) (v d : α) :
    FMap.find (FMap.insert m k v) j d = if j = k then v else FMap.find m j d := by
  split
  · next h => subst h; exact find_insert_self ..
  · next h => exact find_insert_ne m h v d

/-- The entry that `find` gives, where it is not the default. -/
theorem FMap.find_mem {α : Type} (m : FMap α) (k : Nat) (d : α) : FMap.find m k d = d ∨ (k, FMap.find m k d) ∈ m := by
  induction m with
  | nil => exact .inl rfl
  | cons e r ih =>
    obtain ⟨j, w⟩ := e
    by_cases h : j = k
    · subst h; simp [FMap.find]
    · simp only [FMap.find, h, if_false]
      exact ih.imp id fun h => by simp [h]

/-- A table whose values are all mapped by `f`. -/
theorem FMap.find_map {α : Type} (m : FMap α) (f : α → α) (k : Nat) (d : α) (hd : f d = d) :
    FMap.find (m.map fun e => (e.1, f e.2)) k d = f (FMap.find m k d) := by
  induction m with
  | nil => simp [FMap.find, hd]
  | cons e r ih =>
    obtain ⟨j, w⟩ := e
    by_cases h : j = k <;> simp [FMap.find, h, ih]

/-- A table from which keys have been removed. -/
theorem FMap.find_filter {α : Type} (m : FMap α) (p : Nat → Bool) (k : Nat) (d : α) :
    FMap.find (m.filter fun e => p e.1) k d = if p k then FMap.find m k d else d := by
  induction m with
  | nil => simp [FMap.find]
  | cons e r ih =>
    obtain ⟨j, w⟩ := e
    by_cases hp : p j = true <;> by_cases hj : j = k
    · subst hj; simp [FMap.find, hp]
    · simp [FMap.find, hp, hj, ih]
    · subst hj; simp [ih, hp]
    · simp [FMap.find, hp, hj, ih]

namespace Machine

theorem vget_eq {α : Type} {n : Nat} (v : Vector α n) (k : Nat) (h : k < n) (d : α) : vget v k d = v[k] := by
  simp [vget, h]

@[simp] theorem vget_vput_self {α : Type} {n : Nat} (v : Vector α n) (k : Nat) (h : k < n) (a d : α) :
    vget (vput v k a) k d = a := by
  simp [vget, vput, h]

theorem vget_vput_ne {α : Type} {n : Nat} (v : Vector α n) {k j : Nat} (h : j ≠ k) (a d : α) :
    vget (vput v k a) j d = vget v j d := by
  unfold vput
  split
  · simp [vget, h.symm]
  · rfl

theorem vget_vput {α : Type} {n : Nat} (v : Vector α n) (k j : Nat) (a d : α) :
    vget (vput v k a) j d = if j = k ∧ k < n then a else vget v j d := by
  by_cases h : j = k
  · subst h
    by_cases hn : j < n
    · simp [hn]
    · simp [vput, hn]
  · rw [vget_vput_ne v h, if_neg fun e => h e.1]

/-! ## Updates of the module -/

@[simp] theorem State.ctx_setCtx_self (s : State) (c : Nat) (x : Ctx) : (s.setCtx c x).ctx c = x := by
  simp [State.ctx, State.setCtx]

theorem State.ctx_setCtx_ne (s : State) {c e : Nat} (h : e ≠ c) (x : Ctx) : (s.setCtx c x).ctx e = s.ctx e := by
  simp [State.ctx, State.setCtx, FMap.find_insert_ne _ h]

theorem State.ctx_setCtx (s : State) (c e : Nat) (x : Ctx) : (s.setCtx c x).ctx e = if e = c then x else s.ctx e := by
  simp [State.ctx, State.setCtx, FMap.find_insert]

@[simp] theorem State.core_setCore_self (s : State) (n : Nat) (x : CoreSt) : (s.setCore n x).core n = x := by
  simp [State.core, State.setCore]

theorem State.core_setCore (s : State) (n m : Nat) (x : CoreSt) : (s.setCore n x).core m = if m = n then x else s.core m := by
  simp [State.core, State.setCore, FMap.find_insert]

@[simp] theorem State.cluster_setCluster_self (s : State) (n : Nat) (x : Cluster) : (s.setCluster n x).cluster n = x := by
  simp [State.cluster, State.setCluster]

theorem State.cluster_setCluster (s : State) (n m : Nat) (x : Cluster) :
    (s.setCluster n x).cluster m = if m = n then x else s.cluster m := by
  simp [State.cluster, State.setCluster, FMap.find_insert]

theorem State.die_setDie (s : State) (d e : Nat) (x : Die) :
    (s.setDie d x).die e = if e = d ∧ d < 4 then x else s.die e := by
  simp [State.die, State.setDie, vget_vput]

@[simp] theorem State.modCtx_eq (s : State) (c : Nat) (f : Ctx → Ctx) : s.modCtx c f = s.setCtx c (f (s.ctx c)) := rfl
@[simp] theorem State.modCluster_eq (s : State) (n : Nat) (f : Cluster → Cluster) :
    s.modCluster n f = s.setCluster n (f (s.cluster n)) := rfl
@[simp] theorem State.modDie_eq (s : State) (d : Nat) (f : Die → Die) : s.modDie d f = s.setDie d (f (s.die d)) := rfl

@[simp] theorem State.setCtx_turn (s : State) (c : Nat) (x : Ctx) : (s.setCtx c x).turn = s.turn := rfl
@[simp] theorem State.setCtx_agenda (s : State) (c : Nat) (x : Ctx) : (s.setCtx c x).agenda = s.agenda := rfl
@[simp] theorem State.setCtx_fresh (s : State) (c : Nat) (x : Ctx) : (s.setCtx c x).fresh = s.fresh := rfl
@[simp] theorem State.setCtx_reads (s : State) (c : Nat) (x : Ctx) : (s.setCtx c x).reads = s.reads := rfl
@[simp] theorem State.setCtx_gt (s : State) (c : Nat) (x : Ctx) : (s.setCtx c x).gt = s.gt := rfl
@[simp] theorem State.setCtx_cycle (s : State) (c : Nat) (x : Ctx) : (s.setCtx c x).cycle = s.cycle := rfl
@[simp] theorem State.setCtx_mem (s : State) (c : Nat) (x : Ctx) : (s.setCtx c x).mem = s.mem := rfl
@[simp] theorem State.setCtx_tags (s : State) (c : Nat) (x : Ctx) : (s.setCtx c x).tags = s.tags := rfl
@[simp] theorem State.setCtx_poisoned (s : State) (c : Nat) (x : Ctx) : (s.setCtx c x).poisoned = s.poisoned := rfl
@[simp] theorem State.setCtx_keys (s : State) (c : Nat) (x : Ctx) : (s.setCtx c x).keys = s.keys := rfl
@[simp] theorem State.setCtx_hbmStacks (s : State) (c : Nat) (x : Ctx) : (s.setCtx c x).hbmStacks = s.hbmStacks := rfl
@[simp] theorem State.setCtx_cores (s : State) (c : Nat) (x : Ctx) : (s.setCtx c x).cores = s.cores := rfl
@[simp] theorem State.setCtx_clusters (s : State) (c : Nat) (x : Ctx) : (s.setCtx c x).clusters = s.clusters := rfl
@[simp] theorem State.setCtx_dies (s : State) (c : Nat) (x : Ctx) : (s.setCtx c x).dies = s.dies := rfl
@[simp] theorem State.setCtx_launches (s : State) (c : Nat) (x : Ctx) : (s.setCtx c x).launches = s.launches := rfl
@[simp] theorem State.setCtx_nextLaunch (s : State) (c : Nat) (x : Ctx) : (s.setCtx c x).nextLaunch = s.nextLaunch := rfl
@[simp] theorem State.setCtx_nextId (s : State) (c : Nat) (x : Ctx) : (s.setCtx c x).nextId = s.nextId := rfl
@[simp] theorem State.setCtx_links (s : State) (c : Nat) (x : Ctx) : (s.setCtx c x).links = s.links := rfl
@[simp] theorem State.setCtx_modId (s : State) (c : Nat) (x : Ctx) : (s.setCtx c x).modId = s.modId := rfl
@[simp] theorem State.setCtx_removed (s : State) (c : Nat) (x : Ctx) : (s.setCtx c x).removed = s.removed := rfl
@[simp] theorem State.setCtx_noRoute (s : State) (c : Nat) (x : Ctx) : (s.setCtx c x).noRoute = s.noRoute := rfl
@[simp] theorem State.setCtx_unreached (s : State) (c : Nat) (x : Ctx) : (s.setCtx c x).unreached = s.unreached := rfl
@[simp] theorem State.setCtx_svc (s : State) (c : Nat) (x : Ctx) : (s.setCtx c x).svc = s.svc := rfl
@[simp] theorem State.setCtx_flash (s : State) (c : Nat) (x : Ctx) : (s.setCtx c x).flash = s.flash := rfl
@[simp] theorem State.setCtx_flashBad (s : State) (c : Nat) (x : Ctx) : (s.setCtx c x).flashBad = s.flashBad := rfl
@[simp] theorem State.setCtx_life (s : State) (c : Nat) (x : Ctx) : (s.setCtx c x).life = s.life := rfl
@[simp] theorem State.setCtx_holdUp (s : State) (c : Nat) (x : Ctx) : (s.setCtx c x).holdUp = s.holdUp := rfl
@[simp] theorem State.setCtx_asked (s : State) (c : Nat) (x : Ctx) : (s.setCtx c x).asked = s.asked := rfl
@[simp] theorem State.setCtx_core (s : State) (c e : Nat) (x : Ctx) : (s.setCtx c x).core e = s.core e := rfl
@[simp] theorem State.setCtx_cluster (s : State) (c e : Nat) (x : Ctx) : (s.setCtx c x).cluster e = s.cluster e := rfl
@[simp] theorem State.setCtx_die (s : State) (c e : Nat) (x : Ctx) : (s.setCtx c x).die e = s.die e := rfl

@[simp] theorem State.setCore_turn (s : State) (n : Nat) (x : CoreSt) : (s.setCore n x).turn = s.turn := rfl
@[simp] theorem State.setCore_agenda (s : State) (n : Nat) (x : CoreSt) : (s.setCore n x).agenda = s.agenda := rfl
@[simp] theorem State.setCore_fresh (s : State) (n : Nat) (x : CoreSt) : (s.setCore n x).fresh = s.fresh := rfl
@[simp] theorem State.setCore_reads (s : State) (n : Nat) (x : CoreSt) : (s.setCore n x).reads = s.reads := rfl
@[simp] theorem State.setCore_gt (s : State) (n : Nat) (x : CoreSt) : (s.setCore n x).gt = s.gt := rfl
@[simp] theorem State.setCore_cycle (s : State) (n : Nat) (x : CoreSt) : (s.setCore n x).cycle = s.cycle := rfl
@[simp] theorem State.setCore_mem (s : State) (n : Nat) (x : CoreSt) : (s.setCore n x).mem = s.mem := rfl
@[simp] theorem State.setCore_tags (s : State) (n : Nat) (x : CoreSt) : (s.setCore n x).tags = s.tags := rfl
@[simp] theorem State.setCore_poisoned (s : State) (n : Nat) (x : CoreSt) : (s.setCore n x).poisoned = s.poisoned := rfl
@[simp] theorem State.setCore_keys (s : State) (n : Nat) (x : CoreSt) : (s.setCore n x).keys = s.keys := rfl
@[simp] theorem State.setCore_hbmStacks (s : State) (n : Nat) (x : CoreSt) : (s.setCore n x).hbmStacks = s.hbmStacks := rfl
@[simp] theorem State.setCore_ctxs (s : State) (n : Nat) (x : CoreSt) : (s.setCore n x).ctxs = s.ctxs := rfl
@[simp] theorem State.setCore_clusters (s : State) (n : Nat) (x : CoreSt) : (s.setCore n x).clusters = s.clusters := rfl
@[simp] theorem State.setCore_dies (s : State) (n : Nat) (x : CoreSt) : (s.setCore n x).dies = s.dies := rfl
@[simp] theorem State.setCore_launches (s : State) (n : Nat) (x : CoreSt) : (s.setCore n x).launches = s.launches := rfl
@[simp] theorem State.setCore_nextLaunch (s : State) (n : Nat) (x : CoreSt) : (s.setCore n x).nextLaunch = s.nextLaunch := rfl
@[simp] theorem State.setCore_nextId (s : State) (n : Nat) (x : CoreSt) : (s.setCore n x).nextId = s.nextId := rfl
@[simp] theorem State.setCore_links (s : State) (n : Nat) (x : CoreSt) : (s.setCore n x).links = s.links := rfl
@[simp] theorem State.setCore_modId (s : State) (n : Nat) (x : CoreSt) : (s.setCore n x).modId = s.modId := rfl
@[simp] theorem State.setCore_removed (s : State) (n : Nat) (x : CoreSt) : (s.setCore n x).removed = s.removed := rfl
@[simp] theorem State.setCore_noRoute (s : State) (n : Nat) (x : CoreSt) : (s.setCore n x).noRoute = s.noRoute := rfl
@[simp] theorem State.setCore_unreached (s : State) (n : Nat) (x : CoreSt) : (s.setCore n x).unreached = s.unreached := rfl
@[simp] theorem State.setCore_svc (s : State) (n : Nat) (x : CoreSt) : (s.setCore n x).svc = s.svc := rfl
@[simp] theorem State.setCore_flash (s : State) (n : Nat) (x : CoreSt) : (s.setCore n x).flash = s.flash := rfl
@[simp] theorem State.setCore_flashBad (s : State) (n : Nat) (x : CoreSt) : (s.setCore n x).flashBad = s.flashBad := rfl
@[simp] theorem State.setCore_life (s : State) (n : Nat) (x : CoreSt) : (s.setCore n x).life = s.life := rfl
@[simp] theorem State.setCore_holdUp (s : State) (n : Nat) (x : CoreSt) : (s.setCore n x).holdUp = s.holdUp := rfl
@[simp] theorem State.setCore_asked (s : State) (n : Nat) (x : CoreSt) : (s.setCore n x).asked = s.asked := rfl
@[simp] theorem State.setCore_ctx (s : State) (n e : Nat) (x : CoreSt) : (s.setCore n x).ctx e = s.ctx e := rfl
@[simp] theorem State.setCore_cluster (s : State) (n e : Nat) (x : CoreSt) : (s.setCore n x).cluster e = s.cluster e := rfl
@[simp] theorem State.setCore_die (s : State) (n e : Nat) (x : CoreSt) : (s.setCore n x).die e = s.die e := rfl

@[simp] theorem State.setCluster_turn (s : State) (n : Nat) (x : Cluster) : (s.setCluster n x).turn = s.turn := rfl
@[simp] theorem State.setCluster_agenda (s : State) (n : Nat) (x : Cluster) : (s.setCluster n x).agenda = s.agenda := rfl
@[simp] theorem State.setCluster_fresh (s : State) (n : Nat) (x : Cluster) : (s.setCluster n x).fresh = s.fresh := rfl
@[simp] theorem State.setCluster_reads (s : State) (n : Nat) (x : Cluster) : (s.setCluster n x).reads = s.reads := rfl
@[simp] theorem State.setCluster_gt (s : State) (n : Nat) (x : Cluster) : (s.setCluster n x).gt = s.gt := rfl
@[simp] theorem State.setCluster_cycle (s : State) (n : Nat) (x : Cluster) : (s.setCluster n x).cycle = s.cycle := rfl
@[simp] theorem State.setCluster_mem (s : State) (n : Nat) (x : Cluster) : (s.setCluster n x).mem = s.mem := rfl
@[simp] theorem State.setCluster_tags (s : State) (n : Nat) (x : Cluster) : (s.setCluster n x).tags = s.tags := rfl
@[simp] theorem State.setCluster_poisoned (s : State) (n : Nat) (x : Cluster) : (s.setCluster n x).poisoned = s.poisoned := rfl
@[simp] theorem State.setCluster_keys (s : State) (n : Nat) (x : Cluster) : (s.setCluster n x).keys = s.keys := rfl
@[simp] theorem State.setCluster_hbmStacks (s : State) (n : Nat) (x : Cluster) : (s.setCluster n x).hbmStacks = s.hbmStacks := rfl
@[simp] theorem State.setCluster_ctxs (s : State) (n : Nat) (x : Cluster) : (s.setCluster n x).ctxs = s.ctxs := rfl
@[simp] theorem State.setCluster_cores (s : State) (n : Nat) (x : Cluster) : (s.setCluster n x).cores = s.cores := rfl
@[simp] theorem State.setCluster_dies (s : State) (n : Nat) (x : Cluster) : (s.setCluster n x).dies = s.dies := rfl
@[simp] theorem State.setCluster_launches (s : State) (n : Nat) (x : Cluster) : (s.setCluster n x).launches = s.launches := rfl
@[simp] theorem State.setCluster_nextLaunch (s : State) (n : Nat) (x : Cluster) : (s.setCluster n x).nextLaunch = s.nextLaunch := rfl
@[simp] theorem State.setCluster_nextId (s : State) (n : Nat) (x : Cluster) : (s.setCluster n x).nextId = s.nextId := rfl
@[simp] theorem State.setCluster_links (s : State) (n : Nat) (x : Cluster) : (s.setCluster n x).links = s.links := rfl
@[simp] theorem State.setCluster_modId (s : State) (n : Nat) (x : Cluster) : (s.setCluster n x).modId = s.modId := rfl
@[simp] theorem State.setCluster_removed (s : State) (n : Nat) (x : Cluster) : (s.setCluster n x).removed = s.removed := rfl
@[simp] theorem State.setCluster_noRoute (s : State) (n : Nat) (x : Cluster) : (s.setCluster n x).noRoute = s.noRoute := rfl
@[simp] theorem State.setCluster_unreached (s : State) (n : Nat) (x : Cluster) : (s.setCluster n x).unreached = s.unreached := rfl
@[simp] theorem State.setCluster_svc (s : State) (n : Nat) (x : Cluster) : (s.setCluster n x).svc = s.svc := rfl
@[simp] theorem State.setCluster_flash (s : State) (n : Nat) (x : Cluster) : (s.setCluster n x).flash = s.flash := rfl
@[simp] theorem State.setCluster_flashBad (s : State) (n : Nat) (x : Cluster) : (s.setCluster n x).flashBad = s.flashBad := rfl
@[simp] theorem State.setCluster_life (s : State) (n : Nat) (x : Cluster) : (s.setCluster n x).life = s.life := rfl
@[simp] theorem State.setCluster_holdUp (s : State) (n : Nat) (x : Cluster) : (s.setCluster n x).holdUp = s.holdUp := rfl
@[simp] theorem State.setCluster_asked (s : State) (n : Nat) (x : Cluster) : (s.setCluster n x).asked = s.asked := rfl
@[simp] theorem State.setCluster_ctx (s : State) (n e : Nat) (x : Cluster) : (s.setCluster n x).ctx e = s.ctx e := rfl
@[simp] theorem State.setCluster_core (s : State) (n e : Nat) (x : Cluster) : (s.setCluster n x).core e = s.core e := rfl
@[simp] theorem State.setCluster_die (s : State) (n e : Nat) (x : Cluster) : (s.setCluster n x).die e = s.die e := rfl

@[simp] theorem State.setDie_turn (s : State) (d : Nat) (x : Die) : (s.setDie d x).turn = s.turn := rfl
@[simp] theorem State.setDie_agenda (s : State) (d : Nat) (x : Die) : (s.setDie d x).agenda = s.agenda := rfl
@[simp] theorem State.setDie_fresh (s : State) (d : Nat) (x : Die) : (s.setDie d x).fresh = s.fresh := rfl
@[simp] theorem State.setDie_reads (s : State) (d : Nat) (x : Die) : (s.setDie d x).reads = s.reads := rfl
@[simp] theorem State.setDie_gt (s : State) (d : Nat) (x : Die) : (s.setDie d x).gt = s.gt := rfl
@[simp] theorem State.setDie_cycle (s : State) (d : Nat) (x : Die) : (s.setDie d x).cycle = s.cycle := rfl
@[simp] theorem State.setDie_mem (s : State) (d : Nat) (x : Die) : (s.setDie d x).mem = s.mem := rfl
@[simp] theorem State.setDie_tags (s : State) (d : Nat) (x : Die) : (s.setDie d x).tags = s.tags := rfl
@[simp] theorem State.setDie_poisoned (s : State) (d : Nat) (x : Die) : (s.setDie d x).poisoned = s.poisoned := rfl
@[simp] theorem State.setDie_keys (s : State) (d : Nat) (x : Die) : (s.setDie d x).keys = s.keys := rfl
@[simp] theorem State.setDie_hbmStacks (s : State) (d : Nat) (x : Die) : (s.setDie d x).hbmStacks = s.hbmStacks := rfl
@[simp] theorem State.setDie_ctxs (s : State) (d : Nat) (x : Die) : (s.setDie d x).ctxs = s.ctxs := rfl
@[simp] theorem State.setDie_cores (s : State) (d : Nat) (x : Die) : (s.setDie d x).cores = s.cores := rfl
@[simp] theorem State.setDie_clusters (s : State) (d : Nat) (x : Die) : (s.setDie d x).clusters = s.clusters := rfl
@[simp] theorem State.setDie_launches (s : State) (d : Nat) (x : Die) : (s.setDie d x).launches = s.launches := rfl
@[simp] theorem State.setDie_nextLaunch (s : State) (d : Nat) (x : Die) : (s.setDie d x).nextLaunch = s.nextLaunch := rfl
@[simp] theorem State.setDie_nextId (s : State) (d : Nat) (x : Die) : (s.setDie d x).nextId = s.nextId := rfl
@[simp] theorem State.setDie_links (s : State) (d : Nat) (x : Die) : (s.setDie d x).links = s.links := rfl
@[simp] theorem State.setDie_modId (s : State) (d : Nat) (x : Die) : (s.setDie d x).modId = s.modId := rfl
@[simp] theorem State.setDie_removed (s : State) (d : Nat) (x : Die) : (s.setDie d x).removed = s.removed := rfl
@[simp] theorem State.setDie_noRoute (s : State) (d : Nat) (x : Die) : (s.setDie d x).noRoute = s.noRoute := rfl
@[simp] theorem State.setDie_unreached (s : State) (d : Nat) (x : Die) : (s.setDie d x).unreached = s.unreached := rfl
@[simp] theorem State.setDie_svc (s : State) (d : Nat) (x : Die) : (s.setDie d x).svc = s.svc := rfl
@[simp] theorem State.setDie_flash (s : State) (d : Nat) (x : Die) : (s.setDie d x).flash = s.flash := rfl
@[simp] theorem State.setDie_flashBad (s : State) (d : Nat) (x : Die) : (s.setDie d x).flashBad = s.flashBad := rfl
@[simp] theorem State.setDie_life (s : State) (d : Nat) (x : Die) : (s.setDie d x).life = s.life := rfl
@[simp] theorem State.setDie_holdUp (s : State) (d : Nat) (x : Die) : (s.setDie d x).holdUp = s.holdUp := rfl
@[simp] theorem State.setDie_asked (s : State) (d : Nat) (x : Die) : (s.setDie d x).asked = s.asked := rfl
@[simp] theorem State.setDie_ctx (s : State) (d e : Nat) (x : Die) : (s.setDie d x).ctx e = s.ctx e := rfl
@[simp] theorem State.setDie_core (s : State) (d e : Nat) (x : Die) : (s.setDie d x).core e = s.core e := rfl
@[simp] theorem State.setDie_cluster (s : State) (d e : Nat) (x : Die) : (s.setDie d x).cluster e = s.cluster e := rfl

/-! ## Registers of a context -/

@[simp] theorem Ctx.rx_zero (x : Ctx) : x.rx 0 = 0 := rfl
@[simp] theorem Ctx.rp_zero (x : Ctx) : x.rp 0 = true := rfl
@[simp] theorem Ctx.wx_zero (x : Ctx) (v : Word) : x.wx 0 v = x := rfl
@[simp] theorem Ctx.wp_zero (x : Ctx) (v : Bool) : x.wp 0 v = x := rfl

/-- Writing an x register changes the x registers only. -/
theorem Ctx.wx_eq (x : Ctx) (d : XReg) (v : Word) : x.wx d v = { x with x := (x.wx d v).x } := by
  unfold Ctx.wx; split <;> rfl

/-- Writing a predicate changes the predicates only. -/
theorem Ctx.wp_eq (x : Ctx) (d : PReg) (v : Bool) : x.wp d v = { x with p := (x.wp d v).p } := by
  unfold Ctx.wp; split <;> rfl

@[simp] theorem Ctx.lane_setLane_self (x : Ctx) (ln : Lane) (y : LaneSt) : (x.setLane ln y).lane ln = y := by
  cases ln <;> rfl

theorem Ctx.lane_setLane_ne (x : Ctx) {ln m : Lane} (h : m ≠ ln) (y : LaneSt) : (x.setLane ln y).lane m = x.lane m := by
  cases ln <;> cases m <;> first | rfl | exact absurd rfl h

/-- Setting a lane changes the four lanes only. -/
theorem Ctx.setLane_eq (x : Ctx) (ln : Lane) (y : LaneSt) :
    x.setLane ln y = { x with
      k := (x.setLane ln y).k, l := (x.setLane ln y).l, cl := (x.setLane ln y).cl, sl := (x.setLane ln y).sl } := by
  cases ln <;> rfl

end Machine

end Sys2Proof
end

