-- ==== Sys2Proof/Laws/Canonical.lean ====
section
/-! SUPPORT. Every operation that writes a memory keeps the canonical form of them all, and an operation that writes none of
them keeps it as well. -/

namespace Sys2Proof.Machine

/-- Two states with the same memories are canonical alike. -/
theorem State.Canonical.congr {s t : State} (hs : s.Canonical) (h1 : t.mem = s.mem) (h2 : t.flash = s.flash)
    (h3 : t.svc.req = s.svc.req) (h4 : ∀ k, (t.cluster k).cmem = (s.cluster k).cmem)
    (h5 : ∀ k, (t.core k).scratch = (s.core k).scratch)
    (h6 : ∀ d : Fin 4, ∀ v ∈ t.dies[d].resumed ++ t.dies[d].lastSaves, v ∈ s.dies[d].resumed ++ s.dies[d].lastSaves) :
    t.Canonical := by
  obtain ⟨a, b, c, d, e, f⟩ := hs
  exact ⟨h1 ▸ a, h2 ▸ b, h3 ▸ c, fun k => h4 k ▸ d k, fun k => h5 k ▸ e k, fun i v hv => f i v (h6 i v hv)⟩

/-- A state that differs in none of the parts that hold a memory. -/
theorem State.Canonical.of_same {s t : State} (hs : s.Canonical) (h1 : t.mem = s.mem) (h2 : t.flash = s.flash)
    (h3 : t.svc = s.svc) (h4 : t.clusters = s.clusters) (h5 : t.cores = s.cores) (h6 : t.dies = s.dies) : t.Canonical :=
  hs.congr h1 h2 (h3 ▸ rfl) (fun k => by simp [State.cluster, h4]) (fun k => by simp [State.core, h5])
    fun d v hv => h6 ▸ hv

theorem State.Canonical.setCtx {s : State} (hs : s.Canonical) (c : Nat) (x : Ctx) : (s.setCtx c x).Canonical :=
  hs.of_same rfl rfl rfl rfl rfl rfl

theorem State.Canonical.modCtx {s : State} (hs : s.Canonical) (c : Nat) (f : Ctx → Ctx) : (s.modCtx c f).Canonical :=
  hs.setCtx c _

theorem State.Canonical.setCluster {s : State} (hs : s.Canonical) (n : Nat) (x : Cluster) (hx : x.cmem.wf = true) :
    (s.setCluster n x).Canonical := by
  obtain ⟨a, b, c, d, e, f⟩ := hs
  refine ⟨a, b, c, fun k => ?_, e, f⟩
  rw [State.cluster_setCluster]; split
  · exact hx
  · exact d k

theorem State.Canonical.modCluster {s : State} (hs : s.Canonical) (n : Nat) (f : Cluster → Cluster)
    (hf : ∀ x, (f x).cmem = x.cmem) : (s.modCluster n f).Canonical :=
  hs.setCluster n _ (by rw [hf]; exact hs.2.2.2.1 n)

theorem State.Canonical.setCore {s : State} (hs : s.Canonical) (n : Nat) (x : CoreSt) (hx : x.scratch.wf = true) :
    (s.setCore n x).Canonical := by
  obtain ⟨a, b, c, d, e, f⟩ := hs
  refine ⟨a, b, c, d, fun k => ?_, f⟩
  rw [State.core_setCore]; split
  · exact hx
  · exact e k

theorem State.Canonical.setDie {s : State} (hs : s.Canonical) (d : Nat) (x : Die)
    (hx : ∀ v ∈ x.resumed ++ x.lastSaves, unitsCanonical v.cluster v.cores = true) : (s.setDie d x).Canonical := by
  obtain ⟨a, b, c, d', e, f⟩ := hs
  refine ⟨a, b, c, d', e, fun i v hv => ?_⟩
  simp only [State.setDie, vput] at hv
  split at hv
  · simp only [Fin.getElem_fin, Vector.getElem_set] at hv
    split at hv
    · exact hx v hv
    · exact f i v hv
  · exact f i v hv

theorem State.Canonical.saved {s : State} (hs : s.Canonical) (d : Nat) (v : Saved)
    (hv : v ∈ (s.die d).resumed ++ (s.die d).lastSaves) : unitsCanonical v.cluster v.cores = true := by
  by_cases h : d < 4
  · have := hs.2.2.2.2.2 ⟨d, h⟩ v
    simp only [State.die, vget_eq _ _ h] at hv
    exact this hv
  · simp [State.die, vget, Vector.getElem?_eq_none (show 4 ≤ d by omega), Die.init] at hv

theorem State.Canonical.modDie {s : State} (hs : s.Canonical) (d : Nat) (f : Die → Die)
    (hf : ∀ x, (f x).resumed = x.resumed) (hg : ∀ x, (f x).lastSaves = x.lastSaves) : (s.modDie d f).Canonical :=
  hs.setDie d _ fun v hv => hs.saved d v (by rwa [hf, hg] at hv)

/-! ## Writes -/

/-- A write of device physical memory. -/
theorem State.Canonical.writePhys {s : State} (hs : s.Canonical) (key a : Nat) (bs : List Byte) :
    (writePhys s key a bs).Canonical := by
  obtain ⟨h1, h⟩ := hs
  unfold Machine.writePhys
  split
  · exact ⟨Memory.wf_store h1 _ _, h⟩
  · exact ⟨Memory.wf_store h1 _ _, h⟩

/-- A write of one place. -/
theorem State.Canonical.writePiece {s : State} (hs : s.Canonical) (l : Loc) (bs : List Byte) :
    (writePiece s l bs).Canonical := by
  cases l with
  | phys a key d => exact hs.writePhys key a bs
  | cl k off => exact hs.setCluster k _ (Memory.wf_store (hs.2.2.2.1 k) _ _)
  | co k off => exact hs.setCore k _ (Memory.wf_store (hs.2.2.2.2.1 k) _ _)

theorem State.Canonical.wakeMonw {s : State} (hs : s.Canonical) (l : Loc) (n : Nat) (who : Word) :
    (wakeMonw s l n who).Canonical := hs.of_same rfl rfl rfl rfl rfl rfl

/-- A write piece by piece. -/
theorem State.Canonical.writePieces {s : State} (hs : s.Canonical) (who : Word) (ps : List (Loc × Nat)) (bs : List Byte) :
    (writePieces s who ps bs).Canonical := by
  induction ps generalizing s bs with
  | nil => exact hs
  | cons p r ih => exact ih ((hs.writePiece p.1 _).wakeMonw p.1 p.2 who) _

/-- A write of the flash. -/
theorem State.Canonical.flashWrite {s : State} (hs : s.Canonical) (a : Nat) (bs : List Byte) :
    (flashWrite s a bs).Canonical := by
  obtain ⟨a', b, h⟩ := hs
  exact ⟨a', Memory.wf_store b _ _, h⟩

theorem State.Canonical.writeLog {s : State} (hs : s.Canonical) (k : Nat) (l : List JRec) : (writeLog s k l).Canonical := by
  induction l generalizing s k with
  | nil => exact hs
  | cons r l ih => exact ih (hs.flashWrite _ _) _

/-- The wipe of every memory. -/
theorem State.Canonical.wipeAll {s : State} (hs : s.Canonical) : (wipeAll s).Canonical := by
  obtain ⟨a, b, c, d, e, f⟩ := hs
  exact ⟨Memory.wf_wipe a _ _, b, c, fun k => rfl, fun k => rfl, f⟩

theorem State.Canonical.eraseLog {s : State} (hs : s.Canonical) : (eraseLog s).Canonical := by
  obtain ⟨a, b, h⟩ := hs
  exact ⟨a, Memory.wf_wipe b _ _, h⟩

theorem State.Canonical.commitJournal {s : State} (hs : s.Canonical) : (commitJournal s).Canonical :=
  hs.eraseLog.writeLog _ _

/-- The fatal error of the module. -/
theorem State.Canonical.fatal {s : State} (hs : s.Canonical) (code : Nat) : (fatal s code).Canonical := by
  have h := hs.commitJournal.wipeAll
  exact h.congr rfl rfl rfl (fun k => rfl) (fun k => rfl) fun d v hv => hv

theorem State.Canonical.ite {s t : State} {p : Prop} [Decidable p] (hs : s.Canonical) (ht : t.Canonical) :
    (if p then s else t).Canonical := by
  split
  · exact hs
  · exact ht

/-- A record of the sample ring. -/
theorem State.Canonical.ringWrite {s : State} (hs : s.Canonical) (d units typ : Nat) (body : List Byte) :
    (ringWrite s d units typ body).Canonical := by
  unfold Machine.ringWrite
  refine .ite hs (.ite (hs.setDie d _ fun v hv => hs.saved d v hv) ?_)
  exact State.Canonical.modDie (State.Canonical.writePhys (.ite hs (hs.writePhys _ _ _)) _ _ _) d _ (fun _ => rfl) fun _ => rfl

/-- The note of a wait in the ring. -/
theorem State.Canonical.logWait {s : State} (hs : s.Canonical) (d : Nat) (waiter setter : Word) (o : Option Wait) (value : Word)
    (done : Bool) : (logWait s d waiter setter o value done).Canonical := by
  unfold Machine.logWait
  split
  · exact hs
  · split
    · exact hs.ringWrite ..
    · exact hs

/-! ## Lanes -/

theorem State.Canonical.goto {s : State} (hs : s.Canonical) (c : Nat) (ln : Lane) (pc : Word) : (goto s c ln pc).Canonical :=
  hs.modCtx c _

theorem State.Canonical.advance {s : State} (hs : s.Canonical) (c : Nat) (ln : Lane) (len : Nat) :
    (advance s c ln len).Canonical := hs.goto c ln _

theorem State.Canonical.complete {s : State} (hs : s.Canonical) (c : Nat) (ln : Lane) (i : Instr) (pc : Word)
    (loops : List (Word × W32)) (f : Infl → Infl) : (complete s c ln i pc loops f).Canonical := by
  unfold Machine.complete
  split
  · exact hs.modCtx c _
  · exact (hs.modCtx c _).goto c ln pc

theorem State.Canonical.blockLane {s : State} (hs : s.Canonical) (c : Nat) (ln : Lane) (kind obj amount : Nat) (addr : Word)
    (logged : Bool) : (blockLane s c ln kind obj amount addr logged).Canonical := hs.modCtx c _

theorem State.Canonical.endWait {s : State} (hs : s.Canonical) (c : Nat) (ln : Lane) (setter value : Word) :
    (endWait s c ln setter value).Canonical := ((hs.logWait ..).logWait ..).modCtx c _

end Sys2Proof.Machine
end

