-- ==== Sys2Proof/Laws/Ops.lean ====
section
/-! SUPPORT. What the shared operations do, said once: the issue of an instruction in each lane, the end of one, a scalar
access, a gate of replay, a kiln word. -/

namespace Sys2Proof.Machine

/-! ## Issue in the K lane -/

theorem beyond_none {x : Ctx} {regs : List XReg} (h : ∀ r ∈ regs, r.val < x.nx) : beyond x regs = none := by
  simp only [beyond, List.find?_eq_none, decide_eq_true_eq, Nat.not_le]; exact h

theorem beyond_some {x : Ctx} {before after : List XReg} {r : XReg} (h : ∀ q ∈ before, q.val < x.nx) (hr : x.nx ≤ r.val) :
    beyond x (before ++ r :: after) = some r := by
  simp only [beyond, List.find?_append, List.find?_cons, hr, decide_true]
  rw [List.find?_eq_none.2 (by simpa using h)]; rfl

/-- Everything that a K instruction can do: it is no instruction there, its guard is false, a register lies beyond the
allocation, it waits behind a store that it must follow, or it has its effect. -/
theorem kInstr_cases {s : State} {c : Nat} {ln : Lane} (h : s.turn.who = .lane c ln) (i : Instr) (g : Guard) (len : Nat)
    (regs : List XReg) (body : Nat → State → Out3) :
    kInstr i g len regs body s =
      if ln ≠ .k ∨ i.wf = false then .next (illegal s c ln i)
      else if guardHolds (s.ctx c) g = false then .next (advance s c .k len)
      else match beyond (s.ctx c) regs with
        | some r => .next (takeFault s c .k ⟨0x03, 0, 0, wd r.val⟩ (wordOf i))
        | none => if waitsStores (s.ctx c) i = true then .next (blockQuiet s c .k) else body c s := by
  simp [kInstr, onLane, actor, h] <;> cases beyond (s.ctx c) regs <;> rfl

theorem kInstr_ready {s : State} {c : Nat} {i : Instr} {g : Guard} {regs : List XReg} (h : KReady s c i g regs) (len : Nat)
    (body : Nat → State → Out3) : kInstr i g len regs body s = body c s := by
  obtain ⟨h1, h2, h3, h4, h5⟩ := h
  simp only [kInstr_cases h1, h2, h3, beyond_none h4, h5]; simp

theorem kInstr_false {s : State} {c : Nat} {i : Instr} {g : Guard} (h1 : s.turn.who = .lane c .k) (h2 : i.wf = true)
    (h3 : guardHolds (s.ctx c) g = false) (len : Nat) (regs : List XReg) (body : Nat → State → Out3) :
    kInstr i g len regs body s = .next (advance s c .k len) := by
  simp [kInstr_cases h1, h2, h3]

theorem kInstr_beyond {s : State} {c : Nat} {i : Instr} {g : Guard} {regs : List XReg} {r : XReg}
    (h1 : s.turn.who = .lane c .k) (h2 : i.wf = true) (h3 : guardHolds (s.ctx c) g = true)
    (h4 : beyond (s.ctx c) regs = some r) (len : Nat) (body : Nat → State → Out3) :
    kInstr i g len regs body s = .next (takeFault s c .k ⟨0x03, 0, 0, wd r.val⟩ (wordOf i)) := by
  simp [kInstr_cases h1, h2, h3, h4]

theorem kReg_ready {s : State} {c : Nat} {i : Instr} {g : Guard} {regs : List XReg} (h : KReady s c i g regs) (len : Nat)
    (f : Ctx → Ctx) : kReg i g len regs f s = .next (advance (s.modCtx c f) c .k len) := kInstr_ready h len _

theorem kCluster_ready {s : State} {c : Nat} {i : Instr} {g : Guard} {regs : List XReg} (h : EReady s c i g regs)
    (body : Nat → State → Out3) : kCluster i g regs body s = body c s := by
  have hs : isSup c = false := by simpa [isSup] using h.2
  rw [kCluster, kInstr_ready h.1]; simp [hs]

/-! ## Issue of the common block -/

/-- Everything that an instruction of the common block can do. -/
theorem common_cases {s : State} {c : Nat} {ln : Lane} (h : s.turn.who = .lane c ln) (i : Instr) (g : Guard)
    (regs : List XReg) (body : Nat → Lane → State → Out3) :
    common i g regs body s =
      if i.wf = false ∨ ln ≠ .k ∧ i.unguarded = false then .next (illegal s c ln i)
      else if ln ≠ .k then body c ln s
      else if guardHolds (s.ctx c) g = false then .next (advance s c .k 4)
      else match beyond (s.ctx c) regs with
        | some r => .next (takeFault s c .k ⟨0x03, 0, 0, wd r.val⟩ (wordOf i))
        | none => if waitsStores (s.ctx c) i = true then .next (blockQuiet s c .k) else body c .k s := by
  simp [common, onLane, actor, h] <;> cases beyond (s.ctx c) regs <;> rfl

theorem common_ready {s : State} {c : Nat} {ln : Lane} {i : Instr} {g : Guard} {regs : List XReg}
    (h : LaneReady s c ln i g) (hr : ln = .k → ∀ r ∈ regs, r.val < (s.ctx c).nx) (body : Nat → Lane → State → Out3) :
    common i g regs body s = body c ln s := by
  obtain ⟨h1, h2, h3⟩ := h
  by_cases hk : ln = .k
  · subst hk
    simp only [if_true] at h3
    simp [common_cases h1, h2, h3, beyond_none (hr rfl)]
  · simp only [if_neg hk] at h3
    simp [common_cases h1, h2, h3, hk]

theorem common_kready {s : State} {c : Nat} {i : Instr} {g : Guard} {regs : List XReg} (h : KReady s c i g regs)
    (body : Nat → Lane → State → Out3) : common i g regs body s = body c .k s := by
  obtain ⟨h1, h2, h3, h4, h5⟩ := h
  simp [common_cases h1, h2, h3, beyond_none h4, h5]

/-! ## The end of an instruction -/

@[simp] theorem perfInstr_lane (x : Ctx) (ln m : Lane) : (perfInstr x ln).lane m = x.lane m := by
  unfold perfInstr; split
  · rfl
  · cases m <;> rfl

/-- The count of completed instructions changes the performance counters only. -/
theorem perfInstr_eq (x : Ctx) (ln : Lane) : perfInstr x ln = { x with perfCnt := (perfInstr x ln).perfCnt } := by
  unfold perfInstr; split <;> rfl

/-- A lane goes on: its PC and head move and its wait ends. -/
theorem goto_lane_self (s : State) (c : Nat) (ln : Lane) (pc : Word) :
    ((goto s c ln pc).ctx c).lane ln =
      { (s.ctx c).lane ln with
        pc := pc, head := ((s.ctx c).lane ln).head + 1, wait := none, tokWait := none, remain := none, passBp := false
        passBk := false, hitStop := false } := by
  simp [goto]

theorem goto_lane_ne (s : State) (c : Nat) {ln m : Lane} (h : m ≠ ln) (pc : Word) :
    ((goto s c ln pc).ctx c).lane m = (s.ctx c).lane m := by
  simp [goto, Ctx.lane_setLane_ne _ h]

theorem goto_ctx_ne (s : State) {c e : Nat} (h : e ≠ c) (ln : Lane) (pc : Word) : (goto s c ln pc).ctx e = s.ctx e := by
  simp [goto, State.ctx_setCtx_ne _ h]

/-- Of its own context, a lane that goes on changes the lane and the performance counters. -/
theorem goto_ctx (s : State) (c : Nat) (ln : Lane) (pc : Word) :
    (goto s c ln pc).ctx c = { s.ctx c with
      k := ((goto s c ln pc).ctx c).k, l := ((goto s c ln pc).ctx c).l, cl := ((goto s c ln pc).ctx c).cl
      sl := ((goto s c ln pc).ctx c).sl, perfCnt := ((goto s c ln pc).ctx c).perfCnt } := by
  simp only [goto, State.modCtx_eq, State.ctx_setCtx_self]
  rw [perfInstr_eq]
  cases ln <;> rfl

/-- Nothing of the module but the table of contexts changes. -/
theorem goto_eq (s : State) (c : Nat) (ln : Lane) (pc : Word) : goto s c ln pc = { s with ctxs := (goto s c ln pc).ctxs } := rfl

theorem advance_eq (s : State) (c : Nat) (ln : Lane) (len : Nat) :
    advance s c ln len = { s with ctxs := (advance s c ln len).ctxs } := rfl

/-! ## Scalar accesses and gates -/

/-- Everything that a scalar access can do: it faults, its lane waits, for its page or behind a held store, or it goes on with the
places of its bytes. -/
theorem access_cases (i : Instr) (c : Nat) (a : Acc) (rel : Bool) (addr : Word) (n : Nat) (s : State)
    (f : State → List (Loc × Nat) → Out3) :
    (∃ t e, resolve s a addr n = .flt t e ∧ access i c a rel addr n s f = .next (memFault t c i e)) ∨
    (resolve s a addr n = .wait ∧ access i c a rel addr n s f = .next (blockQuiet s c .k)) ∨
    ∃ t ps, resolve s a addr n = .ok t ps ∧
      access i c a rel addr n s f = if storesFirst (s.ctx c) a.info rel ps then .next (blockQuiet s c .k) else f t ps := by
  unfold access
  cases h : resolve s a addr n with
  | flt t e => exact .inl ⟨t, e, rfl, rfl⟩
  | wait => exact .inr (.inl ⟨rfl, rfl⟩)
  | ok t ps => exact .inr (.inr ⟨t, ps, rfl, rfl⟩)

/-- No held store comes before an access where none is held. -/
theorem storesFirst_nil {x : Ctx} (h : x.stores = []) (info : Word) (rel : Bool) (ps : List (Loc × Nat)) :
    storesFirst x info rel ps = false := by simp [storesFirst, h]

/-- An access of K goes on where its bytes resolve and no held store comes before it. -/
theorem access_ok {s t : State} {a : Acc} {addr : Word} {n : Nat} {ps : List (Loc × Nat)} {c : Nat} {rel : Bool}
    (h : resolve s a addr n = .ok t ps) (hs : storesFirst (s.ctx c) a.info rel ps = false) (i : Instr)
    (f : State → List (Loc × Nat) → Out3) : access i c a rel addr n s f = f t ps := by simp [access, h, hs]

/-- Where no recording orders the events of a team, a gate lets every event be made. -/
theorem gated_none {s : State} {c : Nat} (h : recOf s (clusterOf c) = none) (ln : Lane) (pos partner : Word) (kind : Nat)
    (f : Option Word → Out3) : gated s c ln pos partner kind f = f none := by
  unfold gated madeBefore recGate
  simp only [h]; split <;> rfl

/-- Where no recording orders the events of a team, none is noted. -/
theorem syncEvent_none {s : State} {c : Nat} (h : recOf s (clusterOf c) = none) (lane : Nat) (pos partner : Word) (kind : Nat)
    (v : Word) : syncEvent s c lane pos partner kind v = s := by
  simp [syncEvent, h]

theorem syncAfter_none {s : State} {c : Nat} (h : recOf s (clusterOf c) = none) (before : State) (lane : Nat) (pos partner : Word)
    (kind : Nat) (v : Word) : syncAfter before s c lane pos partner kind v = s := by
  simp [syncAfter, h]

theorem noted_none {s t : State} {c : Nat} (h : recOf s (clusterOf c) = none) (ht : recOf t (clusterOf c) = none) (ln : Lane)
    (pos partner : Word) (kind : Nat) (v : Word) : noted s c ln pos partner kind v (.next t) = .next t := by
  simp [noted, madeBefore, h, syncAfter_none ht]

/-- Where K holds no store, none performs. -/
theorem storesPerform_nil {s : State} {c : Nat} (h : (s.ctx c).stores = []) : storesPerform c s = s := by
  simp [storesPerform, h]

/-- A scalar store that resolves performs at once where no held store comes before it. -/
theorem storeBody_ok {s t : State} {c : Nat} {a : XReg} {cls : BitVec 4} {z : BitVec 2} {rel : Bool} {ps : List (Loc × Nat)}
    (h : resolve s (Acc.store c 1 z.toNat (classInfo cls)) ((s.ctx c).rx a) (sizeOf z) = .ok t ps)
    (hs : storesFirst (s.ctx c) (classInfo cls) rel ps = false) (i : Instr) (d : XReg) : storeBody i rel d a cls z c s =
      .next (preciseWatch (memDone (writePieces t (posOf t c .k) ps (leBytes (sizeOf z) ((s.ctx c).rx d).toNat)) c 4) c .k
        ((s.ctx c).rx a) (sizeOf z)) := by
  simp [storeBody, h, hs]

/-- A store that does not answer yet, or must follow one that does not, is held. -/
theorem storeBody_held {s : State} {c : Nat} {a : XReg} {cls : BitVec 4} {z : BitVec 2} {rel : Bool}
    (h : resolve s (Acc.store c 1 z.toNat (classInfo cls)) ((s.ctx c).rx a) (sizeOf z) = .wait ∨
      ∃ t ps, resolve s (Acc.store c 1 z.toNat (classInfo cls)) ((s.ctx c).rx a) (sizeOf z) = .ok t ps ∧
        storesFirst (s.ctx c) (classInfo cls) rel ps = true)
    (i : Instr) (d : XReg) : storeBody i rel d a cls z c s =
      .next (holdStore s c (heldStore s c i rel z.toNat (classInfo cls) ((s.ctx c).rx a)
        (leBytes (sizeOf z) ((s.ctx c).rx d).toNat))) := by
  obtain h | ⟨t, ps, h, hs⟩ := h
  · simp [storeBody, h]
  · simp [storeBody, h, hs]

/-! ## The kiln -/

/-- Everything that a kiln word can do. -/
theorem kilnDo_cases {s : State} {cl : Nat} (h : s.turn.who = .kiln cl) (i : Instr) (body : Nat → KRun → State → Out3) :
    kilnDo i body s = match (s.cluster cl).run with
      | none => .next s
      | some r => if i.wf then body cl r s else .next (kilnFail s cl r ⟨0x2D, 1, 0, 0⟩) := by
  simp only [kilnDo, onKiln, h]
  cases (s.cluster cl).run with
  | none => rfl
  | some r => cases i.wf <;> rfl

theorem kilnDo_ready {s : State} {cl : Nat} {r : KRun} (h : XReady s cl r) {i : Instr} (hw : i.wf = true)
    (body : Nat → KRun → State → Out3) : kilnDo i body s = body cl r s := by
  rw [kilnDo_cases h.1, h.2]; simp [hw]

theorem kilnReg_ready {s : State} {cl : Nat} {r : KRun} (h : XReady s cl r) {i : Instr} (hw : i.wf = true)
    (f : KRun → KRun) : kilnReg i f s = .next (kilnNext s cl (f r)) := kilnDo_ready h hw _

/-! ## The compute lane -/

/-- What a compute-lane instruction does once nothing keeps it from its dispatch. -/
theorem dispatch_ready {s : State} {c : Nat} {f : CForm} {l : List Val} (h1 : s.turn.who = .lane c .c) (h2 : f.i.wf = true)
    (h3 : tokenThere s c f = true) (h4 : earlyFault (s.ctx c) f = none) (h5 : tiles (s.ctx c) f = .ok l)
    (h6 : readsPending (s.ctx c) f = false) (h7 : sinkRoom (s.ctx c) f = true) (h8 : f.hold (s.ctx c) = .go)
    (h9 : lateFault s c f (.ok l) = none) : dispatch f s = claimAndGo s c f l := by
  simp [dispatch, onLane, actor, h1, h2, h3, h4, h5, h6, h7, h8, h9]

/-- A compute-lane instruction whose fault is found before it waits. -/
theorem dispatch_early {s : State} {c : Nat} {f : CForm} {e : Flt} (h1 : s.turn.who = .lane c .c) (h2 : f.i.wf = true)
    (h3 : tokenThere s c f = true) (h4 : earlyFault (s.ctx c) f = some e) :
    dispatch f s = .next (dispatchFault s c f.i (wordOf f.i) e none) := by
  simp [dispatch, onLane, actor, h1, h2, h3, h4]

/-- A compute-lane instruction that waits for its token. -/
theorem dispatch_waits {s : State} {c : Nat} {f : CForm} (h1 : s.turn.who = .lane c .c) (h2 : f.i.wf = true)
    (h3 : tokenThere s c f = false) : dispatch f s = .next (blockLane s c .c 0 f.toks.tw.val 1 0 true) := by
  simp [dispatch, onLane, actor, h1, h2, h3]

end Sys2Proof.Machine
end

