-- ==== Sys2Proof/Laws/PerInstr.lean ====
section
/-! SUPPORT. For every instruction: it has at most two words, each of 32 bits; an event has none (spec/08 R153). -/

namespace Sys2Proof.Laws

/-! ## The formats -/

theorem encG_lt (g : Guard) : encG g < 2 ^ 24 := by
  have := g.p.isLt
  unfold encG; split <;> omega

theorem encO_lt (o : Opnd) : encO o < 2 ^ 6 := by
  have := o.idx.isLt
  unfold encO; split <;> split <;> omega

theorem encT_lt (k : Toks) : encT k < 2 ^ 8 := by
  have := k.tw.isLt
  have := k.ts.isLt
  unfold encT; omega

theorem code_lt (f : Fmt) : f.code < 12 := by cases f <;> decide

theorem encR_lt {op d a b v : Nat} (g : Guard) (h : op < 255) (hd : d < 2 ^ 6) (ha : a < 2 ^ 6) (hb : b < 2 ^ 6) (hv : v < 4) :
    encR op g d a b v < 2 ^ 32 := by
  have := encG_lt g
  unfold encR; omega

theorem encI_lt {op d a i : Nat} (g : Guard) (h : op < 255) (hd : d < 2 ^ 6) (ha : a < 2 ^ 6) (hi : i < 2 ^ 8) :
    encI op g d a i < 2 ^ 32 := by
  have := encG_lt g
  unfold encI; omega

theorem encB_lt {op o : Nat} (g : Guard) (h : op < 255) (ho : o < 2 ^ 20) : encB op g o < 2 ^ 32 := by
  have := encG_lt g
  unfold encB; omega

theorem encM_lt {op d a c z o : Nat} (g : Guard) (h : op < 255) (hd : d < 2 ^ 6) (ha : a < 2 ^ 6) (hc : c < 2 ^ 4) (hz : z < 4)
    (ho : o < 4) : encM op g d a c z o < 2 ^ 32 := by
  have := encG_lt g
  unfold encM; omega

theorem encE_lt {op a w t e : Nat} (g : Guard) (h : op < 255) (ha : a < 2 ^ 6) (hw : w < 2 ^ 4) (ht : t < 2 ^ 4)
    (he : e < 2 ^ 6) : encE op g a w t e < 2 ^ 32 := by
  have := encG_lt g
  unfold encE; omega

theorem encC_lt {op a b f v : Nat} (k : Toks) (h : op < 255) (ha : a < 2 ^ 6) (hb : b < 2 ^ 6) (hf : f < 2 ^ 4) (hv : v < 4) :
    encC op a b f k v < 2 ^ 32 := by
  have := encT_lt k
  unfold encC; omega

theorem encL_lt {s n v : Nat} (k : Toks) (hs : s < 2 ^ 4) (hn : n < 2 ^ 12) (hv : v < 4) : encL s n k v < 2 ^ 32 := by
  have := encT_lt k
  unfold encL; omega

theorem encX_lt {op d a b i : Nat} (h : op < 255) (hd : d < 2 ^ 4) (ha : a < 2 ^ 4) (hb : b < 2 ^ 4) (hi : i < 2 ^ 16) :
    encX op d a b i < 2 ^ 32 := by
  unfold encX; omega

/-- At most two words, each of 32 bits. -/
def Words.Statement (i : Instr) : Prop := (encode i).length ≤ 2 ∧ ∀ w ∈ encode i, w < 2 ^ 32

theorem Words.none {i : Instr} (h : encode i = []) : Words.Statement i := by simp [Words.Statement, h]

theorem Words.one {i : Instr} {w : Nat} (h : encode i = [w]) (hw : w < 2 ^ 32) : Words.Statement i := by
  refine ⟨by rw [h]; exact Nat.le_succ 1, fun v hv => ?_⟩
  rw [h, List.mem_singleton] at hv
  exact hv ▸ hw

theorem Words.two {i : Instr} {w l : Nat} (h : encode i = [w, l]) (hw : w < 2 ^ 32) (hl : l < 2 ^ 32) : Words.Statement i := by
  refine ⟨by rw [h]; exact Nat.le_refl 2, fun v hv => ?_⟩
  rw [h, List.mem_cons, List.mem_singleton] at hv
  exact hv.elim (· ▸ hw) (· ▸ hl)

/-! ## Every instruction -/

theorem Words.nop (g : Guard) : Statement (.nop g) :=
  one rfl (by apply encB_lt <;> omega)
theorem Words.doImm (c : BitVec 12) : Statement (.doImm c) :=
  one rfl (by omega)
theorem Words.doReg (r : BitVec 6) : Statement (.doReg r) :=
  one rfl (by omega)
theorem Words.enddo : Statement (.enddo) :=
  one rfl (by omega)
theorem Words.br (g : Guard) (o : BitVec 20) : Statement (.br g o) :=
  one rfl (by apply encB_lt <;> omega)
theorem Words.wait (g : Guard) (q : Fin 16) (n : BitVec 6) : Statement (.wait g q n) :=
  one rfl (by have := q.isLt; apply encB_lt <;> omega)
theorem Words.sig (g : Guard) (q : Fin 16) (n : BitVec 6) : Statement (.sig g q n) :=
  one rfl (by have := q.isLt; apply encB_lt <;> omega)
theorem Words.recv (n : Fin 8) : Statement (.recv n) :=
  one rfl (by have := n.isLt; omega)
theorem Words.send (g : Guard) (ln : BitVec 2) (n : Fin 8) (a : XReg) : Statement (.send g ln n a) :=
  one rfl (by have := n.isLt; have := a.isLt; apply encB_lt <;> omega)
theorem Words.trap (g : Guard) (c : BitVec 12) : Statement (.trap g c) :=
  one rfl (by apply encB_lt <;> omega)
theorem Words.park (g : Guard) : Statement (.park g) :=
  one rfl (by apply encB_lt <;> omega)
theorem Words.endParcel (g : Guard) : Statement (.endParcel g) :=
  one rfl (by apply encB_lt <;> omega)
theorem Words.bkpt (g : Guard) (c : BitVec 8) : Statement (.bkpt g c) :=
  one rfl (by apply encB_lt <;> omega)
theorem Words.add (g : Guard) (d a b : XReg) (v : BitVec 2) : Statement (.add g d a b v) :=
  one rfl (by have := d.isLt; have := a.isLt; have := b.isLt; apply encR_lt <;> omega)
theorem Words.sub (g : Guard) (d a b : XReg) (v : BitVec 2) : Statement (.sub g d a b v) :=
  one rfl (by have := d.isLt; have := a.isLt; have := b.isLt; apply encR_lt <;> omega)
theorem Words.mul (g : Guard) (d a b : XReg) (v : BitVec 2) : Statement (.mul g d a b v) :=
  one rfl (by have := d.isLt; have := a.isLt; have := b.isLt; apply encR_lt <;> omega)
theorem Words.mulh (g : Guard) (d a b : XReg) : Statement (.mulh g d a b) :=
  one rfl (by have := d.isLt; have := a.isLt; have := b.isLt; apply encR_lt <;> omega)
theorem Words.mulhu (g : Guard) (d a b : XReg) : Statement (.mulhu g d a b) :=
  one rfl (by have := d.isLt; have := a.isLt; have := b.isLt; apply encR_lt <;> omega)
theorem Words.div (g : Guard) (d a b : XReg) : Statement (.div g d a b) :=
  one rfl (by have := d.isLt; have := a.isLt; have := b.isLt; apply encR_lt <;> omega)
theorem Words.divu (g : Guard) (d a b : XReg) : Statement (.divu g d a b) :=
  one rfl (by have := d.isLt; have := a.isLt; have := b.isLt; apply encR_lt <;> omega)
theorem Words.rem (g : Guard) (d a b : XReg) : Statement (.rem g d a b) :=
  one rfl (by have := d.isLt; have := a.isLt; have := b.isLt; apply encR_lt <;> omega)
theorem Words.remu (g : Guard) (d a b : XReg) : Statement (.remu g d a b) :=
  one rfl (by have := d.isLt; have := a.isLt; have := b.isLt; apply encR_lt <;> omega)
theorem Words.and (g : Guard) (d a b : XReg) : Statement (.and g d a b) :=
  one rfl (by have := d.isLt; have := a.isLt; have := b.isLt; apply encR_lt <;> omega)
theorem Words.or (g : Guard) (d a b : XReg) : Statement (.or g d a b) :=
  one rfl (by have := d.isLt; have := a.isLt; have := b.isLt; apply encR_lt <;> omega)
theorem Words.xor (g : Guard) (d a b : XReg) : Statement (.xor g d a b) :=
  one rfl (by have := d.isLt; have := a.isLt; have := b.isLt; apply encR_lt <;> omega)
theorem Words.shl (g : Guard) (d a b : XReg) (v : BitVec 2) : Statement (.shl g d a b v) :=
  one rfl (by have := d.isLt; have := a.isLt; have := b.isLt; apply encR_lt <;> omega)
theorem Words.shr (g : Guard) (d a b : XReg) (v : BitVec 2) : Statement (.shr g d a b v) :=
  one rfl (by have := d.isLt; have := a.isLt; have := b.isLt; apply encR_lt <;> omega)
theorem Words.sra (g : Guard) (d a b : XReg) (v : BitVec 2) : Statement (.sra g d a b v) :=
  one rfl (by have := d.isLt; have := a.isLt; have := b.isLt; apply encR_lt <;> omega)
theorem Words.min (g : Guard) (d a b : XReg) : Statement (.min g d a b) :=
  one rfl (by have := d.isLt; have := a.isLt; have := b.isLt; apply encR_lt <;> omega)
theorem Words.max (g : Guard) (d a b : XReg) : Statement (.max g d a b) :=
  one rfl (by have := d.isLt; have := a.isLt; have := b.isLt; apply encR_lt <;> omega)
theorem Words.minu (g : Guard) (d a b : XReg) : Statement (.minu g d a b) :=
  one rfl (by have := d.isLt; have := a.isLt; have := b.isLt; apply encR_lt <;> omega)
theorem Words.maxu (g : Guard) (d a b : XReg) : Statement (.maxu g d a b) :=
  one rfl (by have := d.isLt; have := a.isLt; have := b.isLt; apply encR_lt <;> omega)
theorem Words.addi (g : Guard) (d a : XReg) (i : BitVec 8) : Statement (.addi g d a i) :=
  one rfl (by have := d.isLt; have := a.isLt; apply encI_lt <;> omega)
theorem Words.andi (g : Guard) (d a : XReg) (i : BitVec 8) : Statement (.andi g d a i) :=
  one rfl (by have := d.isLt; have := a.isLt; apply encI_lt <;> omega)
theorem Words.ori (g : Guard) (d a : XReg) (i : BitVec 8) : Statement (.ori g d a i) :=
  one rfl (by have := d.isLt; have := a.isLt; apply encI_lt <;> omega)
theorem Words.xori (g : Guard) (d a : XReg) (i : BitVec 8) : Statement (.xori g d a i) :=
  one rfl (by have := d.isLt; have := a.isLt; apply encI_lt <;> omega)
theorem Words.shli (g : Guard) (d a : XReg) (i : BitVec 6) : Statement (.shli g d a i) :=
  one rfl (by have := d.isLt; have := a.isLt; apply encI_lt <;> omega)
theorem Words.shri (g : Guard) (d a : XReg) (i : BitVec 6) : Statement (.shri g d a i) :=
  one rfl (by have := d.isLt; have := a.isLt; apply encI_lt <;> omega)
theorem Words.srai (g : Guard) (d a : XReg) (i : BitVec 6) : Statement (.srai g d a i) :=
  one rfl (by have := d.isLt; have := a.isLt; apply encI_lt <;> omega)
theorem Words.li (g : Guard) (d : XReg) (lit : W32) : Statement (.li g d lit) :=
  two rfl (by have := d.isLt; apply encI_lt <;> omega) (by have := d.isLt; omega)
theorem Words.lih (g : Guard) (d : XReg) (lit : W32) : Statement (.lih g d lit) :=
  two rfl (by have := d.isLt; apply encI_lt <;> omega) (by have := d.isLt; omega)
theorem Words.lea (g : Guard) (d : XReg) (lit : W32) : Statement (.lea g d lit) :=
  two rfl (by have := d.isLt; apply encI_lt <;> omega) (by have := d.isLt; omega)
theorem Words.cmpEq (g : Guard) (d : PReg) (a b : XReg) : Statement (.cmpEq g d a b) :=
  one rfl (by have := d.isLt; have := a.isLt; have := b.isLt; apply encR_lt <;> omega)
theorem Words.cmpNe (g : Guard) (d : PReg) (a b : XReg) : Statement (.cmpNe g d a b) :=
  one rfl (by have := d.isLt; have := a.isLt; have := b.isLt; apply encR_lt <;> omega)
theorem Words.cmpLt (g : Guard) (d : PReg) (a b : XReg) : Statement (.cmpLt g d a b) :=
  one rfl (by have := d.isLt; have := a.isLt; have := b.isLt; apply encR_lt <;> omega)
theorem Words.cmpLtu (g : Guard) (d : PReg) (a b : XReg) : Statement (.cmpLtu g d a b) :=
  one rfl (by have := d.isLt; have := a.isLt; have := b.isLt; apply encR_lt <;> omega)
theorem Words.cmpGe (g : Guard) (d : PReg) (a b : XReg) : Statement (.cmpGe g d a b) :=
  one rfl (by have := d.isLt; have := a.isLt; have := b.isLt; apply encR_lt <;> omega)
theorem Words.cmpGeu (g : Guard) (d : PReg) (a b : XReg) : Statement (.cmpGeu g d a b) :=
  one rfl (by have := d.isLt; have := a.isLt; have := b.isLt; apply encR_lt <;> omega)
theorem Words.pand (g : Guard) (d a b : PReg) : Statement (.pand g d a b) :=
  one rfl (by have := d.isLt; have := a.isLt; have := b.isLt; apply encR_lt <;> omega)
theorem Words.por (g : Guard) (d a b : PReg) : Statement (.por g d a b) :=
  one rfl (by have := d.isLt; have := a.isLt; have := b.isLt; apply encR_lt <;> omega)
theorem Words.pxor (g : Guard) (d a b : PReg) : Statement (.pxor g d a b) :=
  one rfl (by have := d.isLt; have := a.isLt; have := b.isLt; apply encR_lt <;> omega)
theorem Words.pandn (g : Guard) (d a b : PReg) : Statement (.pandn g d a b) :=
  one rfl (by have := d.isLt; have := a.isLt; have := b.isLt; apply encR_lt <;> omega)
theorem Words.clz (g : Guard) (d a : XReg) : Statement (.clz g d a) :=
  one rfl (by have := d.isLt; have := a.isLt; apply encR_lt <;> omega)
theorem Words.ctz (g : Guard) (d a : XReg) : Statement (.ctz g d a) :=
  one rfl (by have := d.isLt; have := a.isLt; apply encR_lt <;> omega)
theorem Words.popc (g : Guard) (d a : XReg) : Statement (.popc g d a) :=
  one rfl (by have := d.isLt; have := a.isLt; apply encR_lt <;> omega)
theorem Words.brev (g : Guard) (d a : XReg) : Statement (.brev g d a) :=
  one rfl (by have := d.isLt; have := a.isLt; apply encR_lt <;> omega)
theorem Words.bperm (g : Guard) (d a b : XReg) : Statement (.bperm g d a b) :=
  one rfl (by have := d.isLt; have := a.isLt; have := b.isLt; apply encR_lt <;> omega)
theorem Words.clmull (g : Guard) (d a b : XReg) : Statement (.clmull g d a b) :=
  one rfl (by have := d.isLt; have := a.isLt; have := b.isLt; apply encR_lt <;> omega)
theorem Words.clmulh (g : Guard) (d a b : XReg) : Statement (.clmulh g d a b) :=
  one rfl (by have := d.isLt; have := a.isLt; have := b.isLt; apply encR_lt <;> omega)
theorem Words.seedadv (g : Guard) (d a b : XReg) : Statement (.seedadv g d a b) :=
  one rfl (by have := d.isLt; have := a.isLt; have := b.isLt; apply encR_lt <;> omega)
theorem Words.fadd (g : Guard) (d a b : XReg) (m : BitVec 2) : Statement (.fadd g d a b m) :=
  one rfl (by have := d.isLt; have := a.isLt; have := b.isLt; apply encR_lt <;> omega)
theorem Words.fsub (g : Guard) (d a b : XReg) (m : BitVec 2) : Statement (.fsub g d a b m) :=
  one rfl (by have := d.isLt; have := a.isLt; have := b.isLt; apply encR_lt <;> omega)
theorem Words.fmul (g : Guard) (d a b : XReg) (m : BitVec 2) : Statement (.fmul g d a b m) :=
  one rfl (by have := d.isLt; have := a.isLt; have := b.isLt; apply encR_lt <;> omega)
theorem Words.ffma (g : Guard) (d a b : XReg) (m : BitVec 2) : Statement (.ffma g d a b m) :=
  one rfl (by have := d.isLt; have := a.isLt; have := b.isLt; apply encR_lt <;> omega)
theorem Words.fmin (g : Guard) (d a b : XReg) : Statement (.fmin g d a b) :=
  one rfl (by have := d.isLt; have := a.isLt; have := b.isLt; apply encR_lt <;> omega)
theorem Words.fmax (g : Guard) (d a b : XReg) : Statement (.fmax g d a b) :=
  one rfl (by have := d.isLt; have := a.isLt; have := b.isLt; apply encR_lt <;> omega)
theorem Words.feq (g : Guard) (d : PReg) (a b : XReg) : Statement (.feq g d a b) :=
  one rfl (by have := d.isLt; have := a.isLt; have := b.isLt; apply encR_lt <;> omega)
theorem Words.flt (g : Guard) (d : PReg) (a b : XReg) : Statement (.flt g d a b) :=
  one rfl (by have := d.isLt; have := a.isLt; have := b.isLt; apply encR_lt <;> omega)
theorem Words.fle (g : Guard) (d : PReg) (a b : XReg) : Statement (.fle g d a b) :=
  one rfl (by have := d.isLt; have := a.isLt; have := b.isLt; apply encR_lt <;> omega)
theorem Words.icvtf (g : Guard) (d a : XReg) (m : BitVec 2) : Statement (.icvtf g d a m) :=
  one rfl (by have := d.isLt; have := a.isLt; apply encR_lt <;> omega)
theorem Words.ucvtf (g : Guard) (d a : XReg) (m : BitVec 2) : Statement (.ucvtf g d a m) :=
  one rfl (by have := d.isLt; have := a.isLt; apply encR_lt <;> omega)
theorem Words.fcvti (g : Guard) (d a : XReg) (m : BitVec 2) : Statement (.fcvti g d a m) :=
  one rfl (by have := d.isLt; have := a.isLt; apply encR_lt <;> omega)
theorem Words.fcvtu (g : Guard) (d a : XReg) (m : BitVec 2) : Statement (.fcvtu g d a m) :=
  one rfl (by have := d.isLt; have := a.isLt; apply encR_lt <;> omega)
theorem Words.fcvtb (g : Guard) (d a : XReg) (m : BitVec 2) : Statement (.fcvtb g d a m) :=
  one rfl (by have := d.isLt; have := a.isLt; apply encR_lt <;> omega)
theorem Words.bcvtf (g : Guard) (d a : XReg) : Statement (.bcvtf g d a) :=
  one rfl (by have := d.isLt; have := a.isLt; apply encR_lt <;> omega)
theorem Words.rcp (g : Guard) (l : Fin 4) (a : XReg) : Statement (.rcp g l a) :=
  one rfl (by have := l.isLt; have := a.isLt; apply encR_lt <;> omega)
theorem Words.rsq (g : Guard) (l : Fin 4) (a : XReg) : Statement (.rsq g l a) :=
  one rfl (by have := l.isLt; have := a.isLt; apply encR_lt <;> omega)
theorem Words.exp2 (g : Guard) (l : Fin 4) (a : XReg) : Statement (.exp2 g l a) :=
  one rfl (by have := l.isLt; have := a.isLt; apply encR_lt <;> omega)
theorem Words.log2 (g : Guard) (l : Fin 4) (a : XReg) : Statement (.log2 g l a) :=
  one rfl (by have := l.isLt; have := a.isLt; apply encR_lt <;> omega)
theorem Words.mvl (g : Guard) (d : XReg) (l : Fin 4) : Statement (.mvl g d l) :=
  one rfl (by have := d.isLt; have := l.isLt; apply encR_lt <;> omega)
theorem Words.sfuLanding (c : Nat) (l : Fin 4) : Statement (.sfuLanding c l) := none rfl
theorem Words.call (g : Guard) (o : BitVec 20) : Statement (.call g o) :=
  one rfl (by apply encB_lt <;> omega)
theorem Words.calli (g : Guard) (a : XReg) : Statement (.calli g a) :=
  one rfl (by have := a.isLt; apply encR_lt <;> omega)
theorem Words.jmpi (g : Guard) (a : XReg) : Statement (.jmpi g a) :=
  one rfl (by have := a.isLt; apply encR_lt <;> omega)
theorem Words.eret (g : Guard) : Statement (.eret g) :=
  one rfl (by apply encR_lt <;> omega)
theorem Words.yield : Statement (.yield) :=
  one rfl (by omega)
theorem Words.bar (g : Guard) (l : BitVec 8) : Statement (.bar g l) :=
  one rfl (by apply encI_lt <;> omega)
theorem Words.csrr (g : Guard) (d : XReg) (n : BitVec 12) : Statement (.csrr g d n) :=
  one rfl (by have := d.isLt; apply encB_lt <;> omega)
theorem Words.csrw (g : Guard) (a : XReg) (n : BitVec 12) : Statement (.csrw g a n) :=
  one rfl (by have := a.isLt; apply encB_lt <;> omega)
theorem Words.ld (g : Guard) (d a : XReg) (c : BitVec 4) (z : BitVec 2) : Statement (.ld g d a c z) :=
  one rfl (by have := d.isLt; have := a.isLt; apply encM_lt <;> omega)
theorem Words.lds (g : Guard) (d a : XReg) (c : BitVec 4) (z : BitVec 2) : Statement (.lds g d a c z) :=
  one rfl (by have := d.isLt; have := a.isLt; apply encM_lt <;> omega)
theorem Words.st (g : Guard) (d a : XReg) (c : BitVec 4) (z : BitVec 2) : Statement (.st g d a c z) :=
  one rfl (by have := d.isLt; have := a.isLt; apply encM_lt <;> omega)
theorem Words.monw (g : Guard) (d a : XReg) (c : BitVec 4) (z : BitVec 2) : Statement (.monw g d a c z) :=
  one rfl (by have := d.isLt; have := a.isLt; apply encM_lt <;> omega)
theorem Words.monwWake (c : Nat) : Statement (.monwWake c) := none rfl
theorem Words.monwTimeout (c : Nat) : Statement (.monwTimeout c) := none rfl
theorem Words.lda (g : Guard) (d a : XReg) (c : BitVec 4) (z r : BitVec 2) : Statement (.lda g d a c z r) :=
  one rfl (by have := d.isLt; have := a.isLt; apply encM_lt <;> omega)
theorem Words.ldaSys (g : Guard) (d a : XReg) (c : BitVec 4) (z : BitVec 2) : Statement (.ldaSys g d a c z) :=
  one rfl (by have := d.isLt; have := a.isLt; apply encM_lt <;> omega)
theorem Words.str (g : Guard) (d a : XReg) (c : BitVec 4) (z r : BitVec 2) : Statement (.str g d a c z r) :=
  one rfl (by have := d.isLt; have := a.isLt; apply encM_lt <;> omega)
theorem Words.strSys (g : Guard) (d a : XReg) (c : BitVec 4) (z : BitVec 2) : Statement (.strSys g d a c z) :=
  one rfl (by have := d.isLt; have := a.isLt; apply encM_lt <;> omega)
theorem Words.fence (g : Guard) (m : BitVec 16) : Statement (.fence g m) :=
  one rfl (by apply encB_lt <;> omega)
theorem Words.aadd (g : Guard) (d a b : XReg) (c : BitVec 4) (z o : BitVec 2) (sc : BitVec 3) : Statement (.aadd g d a b c z o sc) :=
  two rfl (by have := d.isLt; have := a.isLt; have := b.isLt; apply encM_lt <;> omega) (by have := d.isLt; have := a.isLt; have := b.isLt; omega)
theorem Words.aand (g : Guard) (d a b : XReg) (c : BitVec 4) (z o : BitVec 2) (sc : BitVec 3) : Statement (.aand g d a b c z o sc) :=
  two rfl (by have := d.isLt; have := a.isLt; have := b.isLt; apply encM_lt <;> omega) (by have := d.isLt; have := a.isLt; have := b.isLt; omega)
theorem Words.aor (g : Guard) (d a b : XReg) (c : BitVec 4) (z o : BitVec 2) (sc : BitVec 3) : Statement (.aor g d a b c z o sc) :=
  two rfl (by have := d.isLt; have := a.isLt; have := b.isLt; apply encM_lt <;> omega) (by have := d.isLt; have := a.isLt; have := b.isLt; omega)
theorem Words.axor (g : Guard) (d a b : XReg) (c : BitVec 4) (z o : BitVec 2) (sc : BitVec 3) : Statement (.axor g d a b c z o sc) :=
  two rfl (by have := d.isLt; have := a.isLt; have := b.isLt; apply encM_lt <;> omega) (by have := d.isLt; have := a.isLt; have := b.isLt; omega)
theorem Words.amin (g : Guard) (d a b : XReg) (c : BitVec 4) (z o : BitVec 2) (sc : BitVec 3) : Statement (.amin g d a b c z o sc) :=
  two rfl (by have := d.isLt; have := a.isLt; have := b.isLt; apply encM_lt <;> omega) (by have := d.isLt; have := a.isLt; have := b.isLt; omega)
theorem Words.amax (g : Guard) (d a b : XReg) (c : BitVec 4) (z o : BitVec 2) (sc : BitVec 3) : Statement (.amax g d a b c z o sc) :=
  two rfl (by have := d.isLt; have := a.isLt; have := b.isLt; apply encM_lt <;> omega) (by have := d.isLt; have := a.isLt; have := b.isLt; omega)
theorem Words.aminu (g : Guard) (d a b : XReg) (c : BitVec 4) (z o : BitVec 2) (sc : BitVec 3) : Statement (.aminu g d a b c z o sc) :=
  two rfl (by have := d.isLt; have := a.isLt; have := b.isLt; apply encM_lt <;> omega) (by have := d.isLt; have := a.isLt; have := b.isLt; omega)
theorem Words.amaxu (g : Guard) (d a b : XReg) (c : BitVec 4) (z o : BitVec 2) (sc : BitVec 3) : Statement (.amaxu g d a b c z o sc) :=
  two rfl (by have := d.isLt; have := a.isLt; have := b.isLt; apply encM_lt <;> omega) (by have := d.isLt; have := a.isLt; have := b.isLt; omega)
theorem Words.aswap (g : Guard) (d a b : XReg) (c : BitVec 4) (z o : BitVec 2) (sc : BitVec 3) : Statement (.aswap g d a b c z o sc) :=
  two rfl (by have := d.isLt; have := a.isLt; have := b.isLt; apply encM_lt <;> omega) (by have := d.isLt; have := a.isLt; have := b.isLt; omega)
theorem Words.cas (g : Guard) (d a b x : XReg) (c : BitVec 4) (z o : BitVec 2) (sc : BitVec 3) : Statement (.cas g d a b x c z o sc) :=
  two rfl (by have := d.isLt; have := a.isLt; have := b.isLt; have := x.isLt; apply encM_lt <;> omega) (by have := d.isLt; have := a.isLt; have := b.isLt; have := x.isLt; omega)
theorem Words.launch (g : Guard) (q : Fin 16) (a b : XReg) : Statement (.launch g q a b) :=
  one rfl (by have := q.isLt; have := a.isLt; have := b.isLt; apply encR_lt <;> omega)
theorem Words.sdef (g : Guard) (s : Fin 16) (a : XReg) (arm : Bool) (w : BitVec 3) : Statement (.sdef g s a arm w) :=
  one rfl (by have := s.isLt; have := a.isLt; apply encI_lt <;> (try split) <;> omega)
theorem Words.sldb (g : Guard) (s : Fin 16) (a : XReg) : Statement (.sldb g s a) :=
  one rfl (by have := s.isLt; have := a.isLt; apply encR_lt <;> omega)
theorem Words.soff (g : Guard) (s : Fin 16) (a : XReg) : Statement (.soff g s a) :=
  one rfl (by have := s.isLt; have := a.isLt; apply encR_lt <;> omega)
theorem Words.ecrd (g : Guard) (d : XReg) (e : Fin 64) : Statement (.ecrd g d e) :=
  one rfl (by have := d.isLt; have := e.isLt; apply encI_lt <;> omega)
theorem Words.cpy (g : Guard) (a : XReg) (w t : Fin 16) (e : Fin 64) : Statement (.cpy g a w t e) :=
  one rfl (by have := a.isLt; have := w.isLt; have := t.isLt; have := e.isLt; apply encE_lt <;> omega)
theorem Words.cpyq (g : Guard) (a : XReg) (w t : Fin 16) (e : Fin 64) : Statement (.cpyq g a w t e) :=
  one rfl (by have := a.isLt; have := w.isLt; have := t.isLt; have := e.isLt; apply encE_lt <;> omega)
theorem Words.cpyrel (g : Guard) (a : XReg) (w t : Fin 16) (e : Fin 64) : Statement (.cpyrel g a w t e) :=
  one rfl (by have := a.isLt; have := w.isLt; have := t.isLt; have := e.isLt; apply encE_lt <;> omega)
theorem Words.cpinv (g : Guard) (a : XReg) : Statement (.cpinv g a) :=
  one rfl (by have := a.isLt; apply encE_lt <;> omega)
theorem Words.cpinvAll (g : Guard) : Statement (.cpinvAll g) :=
  one rfl (by apply encE_lt <;> omega)
theorem Words.ecpost (g : Guard) (a : XReg) (e : Fin 64) : Statement (.ecpost g a e) :=
  one rfl (by have := a.isLt; have := e.isLt; apply encE_lt <;> omega)
theorem Words.ecwait (g : Guard) (a : XReg) (e : Fin 64) : Statement (.ecwait g a e) :=
  one rfl (by have := a.isLt; have := e.isLt; apply encE_lt <;> omega)
theorem Words.kvapp (g : Guard) (a : XReg) (w t : Fin 16) (e : Fin 64) : Statement (.kvapp g a w t e) :=
  one rfl (by have := a.isLt; have := w.isLt; have := t.isLt; have := e.isLt; apply encE_lt <;> omega)
theorem Words.kvsel (g : Guard) (a : XReg) (w t : Fin 16) (e : Fin 64) : Statement (.kvsel g a w t e) :=
  one rfl (by have := a.isLt; have := w.isLt; have := t.isLt; have := e.isLt; apply encE_lt <;> omega)
theorem Words.kvatt (g : Guard) (a : XReg) (w t : Fin 16) (e : Fin 64) : Statement (.kvatt g a w t e) :=
  one rfl (by have := a.isLt; have := w.isLt; have := t.isLt; have := e.isLt; apply encE_lt <;> omega)
theorem Words.kvpre (g : Guard) (a : XReg) (w t : Fin 16) (e : Fin 64) : Statement (.kvpre g a w t e) :=
  one rfl (by have := a.isLt; have := w.isLt; have := t.isLt; have := e.isLt; apply encE_lt <;> omega)
theorem Words.xstart (g : Guard) (a : XReg) (w t : Fin 16) : Statement (.xstart g a w t) :=
  one rfl (by have := a.isLt; have := w.isLt; have := t.isLt; apply encE_lt <;> omega)
theorem Words.selact (g : Guard) (a : XReg) (w t : Fin 16) (e : Fin 64) : Statement (.selact g a w t e) :=
  one rfl (by have := a.isLt; have := w.isLt; have := t.isLt; have := e.isLt; apply encE_lt <;> omega)
theorem Words.read (s : Fin 16) (n : BitVec 12) (k : Toks) (v : BitVec 2) : Statement (.read s n k v) :=
  one rfl (by have := s.isLt; apply encL_lt <;> omega)
theorem Words.write (s : Fin 16) (n : BitVec 12) (k : Toks) (v : BitVec 2) : Statement (.write s n k v) :=
  one rfl (by have := s.isLt; apply encL_lt <;> omega)
theorem Words.tileArrival (c : Nat) (s : Fin 16) (k : Nat) : Statement (.tileArrival c s k) := none rfl
theorem Words.tileStorePerformed (c : Nat) (s : Fin 16) : Statement (.tileStorePerformed c s) := none rfl
theorem Words.tlift (a : Opnd) (k : Toks) : Statement (.tlift a k) :=
  one rfl (by have := encO_lt a; apply encC_lt <;> omega)
theorem Words.tsink (a b : Opnd) (k : Toks) : Statement (.tsink a b k) :=
  one rfl (by have := encO_lt a; have := encO_lt b; apply encC_lt <;> omega)
theorem Words.tdup (k : Toks) : Statement (.tdup k) :=
  one rfl (by apply encC_lt <;> omega)
theorem Words.tdrop (k : Toks) : Statement (.tdrop k) :=
  one rfl (by apply encC_lt <;> omega)
theorem Words.tswap (k : Toks) : Statement (.tswap k) :=
  one rfl (by apply encC_lt <;> omega)
theorem Words.tover (k : Toks) : Statement (.tover k) :=
  one rfl (by apply encC_lt <;> omega)
theorem Words.tpick (d : BitVec 12) (k : Toks) : Statement (.tpick d k) :=
  one rfl (by have := encT_lt k; have := d.isLt; unfold encC; omega)
theorem Words.trot (d : BitVec 12) (k : Toks) : Statement (.trot d k) :=
  one rfl (by have := encT_lt k; have := d.isLt; unfold encC; omega)
theorem Words.trrt (d : BitVec 12) (k : Toks) : Statement (.trrt d k) :=
  one rfl (by have := encT_lt k; have := d.isLt; unfold encC; omega)
theorem Words.tzero (f : Fmt) (k : Toks) : Statement (.tzero f k) :=
  one rfl (by have := code_lt f; apply encC_lt <;> omega)
theorem Words.tsplat (n : Fin 8) (f : Fmt) (k : Toks) : Statement (.tsplat n f k) :=
  one rfl (by have := n.isLt; have := code_lt f; apply encC_lt <;> omega)
theorem Words.tacc (k : Toks) : Statement (.tacc k) :=
  one rfl (by apply encC_lt <;> omega)
theorem Words.tseedCnt (b : Fin 2) (k : Toks) : Statement (.tseedCnt b k) :=
  one rfl (by have := b.isLt; apply encC_lt <;> omega)
theorem Words.tseedStream (a : Opnd) (k : Toks) : Statement (.tseedStream a k) :=
  one rfl (by have := encO_lt a; apply encC_lt <;> omega)
theorem Words.tmma (a b : Opnd) (p : BitVec 4) (k : Toks) : Statement (.tmma a b p k) :=
  one rfl (by have := encO_lt a; have := encO_lt b; apply encC_lt <;> omega)
theorem Words.tdrain (a : Opnd) (f : Fmt) (k : Toks) : Statement (.tdrain a f k) :=
  one rfl (by have := encO_lt a; have := code_lt f; apply encC_lt <;> omega)
theorem Words.tgen (a : Opnd) (k : Toks) : Statement (.tgen a k) :=
  one rfl (by have := encO_lt a; apply encC_lt <;> omega)
theorem Words.seedfit (a b : Opnd) (l : Fin 4) (f : BitVec 2) (k : Toks) : Statement (.seedfit a b l f k) :=
  one rfl (by have := encO_lt a; have := encO_lt b; have := l.isLt; apply encC_lt <;> omega)
theorem Words.tadd (a b : Opnd) (f : Fmt) (k : Toks) (v : BitVec 2) : Statement (.tadd a b f k v) :=
  one rfl (by have := encO_lt a; have := encO_lt b; have := code_lt f; apply encC_lt <;> omega)
theorem Words.taddS (a b : Opnd) (f : Fmt) (k : Toks) (v : BitVec 2) : Statement (.taddS a b f k v) :=
  one rfl (by have := encO_lt a; have := encO_lt b; have := code_lt f; apply encC_lt <;> omega)
theorem Words.taddT (a b : Opnd) (f : Fmt) (k : Toks) (v : BitVec 2) : Statement (.taddT a b f k v) :=
  one rfl (by have := encO_lt a; have := encO_lt b; have := code_lt f; apply encC_lt <;> omega)
theorem Words.tsub (a b : Opnd) (f : Fmt) (k : Toks) (v : BitVec 2) : Statement (.tsub a b f k v) :=
  one rfl (by have := encO_lt a; have := encO_lt b; have := code_lt f; apply encC_lt <;> omega)
theorem Words.tsubS (a b : Opnd) (f : Fmt) (k : Toks) (v : BitVec 2) : Statement (.tsubS a b f k v) :=
  one rfl (by have := encO_lt a; have := encO_lt b; have := code_lt f; apply encC_lt <;> omega)
theorem Words.tsubT (a b : Opnd) (f : Fmt) (k : Toks) (v : BitVec 2) : Statement (.tsubT a b f k v) :=
  one rfl (by have := encO_lt a; have := encO_lt b; have := code_lt f; apply encC_lt <;> omega)
theorem Words.tmul (a b : Opnd) (f : Fmt) (k : Toks) (v : BitVec 2) : Statement (.tmul a b f k v) :=
  one rfl (by have := encO_lt a; have := encO_lt b; have := code_lt f; apply encC_lt <;> omega)
theorem Words.tfma (a b : Opnd) (f : Fmt) (k : Toks) (v : BitVec 2) : Statement (.tfma a b f k v) :=
  one rfl (by have := encO_lt a; have := encO_lt b; have := code_lt f; apply encC_lt <;> omega)
theorem Words.tmin (a b : Opnd) (f : Fmt) (k : Toks) (v : BitVec 2) : Statement (.tmin a b f k v) :=
  one rfl (by have := encO_lt a; have := encO_lt b; have := code_lt f; apply encC_lt <;> omega)
theorem Words.tmax (a b : Opnd) (f : Fmt) (k : Toks) (v : BitVec 2) : Statement (.tmax a b f k v) :=
  one rfl (by have := encO_lt a; have := encO_lt b; have := code_lt f; apply encC_lt <;> omega)
theorem Words.tabs (a : Opnd) (f : Fmt) (k : Toks) (v : BitVec 2) : Statement (.tabs a f k v) :=
  one rfl (by have := encO_lt a; have := code_lt f; apply encC_lt <;> omega)
theorem Words.tneg (a : Opnd) (f : Fmt) (k : Toks) (v : BitVec 2) : Statement (.tneg a f k v) :=
  one rfl (by have := encO_lt a; have := code_lt f; apply encC_lt <;> omega)
theorem Words.texp2 (a : Opnd) (f : Fmt) (k : Toks) (v : BitVec 2) : Statement (.texp2 a f k v) :=
  one rfl (by have := encO_lt a; have := code_lt f; apply encC_lt <;> omega)
theorem Words.trcp (a : Opnd) (f : Fmt) (k : Toks) (v : BitVec 2) : Statement (.trcp a f k v) :=
  one rfl (by have := encO_lt a; have := code_lt f; apply encC_lt <;> omega)
theorem Words.trsum (a : Opnd) (f : Fmt) (k : Toks) (v : BitVec 2) : Statement (.trsum a f k v) :=
  one rfl (by have := encO_lt a; have := code_lt f; apply encC_lt <;> omega)
theorem Words.trmax (a : Opnd) (f : Fmt) (k : Toks) (v : BitVec 2) : Statement (.trmax a f k v) :=
  one rfl (by have := encO_lt a; have := code_lt f; apply encC_lt <;> omega)
theorem Words.trmin (a : Opnd) (f : Fmt) (k : Toks) (v : BitVec 2) : Statement (.trmin a f k v) :=
  one rfl (by have := encO_lt a; have := code_lt f; apply encC_lt <;> omega)
theorem Words.tcmpeq (a b : Opnd) (f : Fmt) (k : Toks) (v : BitVec 2) : Statement (.tcmpeq a b f k v) :=
  one rfl (by have := encO_lt a; have := encO_lt b; have := code_lt f; apply encC_lt <;> omega)
theorem Words.tcmplt (a b : Opnd) (f : Fmt) (k : Toks) (v : BitVec 2) : Statement (.tcmplt a b f k v) :=
  one rfl (by have := encO_lt a; have := encO_lt b; have := code_lt f; apply encC_lt <;> omega)
theorem Words.tcmple (a b : Opnd) (f : Fmt) (k : Toks) (v : BitVec 2) : Statement (.tcmple a b f k v) :=
  one rfl (by have := encO_lt a; have := encO_lt b; have := code_lt f; apply encC_lt <;> omega)
theorem Words.tsel (a b : Opnd) (f : Fmt) (k : Toks) (v : BitVec 2) : Statement (.tsel a b f k v) :=
  one rfl (by have := encO_lt a; have := encO_lt b; have := code_lt f; apply encC_lt <;> omega)
theorem Words.tperm (a b : Opnd) (f : Fmt) (k : Toks) (v : BitVec 2) : Statement (.tperm a b f k v) :=
  one rfl (by have := encO_lt a; have := encO_lt b; have := code_lt f; apply encC_lt <;> omega)
theorem Words.txpose (a : Opnd) (f : Fmt) (k : Toks) (v : BitVec 2) : Statement (.txpose a f k v) :=
  one rfl (by have := encO_lt a; have := code_lt f; apply encC_lt <;> omega)
theorem Words.tand (a b : Opnd) (f : Fmt) (k : Toks) (v : BitVec 2) : Statement (.tand a b f k v) :=
  one rfl (by have := encO_lt a; have := encO_lt b; have := code_lt f; apply encC_lt <;> omega)
theorem Words.tor (a b : Opnd) (f : Fmt) (k : Toks) (v : BitVec 2) : Statement (.tor a b f k v) :=
  one rfl (by have := encO_lt a; have := encO_lt b; have := code_lt f; apply encC_lt <;> omega)
theorem Words.txor (a b : Opnd) (f : Fmt) (k : Toks) (v : BitVec 2) : Statement (.txor a b f k v) :=
  one rfl (by have := encO_lt a; have := encO_lt b; have := code_lt f; apply encC_lt <;> omega)
theorem Words.tnot (a : Opnd) (f : Fmt) (k : Toks) (v : BitVec 2) : Statement (.tnot a f k v) :=
  one rfl (by have := encO_lt a; have := code_lt f; apply encC_lt <;> omega)
theorem Words.tshl (a : Opnd) (i : BitVec 6) (f : Fmt) (k : Toks) (v : BitVec 2) : Statement (.tshl a i f k v) :=
  one rfl (by have := encO_lt a; have := code_lt f; apply encC_lt <;> omega)
theorem Words.tshr (a : Opnd) (i : BitVec 6) (f : Fmt) (k : Toks) (v : BitVec 2) : Statement (.tshr a i f k v) :=
  one rfl (by have := encO_lt a; have := code_lt f; apply encC_lt <;> omega)
theorem Words.tsra (a : Opnd) (i : BitVec 6) (f : Fmt) (k : Toks) (v : BitVec 2) : Statement (.tsra a i f k v) :=
  one rfl (by have := encO_lt a; have := code_lt f; apply encC_lt <;> omega)
theorem Words.tcvt (src : Fmt) (a b : Opnd) (f : Fmt) (k : Toks) (m : Fin 4) : Statement (.tcvt src a b f k m) :=
  one rfl (by have := code_lt src; have := encO_lt a; have := encO_lt b; have := code_lt f; have := m.isLt; apply encC_lt <;> omega)
theorem Words.tqnt (src : Fmt) (a b : Opnd) (f : Fmt) (k : Toks) (m : Fin 4) : Statement (.tqnt src a b f k m) :=
  one rfl (by have := code_lt src; have := encO_lt a; have := encO_lt b; have := code_lt f; have := m.isLt; apply encC_lt <;> omega)
theorem Words.cCommit (c : Nat) : Statement (.cCommit c) := none rfl
theorem Words.sigPushDeferred (c : Nat) : Statement (.sigPushDeferred c) := none rfl
theorem Words.trapUnwind (c : Nat) : Statement (.trapUnwind c) := none rfl
theorem Words.anticipationLift (c : Nat) : Statement (.anticipationLift c) := none rfl
theorem Words.stampReached (cl id : Nat) : Statement (.stampReached cl id) := none rfl
theorem Words.engineCommandStart (cl id : Nat) : Statement (.engineCommandStart cl id) := none rfl
theorem Words.copyArrival (cl id n : Nat) : Statement (.copyArrival cl id n) := none rfl
theorem Words.engineCommandComplete (cl id : Nat) : Statement (.engineCommandComplete cl id) := none rfl
theorem Words.relocationPageMoved (cl id : Nat) : Statement (.relocationPageMoved cl id) := none rfl
theorem Words.relocationFinish (cl id : Nat) : Statement (.relocationFinish cl id) := none rfl
theorem Words.engineFault (cl : Nat) : Statement (.engineFault cl) := none rfl
theorem Words.kilnStart (cl : Nat) : Statement (.kilnStart cl) := none rfl
theorem Words.kilnLoadComplete (cl : Nat) : Statement (.kilnLoadComplete cl) := none rfl
theorem Words.xnop : Statement (.xnop) :=
  one rfl (by apply encX_lt <;> omega)
theorem Words.xloopImm (i : BitVec 12) : Statement (.xloopImm i) :=
  one rfl (by apply encX_lt <;> omega)
theorem Words.xloopReg (a : GReg) : Statement (.xloopReg a) :=
  one rfl (by have := a.isLt; apply encX_lt <;> omega)
theorem Words.xend : Statement (.xend) :=
  one rfl (by apply encX_lt <;> omega)
theorem Words.xli (d : GReg) (i : BitVec 16) : Statement (.xli d i) :=
  one rfl (by have := d.isLt; apply encX_lt <;> omega)
theorem Words.xaddi (d a : GReg) (i : BitVec 12) : Statement (.xaddi d a i) :=
  one rfl (by have := d.isLt; have := a.isLt; apply encX_lt <;> omega)
theorem Words.xaddr (d a b : GReg) (s : BitVec 6) : Statement (.xaddr d a b s) :=
  one rfl (by have := d.isLt; have := a.isLt; have := b.isLt; apply encX_lt <;> omega)
theorem Words.xldW (d a : GReg) : Statement (.xldW d a) :=
  one rfl (by have := d.isLt; have := a.isLt; apply encX_lt <;> omega)
theorem Words.xldD (d a : GReg) : Statement (.xldD d a) :=
  one rfl (by have := d.isLt; have := a.isLt; apply encX_lt <;> omega)
theorem Words.xcfg (a : GReg) : Statement (.xcfg a) :=
  one rfl (by have := a.isLt; apply encX_lt <;> omega)
theorem Words.xmove (d a : GReg) (i : BitVec 12) : Statement (.xmove d a i) :=
  one rfl (by have := d.isLt; have := a.isLt; apply encX_lt <;> omega)
theorem Words.xmoveB8 (d a : GReg) : Statement (.xmoveB8 d a) :=
  one rfl (by have := d.isLt; have := a.isLt; apply encX_lt <;> omega)
theorem Words.xmoveB16 (d a : GReg) : Statement (.xmoveB16 d a) :=
  one rfl (by have := d.isLt; have := a.isLt; apply encX_lt <;> omega)
theorem Words.xconv (d a : GReg) (i : BitVec 12) : Statement (.xconv d a i) :=
  one rfl (by have := d.isLt; have := a.isLt; apply encX_lt <;> omega)
theorem Words.xpack (d a : GReg) : Statement (.xpack d a) :=
  one rfl (by have := d.isLt; have := a.isLt; apply encX_lt <;> omega)
theorem Words.xunpack (d a : GReg) : Statement (.xunpack d a) :=
  one rfl (by have := d.isLt; have := a.isLt; apply encX_lt <;> omega)
theorem Words.xbind (a : GReg) (q : Fin 16) (n : Fin 32) : Statement (.xbind a q n) :=
  one rfl (by have := a.isLt; have := q.isLt; have := n.isLt; apply encX_lt <;> omega)
theorem Words.xunbind (n : Fin 32) : Statement (.xunbind n) :=
  one rfl (by have := n.isLt; apply encX_lt <;> omega)
theorem Words.xsig (c : BitVec 6) (n : Fin 32) : Statement (.xsig c n) :=
  one rfl (by have := n.isLt; apply encX_lt <;> omega)
theorem Words.xwait (c : BitVec 6) (n : Fin 32) : Statement (.xwait c n) :=
  one rfl (by have := n.isLt; apply encX_lt <;> omega)
theorem Words.xhalt : Statement (.xhalt) :=
  one rfl (by apply encX_lt <;> omega)
theorem Words.teamPlace (d : Nat) : Statement (.teamPlace d) := none rfl
theorem Words.teamSteal (d : Nat) : Statement (.teamSteal d) := none rfl
theorem Words.teamEnd (cl : Nat) : Statement (.teamEnd cl) := none rfl
theorem Words.preemptRequest (d : Nat) : Statement (.preemptRequest d) := none rfl
theorem Words.preemptRequestRepeat (d : Nat) : Statement (.preemptRequestRepeat d) := none rfl
theorem Words.barrierWithoutPreemption (d : Nat) : Statement (.barrierWithoutPreemption d) := none rfl
theorem Words.barrierNoPreemptRepeat (d : Nat) : Statement (.barrierNoPreemptRepeat d) := none rfl
theorem Words.teamStall (cl : Nat) : Statement (.teamStall cl) := none rfl
theorem Words.escrowStall (c : Nat) : Statement (.escrowStall c) := none rfl
theorem Words.frResumeWrite (c : Nat) (ln : Lane) (v : Word) : Statement (.frResumeWrite c ln v) := none rfl
theorem Words.faultMessageWrite (d : Nat) : Statement (.faultMessageWrite d) := none rfl
theorem Words.faultRingTimeout (d : Nat) : Statement (.faultRingTimeout d) := none rfl
theorem Words.fltResume (cl : Nat) : Statement (.fltResume cl) := none rfl
theorem Words.fltEnd (cl : Nat) : Statement (.fltEnd cl) := none rfl
theorem Words.preemptGo (d : Nat) (v : Word) : Statement (.preemptGo d v) := none rfl
theorem Words.preemptSaveComplete (d : Nat) (unc : Bool) : Statement (.preemptSaveComplete d unc) := none rfl
theorem Words.tlbInvStart (d : Nat) (v : W32) : Statement (.tlbInvStart d v) := none rfl
theorem Words.tlbInvComplete (d : Nat) : Statement (.tlbInvComplete d) := none rfl
theorem Words.dbgHalt (c : Nat) : Statement (.dbgHalt c) := none rfl
theorem Words.dbgRun (c : Nat) : Statement (.dbgRun c) := none rfl
theorem Words.dbgStep (c : Nat) : Statement (.dbgStep c) := none rfl
theorem Words.stepDone (c : Nat) : Statement (.stepDone c) := none rfl
theorem Words.stopFormed (c : Nat) : Statement (.stopFormed c) := none rfl
theorem Words.breakpointMatch (c : Nat) (ln : Lane) : Statement (.breakpointMatch c ln) := none rfl
theorem Words.watchHitImprecise (cl skid : Nat) : Statement (.watchHitImprecise cl skid) := none rfl
theorem Words.triggerFire (c : Nat) : Statement (.triggerFire c) := none rfl
theorem Words.triggerReceive (d : Nat) (org at' : Word) (id : Byte) : Statement (.triggerReceive d org at' id) := none rfl
theorem Words.triggerAckTimeout (d : Nat) (l : Fin 32) : Statement (.triggerAckTimeout d l) := none rfl
theorem Words.counterSample (d : Nat) : Statement (.counterSample d) := none rfl
theorem Words.sbufRdWrite (d : Nat) (v : W32) : Statement (.sbufRdWrite d v) := none rfl
theorem Words.replayWaitTimeout (c : Nat) : Statement (.replayWaitTimeout c) := none rfl
theorem Words.journalRecord : Statement (.journalRecord) := none rfl
theorem Words.rootLaunchComplete (n : Nat) : Statement (.rootLaunchComplete n) := none rfl
theorem Words.journalEnable : Statement (.journalEnable) := none rfl
theorem Words.recoveryImageLoad (len : Nat) : Statement (.recoveryImageLoad len) := none rfl
theorem Words.keyRequest (slot : Fin 64) (blob : Nat) : Statement (.keyRequest slot blob) := none rfl
theorem Words.attestationRequest (nonce : BitVec 256) : Statement (.attestationRequest nonce) := none rfl
theorem Words.hostAccess (a : HostAcc) : Statement (.hostAccess a) := none rfl
theorem Words.peerAccess (a : HostAcc) : Statement (.peerAccess a) := none rfl
theorem Words.moduleReset : Statement (.moduleReset) := none rfl
theorem Words.lifeCycleChange : Statement (.lifeCycleChange) := none rfl
theorem Words.holdUp : Statement (.holdUp) := none rfl
theorem Words.holdUpEnd : Statement (.holdUpEnd) := none rfl
theorem Words.dieWatchdogExpiry (d : Nat) : Statement (.dieWatchdogExpiry d) := none rfl
theorem Words.dieReturn (d : Nat) : Statement (.dieReturn d) := none rfl
theorem Words.dieResetTimeout (d : Nat) : Statement (.dieResetTimeout d) := none rfl
theorem Words.stackFault (k : Fin 8) : Statement (.stackFault k) := none rfl
theorem Words.stackRetrained (k : Fin 8) : Statement (.stackRetrained k) := none rfl
theorem Words.stackOutOfService (k : Fin 8) : Statement (.stackOutOfService k) := none rfl
theorem Words.linkDown (l : Fin 32) : Statement (.linkDown l) := none rfl
theorem Words.noRouteTimeout (m : Nat) : Statement (.noRouteTimeout m) := none rfl
theorem Words.peerRemoved (m : Nat) : Statement (.peerRemoved m) := none rfl
theorem Words.hbmScrub (b : Nat) : Statement (.hbmScrub b) := none rfl
theorem Words.memoryError (e : MemErr) : Statement (.memoryError e) := none rfl
theorem Words.illegalInstruction (w : W32) : Statement (.illegalInstruction w) := none rfl
theorem Words.scalarAccessReply (c : Nat) : Statement (.scalarAccessReply c) := none rfl
theorem Words.stackMoveComplete (c id : Nat) : Statement (.stackMoveComplete c id) := none rfl
theorem Words.dieFabricError (d : Nat) : Statement (.dieFabricError d) := none rfl
theorem Words.linkTrained (l : Fin 32) (m own : Nat) : Statement (.linkTrained l m own) := none rfl
theorem Words.ideEnable : Statement (.ideEnable) := none rfl

end Sys2Proof.Laws
end

