-- ==== Sys2Proof/Tests/Slice0.lean ====
section
/-! SUPPORT. Tests of the model: ill-formed terms, words written out from the encoding tables, single steps worked by hand from
the manual, and for each statement states that meet its hypotheses. -/

namespace Sys2Proof.Tests

open Sys2Proof Sys2Proof.Machine

set_option Elab.async false

/-! ## Small states -/

/-- A context that holds a parcel, whose bedrock region stands in its die's pool. -/
def parcel : Ctx :=
  { Ctx.init with resident := true, ovfBase := 0x4000000000, ovfPtr := 0x4000000000, ovfLimit := 0x4000001000 }

/-- Context 0 holds `x`, its lane `ln` has the turn, and key slot 0 is loaded. -/
def lane (ln : Lane) (x : Ctx) : State :=
  { State.reset with turn := Turn.plain (.lane 0 ln), ctxs := [(0, x)], keys := keysInit.set 0 ⟨some 1⟩ }

/-- Context `c` holds `x`, and its lane K has the turn. -/
def laneAt (c : Nat) (x : Ctx) : State :=
  { State.reset with turn := Turn.plain (.lane c .k), ctxs := [(c, x)], keys := keysInit.set 0 ⟨some 1⟩ }

/-- The state that a step leaves, or the one before it. -/
def after (o : Out3) : State := match o with
  | .next t => t
  | .fault _ | .refused _ => State.reset

/-- The answer is a next state of which `p` holds. -/
def gives (o : Out3) (p : State → Bool) : Bool := match o with
  | .next t => p t
  | .fault _ | .refused _ => false

/-- The parcel with values in x1, x2, ... -/
def withX (l : List Word) : Ctx := (l.zipIdx 1).foldl (fun x e => x.wx (Fin.ofNat 64 e.2) e.1) parcel

/-- A guard on p1. -/
def g1 : Guard := ⟨false, 1⟩

/-! ## Ill-formed terms, one for each check of WellFormed -/

theorem test_wf_guard : (Instr.nop ⟨true, 0⟩).wf = false := by decide
theorem test_wf_wait : (Instr.wait Guard.always 3 0).wf = false := by decide
theorem test_wf_sig : (Instr.sig Guard.always 3 0).wf = false := by decide
theorem test_wf_send : (Instr.send Guard.always 0 1 2).wf = false := by decide
theorem test_wf_variant : (Instr.add Guard.always 1 2 3 2).wf = false := by decide
theorem test_wf_bar : (Instr.bar Guard.always 3).wf = false := by decide
theorem test_wf_csr : (Instr.csrr Guard.always 1 0x0FF).wf = false := by decide
theorem test_wf_atomic_size : (Instr.aadd Guard.always 1 2 3 0 1 0 0).wf = false := by decide
theorem test_wf_atomic_scope : (Instr.cas Guard.always 1 2 3 4 0 2 0 5).wf = false := by decide
theorem test_wf_sdef : (Instr.sdef Guard.always 1 2 true 6).wf = false := by decide
theorem test_wf_read : (Instr.read 1 2 ⟨0, 0⟩ 1).wf = false := by decide
theorem test_wf_tlift : (Instr.tlift ⟨false, 0, false⟩ ⟨0, 0⟩).wf = false := by decide
theorem test_wf_tsink_from : (Instr.tsink ⟨true, 0, false⟩ ⟨true, 1, false⟩ ⟨0, 0⟩).wf = false := by decide
theorem test_wf_tsink_to : (Instr.tsink ⟨false, 0, false⟩ ⟨true, 1, true⟩ ⟨0, 0⟩).wf = false := by decide
theorem test_wf_tseed : (Instr.tseedStream ⟨false, 1, false⟩ ⟨0, 0⟩).wf = false := by decide
theorem test_wf_tmma : (Instr.tmma ⟨false, 1, false⟩ ⟨false, 0, false⟩ 9 ⟨0, 0⟩).wf = false := by decide
theorem test_wf_tdrain : (Instr.tdrain ⟨false, 0, false⟩ .int8 ⟨0, 0⟩).wf = false := by decide
theorem test_wf_tgen : (Instr.tgen ⟨true, 0, false⟩ ⟨0, 0⟩).wf = false := by decide
theorem test_wf_seedfit : (Instr.seedfit ⟨false, 1, false⟩ ⟨false, 2, false⟩ 0 0 ⟨0, 0⟩).wf = false := by decide
theorem test_wf_pipe : (Instr.tadd ⟨false, 1, false⟩ ⟨false, 0, false⟩ .fp32 ⟨0, 0⟩ 3).wf = false := by decide
theorem test_wf_arith : (Instr.tadd ⟨false, 1, false⟩ ⟨false, 0, false⟩ .e4m3 ⟨0, 0⟩ 0).wf = false := by decide
theorem test_wf_int : (Instr.taddS ⟨false, 1, false⟩ ⟨false, 0, false⟩ .bf16 ⟨0, 0⟩ 0).wf = false := by decide
theorem test_wf_fp : (Instr.tfma ⟨false, 1, false⟩ ⟨false, 0, false⟩ .int8 ⟨0, 0⟩ 0).wf = false := by decide
theorem test_wf_exp2 : (Instr.texp2 ⟨false, 0, false⟩ .fp16 ⟨0, 0⟩ 0).wf = false := by decide
theorem test_wf_logic : (Instr.tand ⟨false, 1, false⟩ ⟨false, 0, false⟩ .mxint8 ⟨0, 0⟩ 0).wf = false := by decide
theorem test_wf_xpose : (Instr.txpose ⟨false, 0, false⟩ .fp32 ⟨0, 0⟩ 0).wf = false := by decide
theorem test_wf_tcvt : (Instr.tcvt .fp32 ⟨false, 1, false⟩ ⟨false, 2, false⟩ .e4m3 ⟨0, 0⟩ 0).wf = false := by decide
theorem test_wf_tqnt : (Instr.tqnt .mxint8 ⟨false, 0, false⟩ ⟨false, 0, false⟩ .int8 ⟨0, 0⟩ 0).wf = false := by decide
theorem test_wf_xmove : (Instr.xmove 1 2 0).wf = false := by decide
theorem test_wf_xbind : (Instr.xbind 1 15 3).wf = false := by decide
theorem test_wf_xsig : (Instr.xsig 0 3).wf = false := by decide
theorem test_wf_lane_guard : (Instr.nop g1).unguarded = false := by decide
theorem test_wf_lane_count : (Instr.doReg 8).unguarded = false := by decide

/-! ## Words written out from spec/08 (R155-R164) and spec/13 (R293, R294) -/

-- ADD.W x1, x2, x3: OPC 0x10, XD 1, XA 2, XB 3, V 1.
theorem test_word_add : decode (.lane .k) 0x1000420D 0 = some (.add Guard.always 1 2 3 1) := by decide
-- (p2) ADDI x5, x6, -1: OPC 0x24, G 2, XD 5, XA 6, IMM8 0xFF.
theorem test_word_addi : decode (.lane .k) 0x242146FF 0 = some (.addi ⟨false, 2⟩ 5 6 0xFF) := by decide
-- LI x7, 0x12345678: OPC 0x2B, XD 7, then the literal.
theorem test_word_li : decode (.lane .k) 0x2B01C000 0x12345678 = some (.li Guard.always 7 0x12345678) := by decide
-- (p3) PAND p3, p4, p5: OPC 0x36, G 3, XD 3, XA 4, XB 5.
theorem test_word_pand : decode (.lane .k) 0x3630C414 0 = some (.pand ⟨false, 3⟩ 3 4 5) := by decide
-- FFMA x1, x2, x3 in rounding mode 1: OPC 0x53, V 1.
theorem test_word_ffma : decode (.lane .k) 0x5300420D 0 = some (.ffma Guard.always 1 2 3 1) := by decide
-- BR -2: OPC 0x03, OFF20 0xFFFFE, in every lane.
theorem test_word_br : ∀ ln : Lane, decode (.lane ln) 0x030FFFFE 0 = some (.br Guard.always 0xFFFFE) := by
  intro ln; cases ln <;> decide
-- DO 16 and DO n5: OPC 0x01, CNT in [19:8], or M = 1 and the register in [13:8].
theorem test_word_do : decode (.lane .s) 0x01001000 0 = some (.doImm 16) ∧ decode (.lane .s) 0x01000580 0 = some (.doReg 5) := by
  decide
-- A DO that names n8, and a guard, are no instructions of L, C and S (R162).
theorem test_word_do_bad : decode (.lane .l) 0x01000880 0 = none ∧ decode (.lane .l) 0x00100000 0 = none := by decide
-- CSRR x5, register 0x008: OPC 0x6E, XD 5, the number in bits [13:2].
theorem test_word_csrr : decode (.lane .k) 0x6E014020 0 = some (.csrr Guard.always 5 0x008) := by decide
-- LDA.D at system scope: OPC 0x75, XD 1, XA 2, CLS 3, SZ 3.
theorem test_word_lda : decode (.lane .k) 0x7500423C 0 = some (.ldaSys Guard.always 1 2 3 3) := by decide
-- AADD.D x1, [x2], x3, acquire, die scope: OPC 0x80, SZ 3, ORD 1; LIT holds 3 and scope 2.
theorem test_word_aadd : decode (.lane .k) 0x8000420D 0x2003 = some (.aadd Guard.always 1 2 3 0 3 1 2) := by decide
-- A literal bit that R158 calls zero.
theorem test_word_aadd_bad : decode (.lane .k) 0x8000420D 0xA003 = none := by decide
-- LAUNCH q5, x2, x3; SLDB s1, x4.
theorem test_word_launch : decode (.lane .k) 0x9001420C 0 = some (.launch Guard.always 5 2 3) ∧
    decode (.lane .k) 0x92004400 0 = some (.sldb Guard.always 1 4) := by decide
-- CPY [x5], TW none, TS tq2, ec9.
theorem test_word_cpy : decode (.lane .k) 0xA0017C89 0 = some (.cpy Guard.always 5 15 2 9) := by decide
-- TMMA $0, s1 of BF16 pairs: OA 0x00, OB 0x22 (R26).
theorem test_word_tmma : decode (.lane .c) 0x20022000 0 = some (.tmma ⟨false, 0, false⟩ ⟨true, 1, false⟩ 0 ⟨0, 0⟩) := by decide
-- TADD.FP32 $1, $0 wait=tq1 sig=tq2 on pipe 1.
theorem test_word_tadd : decode (.lane .c) 0x30080029 0 =
    some (.tadd ⟨false, 1, false⟩ ⟨false, 0, false⟩ .fp32 ⟨1, 2⟩ 1) := by decide
-- TDUP, OPC 0x12; TPICK 5, DEPTH in [23:12].
theorem test_word_stack : decode (.lane .c) 0x12000000 0 = some (.tdup ⟨0, 0⟩) ∧
    decode (.lane .c) 0x16005000 0 = some (.tpick 5 ⟨0, 0⟩) := by decide
-- TCVT.E4M3 $1, $0 from BF16: OPC 0x61, F 3.
theorem test_word_tcvt : decode (.lane .c) 0x61080300 0 =
    some (.tcvt .bf16 ⟨false, 1, false⟩ ⟨false, 0, false⟩ .e4m3 ⟨0, 0⟩ 0) := by decide
-- READ s3, 12 wait=tq4 in L; the same word is WRITE in S.
theorem test_word_read : decode (.lane .l) 0x10300C80 0 = some (.read 3 12 ⟨4, 0⟩ 0) ∧
    decode (.lane .s) 0x10300C80 0 = some (.write 3 12 ⟨4, 0⟩ 0) := by decide
-- XADDI g1, g2, -1; XMOVE.B16 g3, g4; XSIG ct2, 3.
theorem test_word_kiln : decode .kiln 0x04120FFF 0 = some (.xaddi 1 2 0xFFF) ∧
    decode .kiln 0x08342000 0 = some (.xmoveB16 3 4) ∧ decode .kiln 0x0D0000C2 0 = some (.xsig 3 2) := by decide
-- Zero is NOP, all ones is nothing (R155).
theorem test_word_ends : ∀ u : Lane, decode (.lane u) 0 0 = some (.nop Guard.always) ∧ decode (.lane u) 0xFFFFFFFF 0 = none := by
  intro u; cases u <;> decide
-- KVAPP [x5], TW none, TS none, ec0.
theorem test_word_kvapp : decode (.lane .k) 0xA6017FC0 0 = some (.kvapp Guard.always 5 15 15 0) := by decide

/-! ## Encoding, the step, reset -/

theorem witness_encode : (Instr.add g1 1 2 3 1).wf = true ∧ encode (.add g1 1 2 3 1) = [0x1010420D] ∧
    (Instr.li g1 1 5).wf = true ∧ (encode (.li g1 1 5)).length = 2 ∧
    (Instr.wait Guard.always 3 2).unguarded = true ∧ inEveryLane (.wait Guard.always 3 2) = true := by decide

theorem witness_reset_canonical : State.reset.Canonical := by
  refine ⟨rfl, rfl, rfl, fun _ => rfl, fun _ => rfl, ?_⟩
  decide

/-! ## Registers of the K lane -/

/-- x1 = 7, x2 = -2, x3 = 5, p1 set. -/
def regs : Ctx := (withX [7, -2, 5]).wp 1 true

theorem witness_integer : ∀ i ∈ [Instr.add g1 4 1 2 0, .add g1 4 1 2 1, .sub g1 4 1 2 0, .sub g1 4 1 2 1, .mul g1 4 1 2 0,
    .mul g1 4 1 2 1, .mulh g1 4 1 2, .mulhu g1 4 1 2, .and g1 4 1 2, .or g1 4 1 2, .xor g1 4 1 2, .shl g1 4 1 2 0,
    .shl g1 4 1 2 1, .shr g1 4 1 2 0, .shr g1 4 1 2 1, .sra g1 4 1 2 0, .sra g1 4 1 2 1, .min g1 4 1 2, .max g1 4 1 2,
    .minu g1 4 1 2, .maxu g1 4 1 2, .div g1 4 1 2, .divu g1 4 1 2, .rem g1 4 1 2, .remu g1 4 1 2, .bperm g1 4 1 2,
    .clmull g1 4 1 2, .clmulh g1 4 1 2, .fadd g1 4 1 2 0, .fsub g1 4 1 2 0, .fmul g1 4 1 2 0, .ffma g1 4 1 2 0, .fmin g1 4 1 2,
    .fmax g1 4 1 2, .seedadv g1 4 1 2], KReady (lane .k regs) 0 i g1 [4, 1, 2] := by decide

theorem witness_immediate : (∀ i ∈ [Instr.addi g1 4 1 5, .andi g1 4 1 5, .ori g1 4 1 5, .xori g1 4 1 5, .shli g1 4 1 5,
    .shri g1 4 1 5, .srai g1 4 1 5, .clz g1 4 1, .ctz g1 4 1, .popc g1 4 1, .brev g1 4 1, .icvtf g1 4 1 0, .ucvtf g1 4 1 0,
    .fcvti g1 4 1 0, .fcvtu g1 4 1 0, .fcvtb g1 4 1 0, .bcvtf g1 4 1], KReady (lane .k regs) 0 i g1 [4, 1]) ∧
    ∀ i ∈ [Instr.li g1 4 5, .lih g1 4 5, .lea g1 4 5], KReady (lane .k regs) 0 i g1 [4] := by decide

theorem witness_predicates : (∀ i ∈ [Instr.cmpEq g1 2 1 2, .cmpNe g1 2 1 2, .cmpLt g1 2 1 2, .cmpLtu g1 2 1 2, .cmpGe g1 2 1 2,
    .cmpGeu g1 2 1 2, .feq g1 2 1 2, .flt g1 2 1 2, .fle g1 2 1 2], KReady (lane .k regs) 0 i g1 [1, 2]) ∧
    ∀ i ∈ [Instr.pand g1 2 1 3, .por g1 2 1 3, .pxor g1 2 1 3, .pandn g1 2 1 3], KReady (lane .k regs) 0 i g1 [] := by decide

/-- Latch 1 is idle, latch 2 holds 1.0, latch 3 has an operation under way. -/
def latches : Ctx := { regs with lat := #v[⟨0, false, false, none⟩, ⟨0, false, false, none⟩, ⟨0x3F800000, true, false, none⟩,
  ⟨0, false, true, some (0, 0x40000000)⟩] }

theorem witness_sfu : (∀ i ∈ [Instr.rcp g1 1 1, .rsq g1 1 1, .exp2 g1 1 1, .log2 g1 1 1], KReady (lane .k latches) 0 i g1 [1]) ∧
    latches.lat[1].busy = false ∧ KReady (lane .k latches) 0 (.mvl g1 4 2) g1 [4] ∧ latches.lat[2].valid = true ∧
    KReady (lane .k latches) 0 (.rcp g1 3 1) g1 [1] ∧ latches.lat[3].busy = true ∧ latches.lat[3].valid = false ∧
    latches.lat[3].op = some (0, 0x40000000) := by decide

theorem witness_register_frame : regDest (.addi g1 4 1 5) = some (.inl 4) ∧ kShape (.addi g1 4 1 5) = some (g1, 4, [4, 1]) ∧
    KReady (lane .k regs) 0 (.addi g1 4 1 5) g1 [4, 1] ∧ regDest (.pand g1 2 1 3) = some (.inr 2) ∧
    kShape (.pand g1 2 1 3) = some (g1, 4, []) ∧ KReady (lane .k regs) 0 (.pand g1 2 1 3) g1 [] := by decide

theorem witness_guard_false : kShape (.addi g1 4 1 5) = some (g1, 4, [4, 1]) ∧ (lane .k parcel).turn.who = .lane 0 .k ∧
    (Instr.addi g1 4 1 5).wf = true ∧ guardHolds parcel g1 = false := by decide

theorem witness_beyond : kShape (.add g1 4 40 2 0) = some (g1, 4, [4] ++ 40 :: [2]) ∧ (lane .k { regs with nx := 32 }).turn.who = .lane 0 .k ∧
    (Instr.add g1 4 40 2 0).wf = true ∧ guardHolds regs g1 = true ∧ (4 : XReg).val < 32 ∧ 32 ≤ (40 : XReg).val := by decide

-- 7 - 2 wraps past zero (R183); the low word is sign-extended in .W.
theorem test_add_wraps : gives (exec (.add g1 4 1 2 0) (lane .k regs)) (fun t => (t.ctx 0).rx 4 == 5) = true := by decide
theorem test_add_w : gives (exec (.add Guard.always 4 1 1 1) (lane .k (withX [0x40000000]))) (fun t =>
    (t.ctx 0).rx 4 == 0xFFFFFFFF80000000) = true := by decide
-- R184: a division by zero gives all ones, its remainder the dividend.
theorem test_div_zero : gives (exec (.div Guard.always 4 1 0) (lane .k regs)) (fun t => (t.ctx 0).rx 4 == BitVec.allOnes 64) = true := by
  decide
theorem test_rem_negative : gives (exec (.rem Guard.always 4 2 3) (lane .k regs)) (fun t => (t.ctx 0).rx 4 == -2) = true := by decide
-- R186: LIH replaces the upper half of its destination.
theorem test_lih : gives (exec (.lih Guard.always 1 0xABCD0001) (lane .k regs)) (fun t =>
    (t.ctx 0).rx 1 == 0xABCD000100000007 && (t.ctx 0).k.pc == 8) = true := by decide
-- A source that is also the destination; x0 reads as zero and takes no write.
theorem test_sub_self : gives (exec (.sub Guard.always 1 0 1 0) (lane .k regs)) (fun t => (t.ctx 0).rx 1 == -7) = true := by decide
theorem test_x0_write : gives (exec (.addi Guard.always 0 1 5) (lane .k regs)) (fun t => (t.ctx 0).rx 0 == 0) = true := by decide
-- R187: signed and unsigned compares of -2 and 7 differ.
theorem test_cmp_lt : gives (exec (.cmpLt Guard.always 2 2 1) (lane .k regs)) (fun t => (t.ctx 0).rp 2) = true := by decide
theorem test_cmp_ltu : gives (exec (.cmpLtu Guard.always 2 2 1) (lane .k regs)) (fun t => !(t.ctx 0).rp 2) = true := by decide
-- R188: 7 has 61 leading zeros.
theorem test_clz : gives (exec (.clz Guard.always 4 1) (lane .k regs)) (fun t => (t.ctx 0).rx 4 == 61) = true := by decide
-- 1.0 + 2.0 = 3.0 in FP32.
theorem test_fadd : gives (exec (.fadd Guard.always 4 1 2 0) (lane .k (withX [0x3F800000, 0x40000000]))) (fun t =>
    (t.ctx 0).rx 4 == 0x40400000) = true := by decide +kernel

/-! ## Control flow -/

theorem witness_lanes : ∃ ln m : Lane, ln ≠ .c ∧ m ≠ ln := ⟨.k, .l, by decide⟩

/-- The unguarded form of an instruction issues in every lane. -/
theorem witness_every_lane : ∀ i ∈ [Instr.nop Guard.always, .br Guard.always 5, .enddo, .doImm 3, .doReg 2,
    .trap Guard.always 7, .bkpt Guard.always 3, .park Guard.always, .sig Guard.always 2 1, .wait Guard.always 2 1],
    LaneReady (lane .k parcel) 0 .k i Guard.always ∧ LaneReady (lane .l parcel) 0 .l i Guard.always ∧
    LaneReady (lane .c parcel) 0 .c i Guard.always ∧ LaneReady (lane .s parcel) 0 .s i Guard.always := by decide

theorem witness_calls : KReady (lane .k (withX [0x1000, 0x1002, 0x10000000000000])) 0 (.call Guard.always 4) Guard.always [] ∧
    (∀ a ∈ ([1, 2, 3] : List XReg),
      KReady (lane .k (withX [0x1000, 0x1002, 0x10000000000000])) 0 (.calli Guard.always a) Guard.always [a] ∧
      KReady (lane .k (withX [0x1000, 0x1002, 0x10000000000000])) 0 (.jmpi Guard.always a) Guard.always [a]) ∧
    ((0x1000 : Word).toNat < 2 ^ 52 ∧ (0x1000 : Word).toNat % 4 = 0) ∧ (0x1002 : Word).toNat % 4 ≠ 0 ∧
    ¬(0x10000000000000 : Word).toNat < 2 ^ 52 := by
  refine ⟨?_, ?_, ?_, ?_, ?_⟩ <;> decide

/-- A lane in a loop of three passes more, and one that is four loops deep. -/
def looping (n : Nat) (left : W32) : Ctx := { parcel with k := { parcel.k with loops := List.replicate n (0x40, left) } }

theorem witness_loops : (looping 0 1).k.loops = [] ∧ (looping 1 1).k.loops = (0x40, 1) :: [] ∧
    (looping 1 3).k.loops = (0x40, 3) :: [] ∧ ¬(3 : W32) = 1 ∧ (looping 3 1).k.loops.length < 4 ∧
    4 ≤ (looping 4 1).k.loops.length ∧ ((3 : BitVec 12).zeroExtend 32 ≠ 0) ∧ ((0 : BitVec 12).zeroExtend 32 = 0) := by decide

/-- A zero count goes behind the ENDDO that follows: an ENDDO at 4 in HBM, reached through page tables at 0x1000. -/
def skipping : State :=
  let s := writePhys (fetchTables (lane .k { parcel with ptRoot := 0x1000 })) 0 0x10004 (leBytes 4 0x02000000)
  s.modCtx 0 fun x => { x with k := { x.k with pc := 0x10000 } }

theorem witness_loop_skipped : (match findEnd 0 .k 65536 (((skipping.ctx 0).lane .k).pc + 4) 0 false skipping with
    | .found _ pc => pc == 0x10008
    | _ => false) = true := by decide +kernel

/-- Two tokens of K's first instruction in tq3, and n1 of lane L arrived. -/
def tokens : Ctx := { parcel with tq := parcel.tq.set 3 [0, 0], arrived := parcel.arrived.set 1 true }

theorem witness_wait : LaneReady (lane .l tokens) 0 .l (.wait Guard.always 3 2) Guard.always ∧
    (2 : BitVec 6).toNat ≤ tokens.tq[3].length ∧ servedFirst tokens Lane.l.num 3 = false ∧
    recOf (lane .l tokens) (clusterOf 0) = none ∧ tokens.tq[3].length < (5 : BitVec 6).toNat := by decide

theorem witness_sig : LaneReady (lane .s tokens) 0 .s (.sig Guard.always 3 61) Guard.always ∧ laneDone tokens .s = true ∧
    tokens.tq[3].length + heldTokens tokens 3 + (61 : BitVec 6).toNat ≤ 63 := by decide

theorem witness_send : KReady (lane .k (withX [9])) 0 (.send Guard.always 2 7 1) Guard.always [1] ∧
    LaneReady (lane .l tokens) 0 .l (.recv 1) Guard.always ∧ Lane.l ≠ .k ∧
    vget tokens.arrived (8 * (Lane.l.num - 1) + (1 : Fin 8).val) false = true ∧
    vget tokens.arrived (8 * (Lane.l.num - 1) + (2 : Fin 8).val) false = false := by decide

theorem witness_park : laneDone parcel .k = true ∧ laneDone parcel .l = true ∧ laneDone parcel .s = true ∧
    KReady (lane .k parcel) 0 (.endParcel Guard.always) Guard.always [] ∧ recOf (lane .k parcel) 0 = none := by decide

/-- A K lane whose barrier has, or has not, been released. -/
def atBar (done : Bool) : Ctx := { parcel with bar := some ⟨0, done, 0, 0, false, none⟩ }

theorem witness_bar : KReady (lane .k (atBar true)) 0 (.bar Guard.always 0) Guard.always [] ∧ isSup 0 = false ∧
    KReady (laneAt 16384 parcel) 16384 (.bar Guard.always 2) Guard.always [] ∧ isSup 16384 = true ∧
    (atBar true).bar.map BarSt.released = some true ∧ (atBar false).bar.map BarSt.released = some false ∧
    KReady (lane .k parcel) 0 .yield Guard.always [] := by decide

-- R196: a branch offset counts words from the branch.
theorem test_br_back : gives (exec (.br Guard.always 0xFFFFE) (lane .l { parcel with l := { parcel.l with pc := 0x20 } })) (fun t =>
    (t.ctx 0).l.pc == 0x18) = true := by decide
-- R197: CALLI reads its target before it writes x1.
theorem test_calli_x1 : gives (exec (.calli Guard.always 1) (lane .k (withX [0x1000]))) (fun t =>
    (t.ctx 0).k.pc == 0x1000 && (t.ctx 0).rx 1 == 4) = true := by decide
-- R200: the last pass of a loop leaves it.
theorem test_enddo_last : gives (exec .enddo (lane .k (looping 1 1))) (fun t => (t.ctx 0).k.pc == 4 && (t.ctx 0).k.loops == []) = true := by
  decide
theorem test_enddo_back : gives (exec .enddo (lane .k (looping 1 3))) (fun t =>
    (t.ctx 0).k.pc == 0x40 && (t.ctx 0).k.loops == [(0x40, 2)]) = true := by decide
-- R203: WAIT of two takes both tokens.
theorem test_wait : gives (exec (.wait Guard.always 3 2) (lane .l tokens)) (fun t => (t.ctx 0).tq[3] == []) = true := by decide
-- R58: YIELD adds the stride, 2^20 / 16.
theorem test_yield : gives (exec .yield (lane .k parcel)) (fun t => (t.ctx 0).pass == 65536) = true := by decide

/-! ## Faults -/

/-- The parcel's kernel has a trap vector at 0x400 from its header at 0x8000. -/
def handled (x : Ctx) : Ctx := { x with trapOff := 0x400, hdr := 0x8000 }

/-- The parcel is in handler state, and resumes its lanes at 0x100. -/
def inside : Ctx := { handled parcel with frCause := 0x4000A, frResume := #v[0x100, 0x201, 0x300, 0x400] }

/-- Context 0 holds `x` on a cluster with a team of one parcel. -/
def team (ln : Lane) (x : Ctx) : State := { lane ln x with clusters := [(0, { Cluster.init with team := some fetchTeam })] }

theorem witness_takes_faults : TakesFaults (lane .k (handled parcel)) 0 := by decide +kernel

theorem witness_double_fault : (bitAt inside.dbgCtl 0 && bitAt inside.dbgCtl 8) = false ∧ inHandler inside = true ∧
    inside.infl = [] ∧ inside.kmiss = none ∧ inside.dueFlt = none ∧ inside.dbgFlt = none ∧ (∀ e ∈ inside.stack, e.res ≠ .buffer) ∧ ((team .k inside).cluster (clusterOf 0)).team = some fetchTeam := by decide +kernel

theorem witness_trap : ∀ ln : Lane, LaneReady (lane ln (handled parcel)) 0 ln (.trap Guard.always 7) Guard.always ∧
    TakesFaults (lane ln (handled parcel)) 0 := by intro ln; cases ln <;> decide

theorem witness_eret : KReady (lane .k inside) 0 (.eret Guard.always) Guard.always [] ∧ inHandler inside = true ∧
    inside.heldFlts = [] ∧ (∃ n : Fin 4, bitAt inside.frResume[n] 0 = false) ∧
    KReady (lane .k parcel) 0 (.eret Guard.always) Guard.always [] ∧ inHandler parcel = false := by decide +kernel

theorem witness_breakpoints : LaneReady (lane .l { parcel with dbgCtl := 1 }) 0 .l (.bkpt Guard.always 3) Guard.always ∧
    bitAt ({ parcel with dbgCtl := 1 } : Ctx).dbgCtl 0 = true ∧ parcel.l.passBk = false ∧ parcel.stopped = false ∧
    bitAt parcel.dbgCtl 0 = false ∧ stepping ({ parcel with dbgCtl := 1, stopped := true } : Ctx) = true := by decide +kernel

theorem witness_illegal : (lane .s parcel).turn.who = .lane 0 .s ∧ Lane.s ≠ .c ∧ (lane .c parcel).turn.who = .lane 0 .c := by decide +kernel

-- R352, R355: a TRAP enters the handler with its code in FR_INFO and the next word as its resume point.
theorem test_trap : gives (exec (.trap Guard.always 7) (lane .k (handled parcel))) (fun t =>
    (t.ctx 0).frInfo == 7 && (t.ctx 0).frCause.toNat % 65536 == 0x0A && (t.ctx 0).frResume[0] == 4 && (t.ctx 0).k.pc == 0x8400) = true := by
  decide +kernel
-- R354: ERET resumes K at FR_RESUME0, and L as parked.
theorem test_eret : gives (exec (.eret Guard.always) (lane .k inside)) (fun t =>
    (t.ctx 0).k.pc == 0x100 && (t.ctx 0).l.parked && (t.ctx 0).l.pc == 0x200 && !inHandler (t.ctx 0)) = true := by decide +kernel
-- R197: ERET outside a handler is cause 0x02, DETAIL 4.
theorem test_eret_outside : gives (exec (.eret Guard.always) (lane .k (handled parcel))) (fun t =>
    (t.ctx 0).frCause.toNat % 65536 == 0x402) = true := by decide +kernel
-- R350: an illegal word is cause 0x01.
theorem test_illegal : gives (exec (.illegalInstruction 0xFFFFFFFF) (lane .k (handled parcel))) (fun t =>
    (t.ctx 0).frCause.toNat % 65536 == 1 && (t.ctx 0).frWord == 0xFFFFFFFF) = true := by decide +kernel
-- R43: a register beyond the allocation is cause 0x03 with its number.
theorem test_beyond : gives (exec (.addi Guard.always 40 1 5) (lane .k { handled parcel with nx := 32 })) (fun t =>
    (t.ctx 0).frCause.toNat % 65536 == 3 && (t.ctx 0).frInfo == 40) = true := by decide +kernel
-- R361: a fault without a handler holds the team.
theorem test_no_handler : gives (exec (.trap Guard.always 7) (team .k parcel)) (fun t => isHeld t 0) = true := by decide +kernel

/-! ## System registers -/

theorem witness_csr : KReady (lane .k (withX [9])) 0 (.csrr Guard.always 4 0x010) Guard.always [4] ∧
    recOf (lane .k (withX [9])) (clusterOf 0) = none ∧ isSup 0 = false ∧
    KReady (lane .k (withX [9])) 0 (.csrw Guard.always 1 0x010) Guard.always [1] ∧
    KReady (lane .k (withX [9])) 0 (.csrw Guard.always 1 0x017) Guard.always [1] ∧
    KReady (lane .k (withX [9])) 0 (.csrw Guard.always 1 0x002) Guard.always [1] ∧
    KReady (lane .k (withX [9])) 0 (.csrw Guard.always 1 0x410) Guard.always [1] ∧
    csrAccess 0x002 = .ro ∧ supReadOnly 0x002 = false ∧ csrAccess 0x410 = .sup ∧
    KReady (laneAt 16384 (withX [9])) 16384 (.csrw Guard.always 1 0x410) Guard.always [1] ∧ isSup 16384 = true := by
  refine ⟨?_, ?_, ?_, ?_, ?_, ?_, ?_, ?_, ?_, ?_, ?_, ?_⟩ <;> decide +kernel

theorem witness_csr_written : (csrWrite (lane .k (withX [9])) 0 0x010 9).1 = 0 ∧
    (writeAllowed (laneAt 16384 (withX [9])) 16384 16384 0x410 9).1 = 0 := by decide +kernel

-- R143: CVT_CTL is 0xAA at placement.
theorem test_csrr : gives (exec (.csrr Guard.always 4 0x010) (lane .k parcel)) (fun t => (t.ctx 0).rx 4 == 0xAA) = true := by decide +kernel
-- R212: a write of a read-only register is cause 0x02, DETAIL 1, with its number.
theorem test_csrw_ro : gives (exec (.csrw Guard.always 1 0x002) (lane .k (handled (withX [9])))) (fun t =>
    (t.ctx 0).frCause.toNat % 65536 == 0x102 && (t.ctx 0).frInfo == 2) = true := by decide +kernel
theorem test_csrw_am : gives (exec (.csrw Guard.always 1 0x015) (lane .k (withX [0x3F800000]))) (fun t =>
    (t.ctx 0).am[1] == 0x3F800000) = true := by decide +kernel

/-! ## Memory -/

/-- x1 holds core-space address 0x40, x2 a value, x3 another, x4 an unaligned global address. -/
def pointers : Ctx := withX [0x8000000000000040, 0x1122334455667788, 0xFF, 0x10001]

/-- The scratchpad holds 0x1122334455667788 at 0x40. -/
def scratched (ln : Lane) : State :=
  (team ln pointers).setCore 0 { CoreSt.init with scratch := Memory.store [] 0x40 (leBytes 8 0x1122334455667788) }

theorem witness_loads : (∀ i ∈ [Instr.ld g1 5 1 0 3, .lds g1 5 1 0 3, .lda g1 5 1 0 3 2, .ldaSys g1 5 1 0 3, .st g1 5 1 0 3,
    .str g1 5 1 0 3 2, .strSys g1 5 1 0 3, .monw g1 5 1 0 3],
    KReady ((scratched .k).modCtx 0 fun x => x.wp 1 true) 0 i g1 [5, 1]) ∧ (scratched .k).turn.miss = false := by decide +kernel

theorem witness_resolve : resolve (scratched .k) (Acc.load 0 0 3 0) 0x8000000000000040 8 = .ok (scratched .k) [(.co 0 0x40, 8)] ∧
    resolve (scratched .k) (Acc.store 0 1 3 0) 0x8000000000000040 8 = .ok (scratched .k) [(.co 0 0x40, 8)] ∧
    resolve (scratched .k) (Acc.rmw 0 3 0) 0x8000000000000040 8 = .ok (scratched .k) [(.co 0 0x40, 8)] := ⟨rfl, rfl, rfl⟩

/-- A K lane whose load has missed. -/
def missed : State := { scratched .k with turn := { (scratched .k).turn with miss := true } }

theorem witness_missed : KReady missed 0 (.ld Guard.always 5 1 0 3) Guard.always [5, 1] ∧ missed.turn.miss = true ∧
    (((scratched .k).modCtx 0 fun x => { x with kmiss := some (.ld Guard.always 5 1 0 3) }).ctx 0).kmiss =
      some (.ld Guard.always 5 1 0 3) := by decide +kernel

theorem witness_reply :
    let s := (scratched .k).modCtx 0 fun x => { x with kmiss := some (.ld Guard.always 5 1 0 3) }
    (s.ctx 0).dueFlt = none ∧ (s.ctx 0).stopped = false ∧
      (match resolve s (Acc.load 0 0 3 (BitVec.ofNat 64 (16 * (0 : BitVec 4).toNat))) ((s.ctx 0).rx 1) 8 with
        | .ok s' ps =>
          !teamHeld (advance (noMiss (s'.modCtx 0 fun x => x.wx 5 (BitVec.ofNat 64 (leNat (readPieces s' ps)))) 0) 0 .k 4) 0
        | _ => false) = true := by decide +kernel

/-- The same of a parcel that its supervisor has ended. -/
theorem witness_reply_retired :
    let s := (scratched .k).modCtx 0 fun x => { x with kmiss := some (.ld Guard.always 5 1 0 3), retired := true }
    (s.ctx 0).retired = true ∧ (s.ctx 0).kmiss = some (.ld Guard.always 5 1 0 3) ∧
      (match resolve s (Acc.load 0 0 3 (BitVec.ofNat 64 (16 * (0 : BitVec 4).toNat))) ((s.ctx 0).rx 1) 8 with
        | .ok .. => true
        | _ => false) = true := by decide +kernel

theorem witness_misaligned : (pointers.rx 4).toNat < 2 ^ 52 ∧ (pointers.rx 4).toNat % 2 ^ (3 : BitVec 2).toNat ≠ 0 ∧
    (∀ i ∈ [Instr.ld Guard.always 5 4 0 3, .st Guard.always 5 4 0 3], KReady (scratched .k) 0 i Guard.always [5, 4]) ∧
    (scratched .k).turn.miss = false := by decide +kernel

theorem team_canonical (ln : Lane) (x : Ctx) : (team ln x).Canonical :=
  State.Canonical.setCluster (s := lane ln x) (witness_reset_canonical.of_same rfl rfl rfl rfl rfl rfl) 0
    { Cluster.init with team := some fetchTeam } rfl

theorem witness_canonical : (scratched .k).Canonical ∧ NoRing (scratched .k) ∧ sameKey (scratched .k) [(.co 0 0x40, 8)] = true :=
  ⟨(team_canonical .k pointers).setCore 0 _ (by decide), by decide, rfl⟩

/-- A store that is held, of 9 to 0x40 of the scratchpad; and HBM whose stack 0 retrains. -/
def heldStore : HeldStore := ⟨0x8000000000000040, 3, 0, leBytes 8 9, 0, 0, false, [(.co 0 0x40, 8)], none⟩
def behind : State := (team .k { pointers with stores := [heldStore] }).setCore 0
  { CoreSt.init with scratch := Memory.store [] 0x40 (leBytes 8 0x1122334455667788) }
def unanswered : State := { lane .k (withX [0x10000]) with hbmStacks := State.reset.hbmStacks.set 0 .retraining }

theorem witness_stores : ((scratched .k).ctx 0).stores = [] ∧ (behind.ctx 0).stores ≠ [] ∧ (behind.ctx 0).stores = [heldStore] ∧
    (behind.ctx 0).kmiss = none ∧ allParked (behind.ctx 0) = false ∧
    (∀ s ∈ [behind, unanswered], ∀ i ∈ [Instr.st Guard.always 5 1 0 3, .str Guard.always 5 1 0 3 2, .strSys Guard.always 5 1 0 3],
      KReady s 0 i Guard.always [5, 1]) ∧
    (match resolve unanswered (Acc.store 0 1 3 0) 0x10000 8 with
      | .wait => true
      | _ => false) = true ∧
    resolve behind (Acc.store 0 1 heldStore.lg heldStore.info) heldStore.addr heldStore.data.length =
      .ok behind [(.co 0 0x40, 8)] ∧
    waitsStores (behind.ctx 0) (.fence Guard.always 3) = true ∧ kShape (.fence Guard.always 3) = some (Guard.always, 4, []) ∧
    behind.turn.who = .lane 0 .k ∧ (Instr.fence Guard.always 3).wf = true ∧ guardHolds (behind.ctx 0) Guard.always = true := by
  refine ⟨?_, ?_, ?_, ?_, ?_, ?_, ?_, rfl, ?_⟩ <;> decide +kernel

theorem witness_plain : PlainPieces behind [(.co 0 0x40, 8)] :=
  ⟨(team_canonical .k { pointers with stores := [heldStore] }).setCore 0 _ (by decide), by decide, rfl, by decide⟩

-- R218: the held store's bytes reach memory when it performs.
theorem test_held_store : gives (exec (.scalarAccessReply 0) behind) (fun t =>
    t.scratchByte 0 0x40 == 9 && t.scratchByte 0 0x41 == 0 && (t.ctx 0).stores.isEmpty) = true := by decide +kernel

theorem witness_atomics : (∀ i ∈ [Instr.aadd Guard.always 5 1 2 0 3 0 0, .aand Guard.always 5 1 2 0 3 0 0, .aor Guard.always 5 1 2 0 3 0 0,
    .axor Guard.always 5 1 2 0 3 0 0, .amin Guard.always 5 1 2 0 3 0 0, .amax Guard.always 5 1 2 0 3 0 0,
    .aminu Guard.always 5 1 2 0 3 0 0, .amaxu Guard.always 5 1 2 0 3 0 0, .aswap Guard.always 5 1 2 0 3 0 0],
    KReady (scratched .k) 0 i Guard.always [5, 1, 2]) ∧
    KReady (scratched .k) 0 (.cas Guard.always 5 1 2 3 0 3 0 0) Guard.always [5, 1, 2, 3] ∧
    KReady (scratched .k) 0 (.cas Guard.always 5 1 3 2 0 3 0 0) Guard.always [5, 1, 3, 2] ∧
    atomicRefused true 0x8000000000000040 0 [(.co 0 0x40, 8)] = none ∧
    atomicRefused false 0x8000000000000040 0 [(.co 0 0x40, 8)] = none ∧ recOf (scratched .k) (clusterOf 0) = none ∧
    leNat (readPieces (scratched .k) [(.co 0 0x40, 8)]) = 0x1122334455667788 ∧ pointers.rx 3 ≠ 0x1122334455667788 := by
  decide +kernel

/-- A MONW of x2's value at 0x40 that has waited, been woken, and another that its time has passed. -/
def watching : State := (scratched .k).modCtx 0 fun x =>
  { x with monw := some ⟨.monw Guard.always 3 1 0 3, 2, 0, 1, 0, 0xFF, some 0⟩ }

theorem witness_monw : KReady (scratched .k) 0 (.monw Guard.always 3 1 0 3) Guard.always [3, 1] ∧
    leNat (readPieces (scratched .k) [(.co 0 0x40, 8)]) ≠ (pointers.rx 3).toNat % 2 ^ 64 ∧
    leNat (readPieces (scratched .k) [(.co 0 0x40, 8)]) = (pointers.rx 2).toNat % 2 ^ 64 ∧
    KReady (scratched .k) 0 (.monw Guard.always 2 1 0 3) Guard.always [2, 1] ∧
    (watching.ctx 0).monw.isSome = true ∧ frozen watching 0 .k = false ∧ (watching.ctx 0).dueFlt = none ∧
    0 + 65536 ≤ ({ watching with gt := 65536 } : State).gtOf 0 ∧ recOf watching (clusterOf 0) = none := by decide +kernel

theorem witness_monw_loads :
    resolve ((watching).modCtx 0 fun x => { x with monw := none }) (Acc.load 0 0 3 (classInfo 0)) 0x8000000000000040 8 =
      .ok ((watching).modCtx 0 fun x => { x with monw := none }) [(.co 0 0x40, 8)] := rfl

theorem witness_fence : KReady (lane .k parcel) 0 (.fence Guard.always 3) Guard.always [] := by decide +kernel

-- R218: a load of the bytes that stand at 0x40, and the sign of their third.
theorem test_ld : gives (exec (.ld Guard.always 5 1 0 2) (scratched .k)) (fun t => (t.ctx 0).rx 5 == 0x55667788) = true := by
  decide +kernel
theorem test_lds : gives (exec (.lds Guard.always 5 1 0 0) (scratched .k)) (fun t => (t.ctx 0).rx 5 == 0xFFFFFFFFFFFFFF88) = true := by
  decide +kernel
-- R218: a store of two bytes leaves the third alone.
theorem test_st : gives (exec (.st Guard.always 3 1 0 1) (scratched .k)) (fun t =>
    t.scratchByte 0 0x40 == 0xFF && t.scratchByte 0 0x41 == 0 && t.scratchByte 0 0x42 == 0x66) = true := by decide +kernel
-- R221: AADD.W writes the sign extension of the old word; CAS of an unequal value writes nothing.
theorem test_aadd : gives (exec (.aadd Guard.always 5 1 3 0 2 0 0) (scratched .k)) (fun t =>
    (t.ctx 0).rx 5 == 0x55667788 && t.scratchByte 0 0x40 == 0x87) = true := by decide +kernel
theorem test_cas_unequal : gives (exec (.cas Guard.always 5 1 3 2 0 3 0 0) (scratched .k)) (fun t =>
    (t.ctx 0).rx 5 == 0x1122334455667788 && t.scratchByte 0 0x40 == 0x88) = true := by decide +kernel
-- R376: a misaligned load of 8 bytes is cause 0x24, KIND 0, SUB 3.
theorem test_misaligned : gives (exec (.ld Guard.always 5 4 0 3) ((scratched .k).modCtx 0 handled)) (fun t =>
    (t.ctx 0).frCause.toNat % 65536 == 0x3024 && (t.ctx 0).frAddr == 0x10001) = true := by decide +kernel


/-! ## Streams -/

/-- A stream block: BASE 0x1000 of the scratchpad, INT8, `n` tiles that lie 4,352 bytes apart (spec/05 R104). -/
def strmBlk (n : Nat) : BitVec 512 :=
  BitVec.ofNat 512 (0x1000 + 9 * 2 ^ 64 + 2 * 2 ^ 76 + n * 2 ^ 128 + 2 ^ 144 + 2 ^ 160 + 2 ^ 176 + 2 ^ 192 + 4352 * 2 ^ 224)

/-- An armed stream of two tiles. -/
def armedStrm : Strm := { Strm.init with blk := strmBlk 2, armed := true }

/-- Stream 1 is `t`. -/
def streamed (t : Strm) : Ctx := { pointers with strm := pointers.strm.set 1 t }

/-- The resolved bytes of an access satisfy `p`. -/
def resolves (s : State) (a : Acc) (addr : Word) (n : Nat) (p : State → List (Loc × Nat) → Bool) : Bool :=
  match resolve s a addr n with
  | .ok t ps => p t ps
  | _ => false

/-- A stream block stands at 0x40 of the scratchpad. -/
def blockAt (b : BitVec 512) (x : Ctx) : State :=
  (team .k x).setCore 0 { CoreSt.init with scratch := Memory.store [] 0x40 (leBytes 64 b.toNat) }

theorem witness_sdef : KReady (team .k (streamed armedStrm)) 0 (.sdef Guard.always 1 5 true 5) Guard.always [5] ∧
    KReady (team .k (streamed armedStrm)) 0 (.sdef Guard.always 1 5 false 5) Guard.always [5] ∧
    ({ Strm.init with blk := putField armedStrm.blk (64 * 5) 64 0 } : Strm).valid = true ∧
    KReady (team .k (streamed armedStrm)) 0 (.sdef Guard.always 1 2 true 1) Guard.always [2] ∧
    ({ Strm.init with blk := putField armedStrm.blk (64 * 1) 64 (pointers.rx 2).toNat } : Strm).valid = false := by decide +kernel

theorem witness_sldb : (∀ n ∈ [2, 0], KReady (blockAt (strmBlk n) pointers) 0 (.sldb Guard.always 1 1) Guard.always [1]) ∧
    (resolves (blockAt (strmBlk 2) pointers) (Acc.load 0 0 6 0) 0x8000000000000040 64 fun t ps =>
      ({ Strm.init with blk := BitVec.ofNat 512 (leNat (readPieces t ps)) } : Strm).valid) = true ∧
    (resolves (blockAt (strmBlk 0) pointers) (Acc.load 0 0 6 0) 0x8000000000000040 64 fun t ps =>
      !({ Strm.init with blk := BitVec.ofNat 512 (leNat (readPieces t ps)) } : Strm).valid) = true := by decide +kernel

theorem witness_soff : KReady (team .k (streamed armedStrm)) 0 (.soff Guard.always 1 0) Guard.always [0] ∧
    (0 : Int) ≤ armedStrm.base + ((streamed armedStrm).rx 0).toInt ∧
    armedStrm.base + ((streamed armedStrm).rx 0).toInt < 4503599627370496 ∧
    ({ Strm.init with blk := putField armedStrm.blk 0 52 0x1000 } : Strm).valid = true ∧
    KReady (team .k (streamed armedStrm)) 0 (.soff Guard.always 1 1) Guard.always [1] ∧
    armedStrm.base + ((streamed armedStrm).rx 1).toInt < 0 ∧
    KReady (team .k (streamed armedStrm)) 0 (.soff Guard.always 1 2) Guard.always [2] ∧
    4503599627370496 ≤ armedStrm.base + ((streamed armedStrm).rx 2).toInt := by decide +kernel

/-- The loads of one tile obtain a value. -/
def loads (s : State) (c k tile : Nat) : Bool := (loadTile s c k tile true).isSome

/-- A stream whose four arrival entries are taken. -/
def fullStrm : Strm := { armedStrm with rpos := 1, arr := List.replicate 4 ⟨0, .retry⟩ }

/-- A stream at the end of its extent. -/
def spent : Strm := { armedStrm with rpos := 2, wpos := 2 }

theorem witness_read : (∀ t ∈ [armedStrm, fullStrm, spent],
      (team .l (streamed t)).turn.who = .lane 0 .l ∧ (Instr.read 1 1 ⟨0, 0⟩ 0).wf = true ∧
      (((team .l (streamed t)).ctx 0).lane .l).remain = none ∧ recOf (team .l (streamed t)) (clusterOf 0) = none ∧
      ((team .l (streamed t)).ctx 0).strm[1].armed = true ∧
      (afterToken (team .l (streamed t)) 0 .l ⟨0, 0⟩).isSome = true ∧
      tileCount ((team .l (streamed t)).ctx 0) .l 1 0 = 1) ∧
    loads (setRemain (team .l (streamed armedStrm)) 0 .l 1) 0 1 0 = true ∧ armedStrm.rpos ≠ armedStrm.extent ∧
    armedStrm.arr.length + armedStrm.claimed < 4 ∧ fullStrm.rpos ≠ fullStrm.extent ∧
    4 ≤ fullStrm.arr.length + fullStrm.claimed ∧ spent.rpos = spent.extent := by decide +kernel

/-- A stream with one departure; a stream of packed tiles of MXINT8, with a departure that has no packed form. -/
def leaving : Strm := { armedStrm with dep := [.seed 7] }
def packing : Strm :=
  { leaving with blk := BitVec.ofNat 512 ((strmBlk 2).toNat - 3 * 2 ^ 64 + 2 ^ 69), dep := [.single .mxint8 0 (BitVec.allOnes 2048)] }

theorem witness_write : (∀ t ∈ [leaving, packing, armedStrm, spent],
      (team .s (streamed t)).turn.who = .lane 0 .s ∧ (Instr.write 1 1 ⟨0, 0⟩ 0).wf = true ∧
      (((team .s (streamed t)).ctx 0).lane .s).remain = none ∧ recOf (team .s (streamed t)) (clusterOf 0) = none ∧
      ((team .s (streamed t)).ctx 0).strm[1].armed = true ∧
      (afterToken (team .s (streamed t)) 0 .s ⟨0, 0⟩).isSome = true ∧
      tileCount ((team .s (streamed t)).ctx 0) .s 1 0 = 1) ∧
    (match resolveSegs (Acc.store 0 5 0 (streamInfo leaving 1 1)) leaving.space (departure leaving 0 (.seed 7)).1
        (setRemain (team .s (streamed leaving)) 0 .s 1) with
      | .ok _ _ => true
      | _ => false) = true ∧
    leaving.wpos ≠ leaving.extent ∧ armedStrm.dep = [] ∧ spent.wpos = spent.extent := by decide +kernel

theorem witness_write_forms : noForm leaving (.seed 7) = false ∧ packing.dep = [.single .mxint8 0 (BitVec.allOnes 2048)] ∧
    packing.wpos ≠ packing.extent ∧ noForm packing (.single .mxint8 0 (BitVec.allOnes 2048)) = true ∧
    leaving.comp = false ∧ packing.comp = true ∧ (packTile packing.fmt 0 0).isSome = true := by decide +kernel

/-- The one segment of the departing seed is the bytes from 0x1000 of the scratchpad. -/
theorem witness_write_pieces : (match resolveSegs (Acc.store 0 5 0 (streamInfo leaving 1 1)) leaving.space
      (departure leaving 0 (.seed 7)).1 (setRemain (team .s (streamed leaving)) 0 .s 1) with
    | .ok _ l => l.flatMap (·.2) == [(.co 0 0x1000, 64)]
    | _ => false) = true ∧ PlainPieces (team .s (streamed leaving)) [(.co 0 0x1000, 64)] :=
  ⟨by decide +kernel, team_canonical .s (streamed leaving), by decide, rfl, by decide⟩

/-- A tile store in progress, with and without a token. -/
def storingStrm (q : Option Nat) : Strm := { armedStrm with storing := [(true, q, 5)] }

theorem witness_tile_traffic :
    (∀ q : Option Nat, allParked ((lane .s (streamed (storingStrm q))).ctx 0) = false ∧
      ((lane .s (streamed (storingStrm q))).ctx 0).strm[1].storing = (true, q, 5) :: [] ∧
      ((lane .s (streamed (storingStrm q))).ctx 0).sigDue = [] ∧ ((lane .s (streamed (storingStrm q))).ctx 0).readSigs = []) ∧
    ((lane .s (streamed (storingStrm (some 3)))).ctx 0).tq[3].length +
      heldTokens ((lane .s (streamed (storingStrm (some 3)))).ctx 0) 3 + 1 ≤ 63 ∧
    (let x := { streamed (storingStrm (some 3)) with tq := pointers.tq.set 3 (List.replicate 63 0) }
     63 < x.tq[3].length + heldTokens x 3 + 1) := by
  refine ⟨fun q => ⟨rfl, rfl, rfl, rfl⟩, by decide +kernel, by decide +kernel⟩

-- R108: a READ puts the tile of its read position in flight and moves the position.
theorem test_read : gives (exec (.read 1 1 ⟨0, 0⟩ 0) (team .l (streamed armedStrm))) (fun t =>
    (t.ctx 0).strm[1].rpos == 1 && (t.ctx 0).strm[1].arr.length == 1) = true := by decide +kernel
-- R108: past the extent, cause 0x28 with DETAIL 1.
theorem test_read_past : gives (exec (.read 1 1 ⟨0, 0⟩ 0) ((team .l (streamed spent)).modCtx 0 handled)) (fun t =>
    (t.ctx 0).frCause.toNat % 65536 == 0x128) = true := by decide +kernel
-- R111: a WRITE stores the oldest departure; a seed's 64 bytes stand at the stream's base.
theorem test_write : gives (exec (.write 1 1 ⟨0, 0⟩ 0) (team .s (streamed leaving))) (fun t =>
    t.scratchByte 0 0x1000 == 7 && (t.ctx 0).strm[1].wpos == 1 && (t.ctx 0).strm[1].dep.isEmpty) = true := by decide +kernel
-- R113: a tile without a packed form is cause 0x29, DETAIL 5.
theorem test_write_no_form : gives (exec (.write 1 1 ⟨0, 0⟩ 0) ((team .s (streamed packing)).modCtx 0 handled)) (fun t =>
    (t.ctx 0).frCause.toNat % 65536 == 0x529) = true := by decide +kernel
-- R111: the token of the WRITE is pushed when its store performs.
theorem test_store_performed : gives (exec (.tileStorePerformed 0 1) (lane .s (streamed (storingStrm (some 3))))) (fun t =>
    (t.ctx 0).tq[3] == [5]) = true := by decide +kernel
-- R225: SOFF below zero is cause 0x04, DETAIL 6.
theorem test_soff : gives (exec (.soff Guard.always 1 1) ((team .k (streamed armedStrm)).modCtx 0 handled)) (fun t =>
    (t.ctx 0).frCause.toNat % 65536 == 0x604 && (t.ctx 0).frInfo == 1) = true := by decide +kernel

/-! ## Launching -/

/-- A kernel header: VERSION 1, TICKETS 1, TEAM 1, KOFF 0x40 (spec/03 R40). -/
def header : Nat := 1 + 2 ^ 32 + 2 ^ 48 + 0x40 * 2 ^ 128

/-- Context 0 under page tables that map the first GiB, a header at 0x20000 and zeros at 0x20040; each die's bedrock pool
takes a team. -/
def launching (x : Ctx) : State :=
  let s := writePhys (fetchTables (team .k { x with ptRoot := 0x1000 })) 0 0x20000 (leBytes 64 header)
  { s with dies := s.dies.map fun d => { d with brBase := 0x4000000000, brLen := 16 } }

/-- x1 names the header, x2 is the argument, x3 names what is none. -/
def launcher : Ctx := withX [0x20000, 77, 0x20040]

/-- The header that x1 names is read, and the launch satisfies `p`. -/
def headed (s : State) (a : Word) (p : State → BitVec 512 → Bool) : Bool :=
  match readHeader s 0 a with
  | .ok t h => p t h
  | _ => false

/-- A second header, at 0x20080, of a kernel of two teams; the queue of number 2 of die 1 holds 64 entries, or none. -/
def twoTeams (full : Bool) : State :=
  let s := writePhys (launching (withX [0x20080, 77])) 0 0x20080 (leBytes 64 (header + 0x30002 * 2 ^ 288))
  if full then s.modDie 1 fun x => { x with q := x.q.set 2 { x.q[2] with ents := List.replicate 64 ⟨9, 1, 1⟩ } } else s

theorem witness_launch : KReady (launching launcher) 0 (.launch Guard.always 2 1 2) Guard.always [1, 2] ∧
    (∀ d : Fin 4, (launching launcher).dies[d].inReset = false ∧ (launching launcher).dies[d].inService = true) ∧
    pendingLaunch (launching launcher) 0 0 = none ∧
    (headed (launching launcher) 0x20000 fun t h =>
      let l := mkLaunch t h 0x20000 77 0x1000 0 2 (rootOf t 0)
      !shareRefused t l && homeDies l == [0] && !queueFull t l 0) = true ∧
    (headed ((launching launcher).modDie 0 fun x => { x with brLen := 0 }) 0x20000 fun t h =>
      shareRefused t (mkLaunch t h 0x20000 77 0x1000 0 2 (rootOf t 0))) = true := by decide +kernel

theorem witness_launch_stalls : KReady (twoTeams true) 0 (.launch Guard.always 2 1 2) Guard.always [1, 2] ∧
    (headed (twoTeams true) 0x20080 fun t h =>
      let l := mkLaunch t h 0x20080 77 0x1000 0 2 (rootOf t 0)
      !shareRefused t l && homeDies l == [0, 1] && !queueFull t l 0 && queueFull t l 1) = true := by decide +kernel

/-- The LAUNCH of the second header after it has stalled, and after the queue has emptied. -/
def stalledLaunch (full : Bool) : State :=
  { after (exec (.launch Guard.always 2 1 2) (twoTeams true)) with dies := (twoTeams full).dies }

theorem witness_launch_goes_on : ∀ b : Bool, KReady (stalledLaunch b) 0 (.launch Guard.always 2 1 2) Guard.always [1, 2] ∧
    pendingLaunch (stalledLaunch b) 0 0 = some (0, [1]) ∧ ([1] : List Nat).Nodup ∧ ((stalledLaunch b).launch 0).queue < 16 ∧
    queueFull (stalledLaunch b) ((stalledLaunch b).launch 0) 1 = b := by decide +kernel

theorem witness_launch_refused : KReady (launching launcher) 0 (.launch Guard.always 2 3 2) Guard.always [3, 2] ∧
    readHeader (launching launcher) 0 (launcher.rx 3) = .refused 1 := ⟨by decide +kernel, by decide +kernel⟩

-- R211: a LAUNCH whose second queue is full has entered the first, and K stays at it.
theorem test_launch_stalls : gives (exec (.launch Guard.always 2 1 2) (twoTeams true)) (fun t =>
    ((t.die 0).lq 2).ents == [⟨0, 0, 1⟩] && (t.ctx 0).k.pc == 0 && t.nextLaunch == 1) = true ∧
    gives (exec (.launch Guard.always 2 1 2) (stalledLaunch false)) (fun t =>
    ((t.die 1).lq 2).ents == [⟨0, 1, 1⟩] && (t.ctx 0).k.pc == 4 && t.nextLaunch == 1) = true := by decide +kernel
/-! ## Translation and permissions -/

/-- x1 holds an address; the leaf of the page tables is `leaf`. -/
def mapped (a : Word) (leaf : Nat) : State := writePhys (launching (withX [a])) 0 0x3000 (leBytes 8 leaf)

/-- The load from x1, and the store to it. -/
def ld1 : Instr := .ld Guard.always 5 1 0 3
def st1 : Instr := .st Guard.always 5 1 0 3

/-- A walk for x1 of the load, or the store, finds a leaf of which `p` holds; it faults. -/
def walks (s : State) (a : Acc) (va : Nat) (p : State → TlbEnt → Bool) : Bool := match translate s a va with
  | (t, .leaf l) => p t l
  | _ => false
def walkFaults (s : State) (a : Acc) (va : Nat) : Bool := match translate s a va with
  | (_, .flt _) => true
  | _ => false

theorem witness_accesses : kShape ld1 = some (Guard.always, 4, [5, 1]) ∧ scalarAcc 0 ld1 = some (1, Acc.load 0 0 3 (classInfo 0)) ∧
    kShape st1 = some (Guard.always, 4, [5, 1]) ∧ scalarAcc 0 st1 = some (1, Acc.store 0 1 3 (classInfo 0)) ∧
    KReady (mapped 0x10000 0x1F) 0 ld1 Guard.always [5, 1] ∧ KReady (mapped 0x10000 0x1F) 0 st1 Guard.always [5, 1] ∧
    (mapped 0x10000 0x1F).turn.miss = false ∧ isSup 0 = false ∧
    forward ((mapped 0x10000 0x1F).cluster (clusterOf 0)) 0x10000 = some 0x10000 := by decide +kernel

/-- The clauses of an access that faults, each at an address where it holds. -/
theorem witness_access_faults :
    (0xC000000000000000 : Word).toNat / 2 ^ 62 = 3 ∧ (0x10000000000000 : Word).toNat % 2 ^ 62 / 2 ^ 52 ≠ 0 ∧
    (0x4000000001000000 : Word).toNat % 2 ^ 62 / 2 ^ 24 ≠ 0 ∧ (0x10001 : Word).toNat % 2 ^ 3 ≠ 0 ∧
    localSize ((mapped 0 0x1F).modCtx 0 fun x => { x with subsoil := 8 }) 0 true < (0x800000000007FFF8 : Word).toNat % 2 ^ 19 + 8 ∧
    localSize (mapped 0 0x1F) 0 false < (0x4000000000000000 : Word).toNat % 2 ^ 24 + 8 := by decide +kernel

theorem witness_translations : let load := Acc.load 0 0 3 (classInfo 0)
    let store := Acc.store 0 1 3 (classInfo 0)
    walkFaults (mapped 0 0x1F) load 0x8000000000 = true ∧
    walks (mapped 0 0x3F) load 0x10000 (fun _ t => bitAt t.perm 3) = true ∧
    walks (mapped 0 0x1B) load 0x10000 (fun _ t => !bitAt t.perm 3 && !bitAt t.perm 0) = true ∧
    walks (mapped 0 0x17) store 0x10000 (fun _ t => !bitAt t.perm 3 && !bitAt t.perm 1) = true ∧
    walks (mapped 0 (0x80000000000 + 0x1F)) load 0x10000 (fun _ t => targetOf (t.pa + (0x10000 - t.va)) == .reserved) = true ∧
    walks (mapped 0 (0x4000000000 + 0x1F)) load 0x10000 (fun s t =>
      targetOf (t.pa + (0x10000 - t.va)) == .hbm && inPool s (t.pa + (0x10000 - t.va)) 1) = true := by decide +kernel

theorem witness_walks : (∀ e ∈ [0, 5, 0x2001, 0x1F, 0x111F], leNat (readPhys (mapped 0 e) 0 0x3000 8) = e ∧
      (match checkPhys (mapped 0 e) (Acc.load 0 0 3 0).table 0 0x3000 8 0 with
        | .go => true
        | _ => false) = true) ∧
    0 % 2 = 0 ∧ 5 % 4 = 1 ∧ pointerOk 5 = false ∧ pointerOk 0x2001 = true ∧ 0x1F % 4 = 3 ∧ leafOk 0x1F 30 [] = true ∧
    0x1F / 2 ^ 7 % 2 = 0 ∧ 0x111F % 4 = 3 ∧ leafOk 0x111F 30 [] = false := by decide +kernel

-- R97, R376: a store to a page without W is cause 0x22, KIND 1, SUB 2, at its virtual address.
theorem test_no_write : gives (exec st1 ((mapped 0x10000 0x17).modCtx 0 handled)) (fun t =>
    (t.ctx 0).frCause.toNat % 65536 == 0x2122 && (t.ctx 0).frAddr == 0x10000) = true := by decide +kernel
-- R96, R376: an entry that is not valid at level 0 is cause 0x21, SUB 0.
theorem test_unmapped : gives (exec ld1 ((mapped 0x8000000000000 0x1F).modCtx 0 handled)) (fun t =>
    (t.ctx 0).frCause.toNat % 65536 == 0x0021) = true := by decide +kernel

-- R211: the launch stands in queue 2 of die 0 with its argument.
theorem test_launch : gives (exec (.launch Guard.always 2 1 2) (launching launcher)) (fun t =>
    t.nextLaunch == State.reset.nextLaunch + 1 && (t.launch State.reset.nextLaunch).arg == 77 &&
      ((t.die 0).lq 2).ents.length == 1 && (t.ctx 0).k.pc == 4) = true := by decide +kernel
-- R357: a header of version 0 is a launch refusal, DETAIL 1.
theorem test_launch_refused : gives (exec (.launch Guard.always 2 3 2) ((launching launcher).modCtx 0 handled)) (fun t =>
    (t.ctx 0).frCause.toNat % 65536 == 0x10C && (t.ctx 0).frAddr == 0x20040) = true := by decide +kernel

/-! ## Engine commands -/

/-- A cluster whose escrow counter 3 holds `n`. -/
def escrowed (n : W32) : State :=
  let s := team .k (withX [5, 0xFFFFFFFB, 0x8000000000000040])
  s.modCluster 0 fun x => { x with ec := x.ec.set 3 n }

theorem witness_escrow : recOf (escrowed 7) (clusterOf 0) = none ∧ 0 < 16384 ∧
    (∀ e ∈ [(7, Instr.ecrd Guard.always 1 3, 1), (7, .ecpost Guard.always 1 3, 1), (7, .ecwait Guard.always 1 3, 1),
      (7, .ecpost Guard.always 2 3, 2), (4, .ecpost Guard.always 2 3, 2), (0xFFFFFFFB, .ecpost Guard.always 1 3, 1),
      (5, .ecwait Guard.always 1 3, 1), (7, .cpinv Guard.always 3, 3), (7, .cpinvAll Guard.always, 1)],
      KReady (escrowed e.1) 0 e.2.1 Guard.always [e.2.2]) := by decide +kernel

-- R244: posts of 5 and of -5.
theorem test_ecpost : gives (exec (.ecpost Guard.always 1 3) (escrowed 7)) (fun t => (t.cluster 0).ec[3] == 12) = true ∧
    gives (exec (.ecpost Guard.always 2 3) (escrowed 7)) (fun t => (t.cluster 0).ec[3] == 2) = true := by decide +kernel
-- R383: a decrement beyond the counter is cause 0x2B.
theorem test_ecpost_below : gives (exec (.ecpost Guard.always 2 3) ((escrowed 4).modCtx 0 handled)) (fun t =>
    (t.ctx 0).frCause.toNat % 65536 == 0x32B && (t.cluster 0).ec[3] == 4) = true := by decide +kernel
-- R245: ECWAIT waits above its threshold and goes on at it.
theorem test_ecwait : gives (exec (.ecwait Guard.always 1 3) (escrowed 6)) (fun t => (t.ctx 0).k.wait.isSome) = true ∧
    gives (exec (.ecwait Guard.always 1 3) (escrowed 5)) (fun t => (t.ctx 0).k.pc == 4) = true := by decide +kernel

/-- A copy block of one FP32 element from 0x100 to 0x200 of the scratchpad (spec/10 R238). -/
def copyBlock : BitVec 512 :=
  BitVec.ofNat 512 (0x100 + 0x200 * 2 ^ 64 + 2 * 2 ^ 216 + 2 * 2 ^ 218 + 2 ^ 224 + 2 ^ 256 + 2 ^ 272 + 2 ^ 288 + 2 ^ 304)

/-- A KVAPP block of one BF16 token of 16 elements, a KVPRE and a KVATT block, a KVSEL block of one page, a SELACT block of
one element, a CPYREL block whose slab map entry stands at 0x30000. -/
def kvBlock (extra : Nat) : BitVec 512 := BitVec.ofNat 512 (2 ^ 192 + 16 * 2 ^ 200 + extra)
def appBlock : BitVec 512 := kvBlock (2 ^ 256)
def selBlock : BitVec 512 := kvBlock (2 ^ 256)
def attBlock : BitVec 512 := kvBlock (2 ^ 352)
def actBlock : BitVec 512 := BitVec.ofNat 512 (2 ^ 224)
def relBlock : BitVec 512 := BitVec.ofNat 512 (0x30000 + 0x80000 * 2 ^ 64)

/-- Every hypothesis of the issue of a command holds: its block is captured and passes its checks. `room` is whether its
engine has room, `fits` whether its counter has. -/
def issues (s : State) (op : CmdOp) (addr : Word) (e : Nat) (room fits : Bool) : Bool :=
  match holdBlock s 0 addr e false with
  | .ok s1 j => match blockPost op j.blk.toNat with
    | some p => match findOnce s1 0 op j p addr with
      | .ok s2 _ post => decide ((s2.cluster 0).escrow j.ec + (if j.posted then 0 else post) < 2 ^ 32) == fits &&
          hasRoom (s2.cluster 0) op.eng (isStamped op j.blk.toNat) == room && decide (j.ec < 64)
      | _ => false
    | none => false
  | _ => false

/-- x1 names the block in the scratchpad; a slab map entry of one page of 64 bytes stands at 0x30000. -/
def commanding (b : BitVec 512) : State :=
  let s := writePhys (launching pointers) 0 0x30000 (leBytes 16 (0x40000 + 64 * 2 ^ 96))
  s.setCore 0 { CoreSt.init with scratch := Memory.store [] 0x40 (leBytes 64 b.toNat) }

theorem witness_commands : (∀ i ∈ [Instr.cpy Guard.always 1 15 2 9, .cpyq Guard.always 1 15 2 9, .cpyrel Guard.always 1 15 2 9,
    .kvapp Guard.always 1 15 2 9, .kvsel Guard.always 1 15 2 9, .kvatt Guard.always 1 15 2 9, .kvpre Guard.always 1 15 2 9,
    .selact Guard.always 1 15 2 9], KReady (commanding copyBlock) 0 i Guard.always [1]) ∧ (pointers.rx 1).toNat % 64 = 0 := by
  decide +kernel

/-- The engine of `op` has a full queue in cluster 0; or counter 9 is at its capacity. -/
def crowdedEngine (s : State) (op : CmdOp) : State :=
  let t := after (exec (.cpy Guard.always 1 15 2 9) (commanding copyBlock))
  s.modCluster 0 fun x =>
    { x with cmds := (t.cluster 0).cmds.flatMap fun k => (List.range op.eng.depth).map fun n => { k with id := n, eng := op.eng } }
def fullCounter (s : State) : State := s.modCluster 0 fun x => { x with ec := x.ec.set 9 0xFFFFFFFF }

/-- A block and a command that takes it. -/
def blocks : List (BitVec 512 × CmdOp) :=
  [(copyBlock, .cpy), (copyBlock, .cpyq), (relBlock, .cpyrel), (appBlock, .kvapp), (selBlock, .kvsel), (attBlock, .kvatt),
    (kvBlock 0, .kvpre), (actBlock, .selact)]

theorem witness_issues : ∀ e ∈ blocks, issues (commanding e.1) e.2 (pointers.rx 1) 9 true true = true := by decide +kernel

theorem witness_issues_stall : (∀ e ∈ blocks, issues (crowdedEngine (commanding e.1) e.2) e.2 (pointers.rx 1) 9 false true = true) ∧
    ∀ e ∈ blocks, issues (fullCounter (commanding e.1)) e.2 (pointers.rx 1) 9 true false = true := by decide +kernel

/-- The K lane has captured the block of a CPY that stalls at its engine. -/
def stalledCopy : State := after (exec (.cpy Guard.always 1 15 2 9) (crowdedEngine (commanding copyBlock) .cpy))

theorem witness_held_block : ((commanding copyBlock).ctx 0).issuing = none ∧
    (match capture (commanding copyBlock) 0 (pointers.rx 1) false with
      | .ok .. => true
      | _ => false) = true ∧
    ((stalledCopy.ctx 0).issuing.map fun j => (j.pc, j.posted)) = some ((stalledCopy.ctx 0).k.pc, true) := by decide +kernel

theorem witness_xstart : KReady (commanding 0) 0 (.xstart Guard.always 1 15 15) Guard.always [1] ∧
    (∀ n ∈ [0, 4], (match holdBlock ((commanding 0).modCluster 0 fun x => { x with starts := List.replicate n ⟨0, 0, 0, 0, 0, 15, 15, 0⟩ }) 0
        (pointers.rx 1) 0 true with
      | .ok s1 j => xstartOk j.blk.toNat && (s1.cluster 0).starts.length == n
      | _ => false) = true) := by decide +kernel

-- R234, R239: CPY of one FP32 element posts 4 bytes and enters the copy engine's queue.
theorem test_cpy : gives (exec (.cpy Guard.always 1 15 2 9) (commanding copyBlock)) (fun t =>
    (t.cluster 0).ec[9] == 4 && (t.cluster 0).cmds.length == 1 && (t.ctx 0).k.pc == 4) = true := by decide +kernel
-- R274: KVAPP of one token of 16 BF16 elements posts 2 * 32 + 4 * 16 bytes.
theorem test_kvapp : gives (exec (.kvapp Guard.always 1 15 2 9) (commanding appBlock)) (fun t =>
    (t.cluster 0).ec[9] == 128) = true := by decide +kernel
-- R382: a block with a reserved field set is cause 0x04, DETAIL 9.
theorem test_bad_block : gives (exec (.cpy Guard.always 1 15 2 9) ((commanding relBlock).modCtx 0 handled)) (fun t =>
    (t.ctx 0).frCause.toNat % 65536 == 0x904) = true := by decide +kernel

/-! ## The life of engine commands -/

/-- The number of the first command of cluster 0. -/
def firstCmd (s : State) : Nat := (((s.cluster 0).cmds.map Cmd.id).head?).getD 0

/-- Something holds of the command with a number. -/
def ofCmd (s : State) (id : Nat) (p : Cmd → Bool) : Bool := match (s.cluster 0).cmd id with
  | some k => p k
  | none => false

/-- A copy in the queue, one whose stamp has been reached, one that runs, one whose bytes are written. -/
def queuedCopy : State := after (exec (.cpy Guard.always 1 15 2 9) (commanding copyBlock))
def stampedCopy : State := queuedCopy.modCluster 0 fun x => { x with cmds := x.cmds.map fun k => { k with phase := .stamped } }
def runningCopy : State := after (exec (.engineCommandStart 0 (firstCmd queuedCopy)) queuedCopy)
def writtenCopy : State := after (exec (.copyArrival 0 (firstCmd runningCopy) 1) runningCopy)
def pushingCopy : State := writtenCopy.modCluster 0 fun x => { x with cmds := x.cmds.map fun k => { k with phase := .pushing } }

theorem witness_stamp : (ofCmd stampedCopy (firstCmd stampedCopy) fun k => mayStart stampedCopy 0 k.c && k.phase == .stamped &&
    stampDue stampedCopy 0 (copyBlk k.blk.toNat).stamp && (stampedCopy.cluster 0).cmds.all fun j => firstCmd stampedCopy ≤ j.id) = true := by
  decide +kernel

theorem witness_start : (ofCmd queuedCopy (firstCmd queuedCopy) fun k => mayStart queuedCopy 0 k.c && k.phase == .queued &&
    k.tws.isEmpty && itsTurn (queuedCopy.cluster 0) k &&
    (readied (progress (putCmd queuedCopy 0 { k with phase := .running }) 0) 0 { k with phase := .running }).isSome) = true := by
  decide +kernel

/-- A KVATT whose slab map entry lies in an HBM stack that retrains. -/
def queuedAtt : State :=
  { after (exec (.kvatt Guard.always 1 15 2 9) (commanding attBlock)) with hbmStacks := State.reset.hbmStacks.set 0 .retraining }

theorem witness_start_waits : (ofCmd queuedAtt (firstCmd queuedAtt) fun k => mayStart queuedAtt 0 k.c && k.phase == .queued &&
    k.tws.isEmpty && itsTurn (queuedAtt.cluster 0) k &&
    (let r := readMap (progress (putCmd queuedAtt 0 { k with phase := .running }) 0) 0 { k with phase := .running }
     (readied r.1 0 r.2).isNone)) = true := by
  decide +kernel

theorem witness_complete : (ofCmd writtenCopy (firstCmd writtenCopy) fun k => k.phase == .running && k.ready && k.bad.isNone &&
      k.op == .cpy && decide ((copyBlk k.blk.toNat).count ≤ k.e) && decide (k.ec < 64) &&
      decide (k.left ≤ (writtenCopy.cluster 0).escrow k.ec) && k.ts == 2 && !(writtenCopy.ctx k.c).retired &&
      tokenRoom (writtenCopy.ctx k.c) k.ts 1) = true ∧
    (ofCmd pushingCopy (firstCmd pushingCopy) fun k => k.phase == .pushing) = true := by decide +kernel

-- R234, R125: the copy's token is pushed to tq2 and its counter falls to 0.
theorem test_copy_completes : gives (exec (.engineCommandComplete 0 (firstCmd writtenCopy)) writtenCopy) (fun t =>
    (t.ctx 0).tq[2].length == 1 && (t.cluster 0).ec[9] == 0) = true := by decide +kernel

/-- A SELACT that runs and has one listed write, or two. -/
def selecting : State := after (exec (.selact Guard.always 1 15 2 9) (commanding actBlock))
def listed (n : Nat) : State := selecting.modCluster 0 fun x => { x with cmds := x.cmds.map fun k =>
  { k with phase := .running, ready := true, outs := List.replicate n ⟨0x8000000000000200, [1, 2, 3, 4], 4, 0⟩ } }

theorem witness_writes : ∀ n ∈ [1, 2], (ofCmd (listed n) (firstCmd (listed n)) fun k => k.phase == .running && k.op == .selact &&
    (match readied (listed n) 0 k with
      | some (s1, k1) => k1.op == .selact && k1.outs.length == n && k1.bad.isNone &&
        outsReady (progress s1 0) k1.c k1.outs && resolves (progress s1 0) (Acc.store k1.c 7 0 0) 0x8000000000000200 4 fun s2 ps =>
          ps.length == 1 && decide (NoRing s2)
      | none => false)) = true := by decide +kernel

theorem witness_copies : (ofCmd runningCopy (firstCmd runningCopy) fun k => k.phase == .running &&
    (match readied runningCopy 0 k with
      | some (_, k1) => k1.op == .cpy && k1.bad.isNone
      | none => false)) = true := by decide +kernel

/-- The first command of a state, alone in cluster 0 of a small state. -/
def alone (t s : State) : State :=
  s.modCluster 0 fun x => { x with cmds := (t.cluster 0).cmds.take 1, fwdOld := (t.cluster 0).fwdOld, fwdStat := (t.cluster 0).fwdStat }

/-- Every hypothesis of the copy of one unit holds, and the pieces of its destination are `pieces`. -/
def copiesUnit (s : State) (op : CmdOp) (pieces : List (Loc × Nat)) : Bool := ofCmd s (firstCmd s) fun k => k.phase == .running &&
  (match readied (readMap s 0 k).1 0 (readMap s 0 k).2 with
    | some (s1, k1) =>
      let u := progress s1 0
      let b := copyBlk k1.blk.toNat
      let r := takeSrc u b k1 b.unit k1.e u
      let out := if k1.op = .cpyq then
          convUnit b.df b.policy (drawModes b.rnd b.unit k1.sr).1 k1.k (r.vals.map (elemNum b.sf))
        else ⟨r.vals, 127, none⟩
      let dst := fun t => resolve t (Acc.store k1.c 7 0 0) (b.dstAt k1.e) (unitBytes b.df out).length
      k.ready && k1.op == op && k1.bad.isNone && k1.id == firstCmd s && k1.ahead.isEmpty && k1.part.isEmpty && b.count == k1.e + b.unit &&
        r.stop.isNone && out.bad.isNone &&
        (match dst u with
          | .wait => false
          | _ => true) &&
        (match dst r.s with
          | .ok _ ps => ps == pieces
          | _ => false)
    | none => false)

theorem witness_copy_unit : copiesUnit (alone runningCopy (team .k pointers)) .cpy [(.co 0 0x200, 4)] = true ∧
    PlainPieces (alone runningCopy (team .k pointers)) [(.co 0 0x200, 4)] :=
  ⟨by decide +kernel, (team_canonical .k pointers).modCluster 0 _ fun _ => rfl, by decide, rfl, by decide⟩

theorem witness_copy_source : (ofCmd runningCopy (firstCmd runningCopy) fun k =>
    let b := copyBlk k.blk.toNat
    b.unit == 1 && b.df == b.sf && k.ahead.isEmpty && k.part.isEmpty &&
      resolves runningCopy (Acc.load k.c 6 0 0) (b.srcAt k.e) (b.sf.width / 8) fun v sp =>
        readPieces v sp == readPieces runningCopy sp) = true := by decide +kernel

theorem witness_listed_ends : ∀ op ∈ [CmdOp.selact, .kvsel, .kvatt], (ofCmd ((listed 0).modCluster 0 fun x =>
    { x with cmds := x.cmds.map fun k => { k with op := op, mapped := true } }) (firstCmd (listed 0)) fun k =>
      k.phase == .running && k.ready && k.bad.isNone && k.op == op && k.mapped && k.outs.isEmpty && k.deliver.isNone) = true := by
  decide +kernel

theorem witness_listed_joins : nextJoins ⟨0x8000000000000200, [1, 2, 3, 4], 4, 0⟩ [⟨0x8000000000000204, [1], 1, 0⟩] = true ∧
    nextJoins ⟨0x8000000000000200, [1, 2, 3, 4], 4, 0⟩ [⟨0x8000000000000208, [1], 1, 0⟩] = false := by decide +kernel

-- R239: the listed bytes stand at their address.
theorem test_listed : gives (exec (.copyArrival 0 (firstCmd (listed 1)) 1) (listed 1)) (fun t =>
    t.scratchByte 0 0x200 == 1 && t.scratchByte 0 0x203 == 4) = true := by decide +kernel

/-- A CPYQ of one FP32 element, of value 3.0, whose fold word stands at 0x300 and holds 6.0, with SCALE or without; it starts, and
its element has been written. -/
def quantBlock (sc : Nat) : BitVec 512 := copyBlock + BitVec.ofNat 512 (0x300 * 2 ^ 128 + sc * 2 ^ 215)
def quantizing (sc : Nat) : State :=
  let s := writePhys (commanding (quantBlock sc)) 0 0x300 (leBytes 4 0x40C00000)
  let s := s.setCore 0 { s.core 0 with scratch := (s.core 0).scratch.store 0x100 (leBytes 4 0x40400000) }
  after (exec (.cpyq Guard.always 1 15 2 9) s)
def quantized (sc : Nat) : State :=
  let s := after (exec (.engineCommandStart 0 (firstCmd (quantizing sc))) (quantizing sc))
  after (exec (.copyArrival 0 (firstCmd s) 1) s)

theorem witness_quant_unit :
    let s := after (exec (.engineCommandStart 0 (firstCmd (quantizing 0))) (quantizing 0))
    copiesUnit (alone s (team .k pointers)) .cpyq [(.co 0 0x200, 4)] = true ∧ PlainPieces (alone s (team .k pointers)) [(.co 0 0x200, 4)] :=
  ⟨by decide +kernel, (team_canonical .k pointers).modCluster 0 _ fun _ => rfl, by decide, rfl, by decide⟩

theorem witness_fold_start : (ofCmd (quantizing 1) (firstCmd (quantizing 1)) fun k => (copyBlk k.blk.toNat).scale &&
    (match engRead (quantizing 1) k.c 8 0x300 4 with
      | .ok _ bs => leNat bs == 0x40C00000
      | _ => false)) = true ∧
    (match (targetFor .fp32 127).extreme false with
      | .fin _ g _ => decide (0 < g)
      | _ => false) = true := by decide +kernel

theorem witness_fold : ∀ sc ∈ [0, 1], (ofCmd (quantized sc) (firstCmd (quantized sc)) fun k => k.op == .cpyq && k.phase == .running &&
    k.ready && k.bad.isNone && decide ((copyBlk k.blk.toNat).count ≤ k.e) && ((copyBlk k.blk.toNat).scale == (sc == 1)) &&
    (resolves (quantized sc) (Acc.store k.c 8 0 0) 0x300 4 fun s1 fp => (atomicRefused false 0x300 0 fp).isNone && !anyPoison s1 fp &&
      resolves s1 (Acc.store k.c 8 0 0) 0x304 4 fun s2 kp =>
        !anyPoison (engWrite s2 0 k.c (k.at_ 0) 0x304 kp (leBytes 4 (k.k % 4294967296).toNat)) fp)) = true := by decide +kernel

-- R241: the fold keeps the greater magnitude, 6.0 over the element's 3.0; k stands behind it.
theorem test_fold : gives (exec (.engineCommandComplete 0 (firstCmd (quantized 1))) (quantized 1)) (fun t =>
    leNat (readPhys t 0 0x300 4) == 0x40C00000 && leNat (readPhys t 0 0x304 4) == 125 && (t.cluster 0).cmds.all fun k => !k.live) = true := by
  decide +kernel

/-- A relocation that runs, and one whose pages have all been moved. -/
def relocating : State :=
  let s := after (exec (.cpyrel Guard.always 1 15 2 9) (commanding relBlock))
  after (exec (.engineCommandStart 0 (firstCmd s)) s)
def relocated : State := relocating.modCluster 0 fun x => { x with cmds := x.cmds.map fun k => { k with e := 3 } }

theorem witness_relocation : (ofCmd relocating (firstCmd relocating) fun k => k.op == .cpyrel && k.phase == .running && k.ready &&
      decide (k.e < 2 ^ (slabOf k.map.toNat).logp) &&
      (match relocRead relocating k.c (slabOf k.map.toNat).base (slabOf k.map.toNat).pstride with
        | .ok s1 _ => (match resolveBy false s1 (Acc.store k.c 7 0 0) (BitVec.ofNat 64 (bits k.blk.toNat 64 52))
            (slabOf k.map.toNat).pstride with
          | .ok _ _ => true
          | _ => false)
        | _ => false)) = true ∧
    (ofCmd relocated (firstCmd relocated) fun k => k.op == .cpyrel && k.phase == .running &&
      k.e == 2 ^ (slabOf k.map.toNat).logp + 2 &&
      !(relocated.cluster 0).cmds.any fun j => k.readers.contains j.id && j.live) = true := by decide +kernel

theorem pooled_canonical {s : State} (hs : s.Canonical) (base len : Word) :
    ({ s with dies := s.dies.map fun d => { d with brBase := base, brLen := len } } : State).Canonical :=
  hs.congr rfl rfl rfl (fun _ => rfl) (fun _ => rfl) fun d v hv => by simpa using hv

theorem launching_canonical (x : Ctx) : (launching x).Canonical := by
  unfold launching fetchTables
  exact pooled_canonical ((((team_canonical .k _).writePhys ..).writePhys ..).writePhys .. |>.writePhys ..) _ _

theorem commanding_canonical (b : BitVec 512) (h : (Memory.store [] 0x40 (leBytes 64 b.toNat)).wf = true) : (commanding b).Canonical :=
  ((launching_canonical pointers).writePhys ..).setCore 0 _ h

/-- The relocation alone, with `e` steps done. -/
def relocatingAlone (e : Nat) : State :=
  (alone relocating (commanding relBlock)).modCluster 0 fun x => { x with cmds := x.cmds.map fun k => { k with e := e } }

theorem test_block_stored : (Memory.store [] 0x40 (leBytes 64 relBlock.toNat)).wf = true := by decide +kernel

theorem alone_canonical {s : State} (hs : s.Canonical) (t : State) : (alone t s).Canonical := hs.modCluster 0 _ fun _ => rfl

theorem relocatingAlone_canonical (e : Nat) : (relocatingAlone e).Canonical :=
  State.Canonical.modCluster (alone_canonical (commanding_canonical _ test_block_stored) _) 0 _ fun _ => rfl

theorem witness_page_moved : (ofCmd (relocatingAlone 0) (firstCmd relocating) fun k => k.id == firstCmd relocating && k.ready && k.e == 0 &&
      (match relocRead (relocatingAlone 0) k.c (slabOf k.map.toNat).base (slabOf k.map.toNat).pstride with
        | .ok s1 _ => (match resolveBy false s1 (Acc.store k.c 7 0 0) (BitVec.ofNat 64 (bits k.blk.toNat 64 52))
            (slabOf k.map.toNat).pstride with
          | .ok _ dp => dp == [(.phys 0x80000 0 false, 64)]
          | _ => false)
        | _ => false)) = true ∧ PlainPieces (relocatingAlone 0) [(.phys 0x80000 0 false, 64)] :=
  ⟨by decide +kernel, relocatingAlone_canonical 0, by decide +kernel, by decide +kernel, by decide⟩

theorem witness_map_entry : (match resolveBy false (relocatingAlone 1) ⟨0, 7, 2, true, true, false, 0⟩ 0x30008 4 with
      | .ok _ ps => ps == [(.phys 0x30008 0 false, 4)] && (atomicRefused true 0x30008 0 ps).isNone
      | _ => false) = true ∧
    (match resolveBy false (relocatingAlone 2) (Acc.store 0 7 2 0) 0x30000 8 with
      | .ok _ ps => ps == [(.phys 0x30000 0 false, 8)]
      | _ => false) = true ∧
    PlainPieces (relocatingAlone 1) [(.phys 0x30008 0 false, 4)] ∧ PlainPieces (relocatingAlone 2) [(.phys 0x30000 0 false, 8)] := by
  refine ⟨by decide +kernel, by decide +kernel, ⟨relocatingAlone_canonical 1, ?_, ?_, ?_⟩, ⟨relocatingAlone_canonical 2, ?_, ?_, ?_⟩⟩ <;>
    decide +kernel

-- R242: the page's bytes stand at NEWBASE; LOGP counts one more, then BASE is NEWBASE.
theorem test_page_moved : gives (exec (.relocationPageMoved 0 (firstCmd relocating)) (writePhys relocating 0 0x40000 (leBytes 8 0x1234)))
      (fun t => leNat (readPhys t 0 0x80000 8) == 0x1234) = true ∧
    gives (exec (.relocationFinish 0 (firstCmd relocating)) (relocatingAlone 1)) (fun t => leNat (readPhys t 0 0x30008 4) == 1) = true ∧
    gives (exec (.relocationFinish 0 (firstCmd relocating)) (relocatingAlone 2)) (fun t => leNat (readPhys t 0 0x30000 8) == 0x80000) = true := by
  decide +kernel

theorem witness_relocation_steps : ∀ n ∈ [1, 2], (ofCmd (relocating.modCluster 0 fun x => { x with cmds := x.cmds.map fun k => { k with e := n } })
    (firstCmd relocating) fun k => k.op == .cpyrel && k.phase == .running && 2 ^ (slabOf k.map.toNat).logp == 1 && k.e == n) = true := by
  decide +kernel

-- R115: the forwarding pair holds the old and the new address, and ACTIVE is set until the end.
theorem test_relocation : (relocating.cluster 0).fwdOld = 0x40000 ∧ (relocating.cluster 0).fwdNew = 0x80000 ∧
    bitAt (relocating.cluster 0).fwdStat 63 = true ∧
    gives (exec (.relocationFinish 0 (firstCmd relocated)) relocated) (fun t => !bitAt (t.cluster 0).fwdStat 63) = true := by decide +kernel

/-- An engine fault of context 0 waits in cluster 0. -/
def engFault : EngFlt := ⟨⟨0x29, 1, 0x40, 0⟩, 0, 0, 99⟩
def faulted (x : Ctx) : State := (team .k x).modCluster 0 fun k => { k with flts := [engFault] }

theorem witness_engine_fault : ((faulted inside).cluster 0).flts = engFault :: [] ∧ inHandler ((faulted inside).ctx 0) = true ∧
    inside.resident = true ∧ inside.retired = false ∧ inside.heldFlts.length < 16 ∧
    ((faulted { parcel with retired := true }).ctx 0).retired = true ∧ stopsFaults parcel = false ∧ engFault.c < 16384 ∧
    engFault.flt.cause ≠ 0x0D ∧ ((faulted { parcel with retired := true }).cluster (clusterOf 0)).team = some fetchTeam ∧
    ((faulted (handled parcel)).cluster 0).flts = engFault :: [] ∧ TakesFaults (faulted (handled parcel)) 0 := by decide +kernel

-- R376: the handler sees the engine's position.
theorem test_engine_fault : gives (exec (.engineFault 0) (faulted (handled parcel))) (fun t =>
    (t.ctx 0).frPos == 99 && (t.ctx 0).frCause.toNat % 65536 == 0x129) = true := by decide +kernel

/-! ## The compute lane -/

/-- A resident entry of a kind. -/
def entry (id : Nat) (v : Val) (k : Kind) : Entry := ⟨id, k, some v, .till, false, false, 0⟩

/-- A tile of INT32 whose elements are all `n`. -/
def intTile (n : Nat) : Val := .single .int32 (payloadOf .int32 fun _ _ => n) 0

/-- The stack holds these tiles, top first. -/
def stacked (l : List Val) : State :=
  let kind := fun v : Val => match v with
    | .single f .. => Kind.single f
    | .quad .. => .quad
    | .seed _ => .seed
  team .c { parcel with subsoil := 8, ovfLimit := 0x4000040000, stack := (l.zipIdx 1).map fun e => entry e.2 e.1 (kind e.1) }

/-- Every hypothesis of the dispatch of `i` holds. -/
def dispatches (i : Instr) (s : State) : Bool :=
  let x := s.ctx 0
  match cformOf i s with
  | some f =>
    (s.turn.who == .lane 0 .c) && i.wf && tokenThere s 0 f && (earlyFault x f).isNone && !readsPending x f && sinkRoom x f &&
    (match f.hold x with
      | .go => true
      | _ => false) &&
    (match tiles x f with
      | .ok l => (lateFault s 0 f (.ok l)).isNone
      | _ => false) &&
    (match claimAll 0 (allPops f) (claims x f) s with
      | .ready _ => true
      | .rising _ => false) && (recOf s (clusterOf 0)).isNone
  | none => false

/-- A popped operand from depth `n`; a peeked one. -/
def top (n : Fin 16) : Opnd := ⟨false, n, false⟩
def keep (n : Fin 16) : Opnd := ⟨false, n, true⟩

theorem witness_dispatch_moves : ∀ i ∈ [Instr.tdup ⟨0, 0⟩, .tdrop ⟨0, 0⟩, .tswap ⟨0, 0⟩, .tover ⟨0, 0⟩, .tpick 1 ⟨0, 0⟩, .trot 1 ⟨0, 0⟩,
    .trrt 1 ⟨0, 0⟩, .tzero .bf16 ⟨0, 0⟩, .tacc ⟨0, 0⟩, .tsplat 1 .int32 ⟨0, 0⟩],
    dispatches i (stacked [intTile 3, intTile 5]) = true := by decide +kernel

/-- Count registers of the compute lane: n0 to n2 build a seed entry of one BF16 coefficient, and n7 gives SEEDFIT one seed
and one coefficient. -/
def counted (x : Ctx) : Ctx :=
  { x with n := ((x.n.set 9 1).set 10 0x101).set 15 0x10001 }

/-- A stack of singles and seeds under an accumulator, with streams 2 and 3 at hand: 2 holds a tile of BF16, 3 rows. -/
def working (l : List Val) : State :=
  let row : BitVec 512 := BitVec.ofNat 512 (0x101 * 2 ^ 64)
  (stacked l).modCtx 0 fun x => counted { x with
    strm := ((x.strm.set 1 armedStrm).set 2 { armedStrm with
        blk := strmBlk 2, arr := [⟨0, .here (.single .int8 0 0)⟩] }).set 3
      { armedStrm with
        blk := BitVec.ofNat 512 ((strmBlk 2).toNat + 2 ^ 68), arr := [⟨0, .here (.single .int8 (row.zeroExtend 32768) 0)⟩] } }

def seedVal : Val := .seed (BitVec.ofNat 512 (5 + 0x101 * 2 ^ 64))
def quadVal : Val := .quad 0 0

theorem witness_dispatch_seeds : dispatches (.tseedCnt 0 ⟨0, 0⟩) (working []) = true ∧ dispatches (.tseedStream ⟨true, 3, false⟩ ⟨0, 0⟩) (working []) = true ∧
    dispatches (.tgen (top 0) ⟨0, 0⟩) (working [seedVal]) = true ∧
    dispatches (.seedfit (top 0) Opnd.zero 1 0 ⟨0, 0⟩) (working [intTile 3]) = true := by decide +kernel

theorem witness_dispatch_matrix : dispatches (.tmma (top 1) (top 0) 0 ⟨0, 0⟩) (working [intTile 1, intTile 2, quadVal]) = true ∧
    dispatches (.tdrain (top 0) .fp32 ⟨0, 0⟩) (working [quadVal]) = true ∧
    dispatches (.tlift ⟨true, 2, false⟩ ⟨0, 0⟩) (working []) = true ∧
    dispatches (.tsink (top 0) ⟨true, 1, false⟩ ⟨0, 0⟩) (working [intTile 1]) = true ∧
    dispatches (.tcvt .bf16 (top 1) (top 0) .e4m3 ⟨0, 0⟩ 0) (working [intTile 1, intTile 2]) = true ∧
    dispatches (.tqnt .bf16 (top 1) (top 0) .e4m3 ⟨0, 0⟩ 0) (working [intTile 1, intTile 2]) = true := by decide +kernel

theorem witness_dispatch_pairs : ∀ i ∈ [Instr.tadd (top 1) (top 0) .fp32 ⟨0, 0⟩ 0, .tsub (top 1) (top 0) .int32 ⟨0, 0⟩ 1,
    .tmul (top 1) (keep 0) .bf16 ⟨0, 0⟩ 0, .tmin (top 1) (top 0) .fp32 ⟨0, 0⟩ 0, .tmax (top 1) (top 0) .int8 ⟨0, 0⟩ 0,
    .taddS (top 1) (top 0) .int32 ⟨0, 0⟩ 0, .taddT (top 1) (top 0) .int8 ⟨0, 0⟩ 0, .tsubS (top 1) (top 0) .int32 ⟨0, 0⟩ 0,
    .tsubT (top 1) (top 0) .int32 ⟨0, 0⟩ 0, .tcmpeq (top 1) (top 0) .fp32 ⟨0, 0⟩ 0, .tcmplt (top 1) (top 0) .fp32 ⟨0, 0⟩ 0,
    .tcmple (top 1) (top 0) .fp32 ⟨0, 0⟩ 0, .tperm (top 1) (top 0) .int8 ⟨0, 0⟩ 0, .tand (top 1) (top 0) .int32 ⟨0, 0⟩ 0,
    .tor (top 1) (top 0) .int32 ⟨0, 0⟩ 0, .txor (top 1) (top 0) .int32 ⟨0, 0⟩ 0, .tfma (top 1) (top 0) .fp32 ⟨0, 0⟩ 0,
    .tsel (top 1) (top 0) .fp32 ⟨0, 0⟩ 0],
    dispatches i (working [intTile 1, intTile 2, intTile 3]) = true := by decide +kernel

theorem witness_dispatch_ones : ∀ i ∈ [Instr.tabs (top 0) .fp32 ⟨0, 0⟩ 0, .tneg (top 0) .int32 ⟨0, 0⟩ 0, .trsum (top 0) .fp32 ⟨0, 0⟩ 0,
    .trmax (top 0) .fp32 ⟨0, 0⟩ 0, .trmin (top 0) .fp32 ⟨0, 0⟩ 0, .texp2 (top 0) .fp32 ⟨0, 0⟩ 0, .trcp (top 0) .bf16 ⟨0, 0⟩ 0,
    .tnot (top 0) .int32 ⟨0, 0⟩ 0, .txpose (top 0) .bf16 ⟨0, 0⟩ 0, .tshl (top 0) 3 .int32 ⟨0, 0⟩ 0, .tshr (top 0) 3 .int32 ⟨0, 0⟩ 0,
    .tsra (top 0) 3 .int32 ⟨0, 0⟩ 0],
    dispatches i (working [intTile 1]) = true := by decide +kernel

theorem witness_dispatch_refused :
    cformOf (.tswap ⟨0, 0⟩) (stacked [intTile 1]) = some (formTswap ⟨0, 0⟩) ∧ CReady (stacked [intTile 1]) 0 (.tswap ⟨0, 0⟩) ∧
    tokenThere (stacked [intTile 1]) 0 (formTswap ⟨0, 0⟩) = true ∧
    (depthsOf (formTswap ⟨0, 0⟩)).find? (fun d => decide (((stacked [intTile 1]).ctx 0).stack.length ≤ d)) = some 1 ∧
    (∀ d ∈ depthsOf (formTgen (top 0) ⟨0, 0⟩), d < ((stacked [intTile 1]).ctx 0).stack.length) ∧
    (firstSome (streamMisuse ((stacked [intTile 1]).ctx 0) false) (formTgen (top 0) ⟨0, 0⟩).srcs).isNone = true ∧
    ((formTgen (top 0) ⟨0, 0⟩).check ((stacked [intTile 1]).ctx 0)
      ((formTgen (top 0) ⟨0, 0⟩).srcs.map (kindOf ((stacked [intTile 1]).ctx 0))) none).isSome = true :=
  ⟨rfl, by decide +kernel, by decide +kernel, by decide +kernel, by decide +kernel, by decide +kernel, by decide +kernel⟩

-- R365: TSWAP of one entry is an underflow at depth 1 of 1, found at its dispatch.
theorem test_underflow : gives (exec (.tswap ⟨0, 0⟩) (stacked [intTile 1])) (fun t =>
    ((t.ctx 0).infl.map fun j => j.flt.map fun f => (f.cause, f.addr.toNat, f.info.toNat)) == [some (5, 1, 1)]) = true := by decide +kernel
-- R229, R227: TLIFT puts the stream's tile on the stack; TDROP takes the top away.
theorem test_tlift : gives (exec (.tlift ⟨true, 2, false⟩ ⟨0, 0⟩) (working [])) (fun t =>
    (t.ctx 0).stack.length == 1 && (t.ctx 0).strm[2].arr.isEmpty) = true := by decide +kernel
-- R230: a departure is reserved at dispatch.
theorem test_tsink : gives (exec (.tsink (top 0) ⟨true, 1, false⟩ ⟨0, 0⟩) (working [intTile 1])) (fun t =>
    (t.ctx 0).strm[1].reserved == 1 && (t.ctx 0).stack.isEmpty) = true := by decide +kernel
-- R249: an INT32 sum wraps, TADD.S saturates.
def made (f : CForm) (l : List Val) (g : Fmt) (i j : Nat) : Nat := outElem (f.make parcel l none) g i j
theorem test_tadd : made (formTadd (top 1) (top 0) .int32 ⟨0, 0⟩ 0 (working [])) [intTile 0xFFFFFFFF, intTile 3] .int32 5 7 = 2 := by
  decide +kernel
/-- The parcel's conversion rounds to nearest; n7 of the compute lane gives SEEDFIT one seed; a seed entry is for BF16. -/
theorem witness_values : rndOf (counted parcel) ≠ 4 ∧ 0 < fitN (counted parcel) ∧ seedFmt (2 ^ 72) = 1 ∧
    ¬(-2147483648 ≤ (0x7FFFFFFF : W32).toInt + (3 : W32).toInt ∧ (0x7FFFFFFF : W32).toInt + (3 : W32).toInt ≤ 2147483647) ∧
    (0 : Nat) < 64 ∧ (63 : Nat) < 64 ∧ (15 : Nat) < 16 ∧ (31 : Nat) < 32 := by decide +kernel

theorem test_taddS : made (formTaddS (top 1) (top 0) .int32 ⟨0, 0⟩ 0 (working [])) [intTile 0x7FFFFFFF, intTile 3] .int32 0 0 =
    0x7FFFFFFF := by decide +kernel

/-! ## Commits and the stack -/

/-- A dispatched TDUP of the compute lane; one that has met a fault. -/
def dupInfl : Infl := inflOf parcel (.tdup ⟨0, 0⟩) 0x12000000
def dispatched (f : Option Flt) : State := team .c { handled parcel with infl := [{ dupInfl with flt := f }] }

/-- A push of tokens waits; the entry at depth 0 lies in the subsoil; it rises. -/
def laid (r : Res) : State :=
  team .c { parcel with subsoil := 8, ovfLimit := 0x40000, sigWait := [⟨3, 2, 9, 0, true⟩], stack := [{ entry 1 (intTile 3) (.single .int32) with res := r }] }

/-- A dispatched TZERO, whose result is still pending; a dispatched SIG. -/
def zeroing : State := after (exec (.tzero .int32 ⟨0, 0⟩) (stacked []))
def signalling : State := after (exec (.sig Guard.always 3 2) (stacked []))

theorem witness_commit_results : (match (zeroing.ctx 0).infl with
      | [j] => j.flt.isNone && ((j.results.map (·.1)).foldl (prepResult 0) (zeroing, true)).2 && decide (j.results.map (·.1)).Nodup &&
        j.results.length == 1
      | _ => false) = true ∧ (zeroing.ctx 0).retired = false ∧
    (match (signalling.ctx 0).infl with
      | [j] => j.sig == some (3, 2) && tokenRoom { signalling.ctx 0 with infl := [] } 3 2
      | _ => false) = true ∧ (signalling.ctx 0).sigWait = [] := by decide +kernel

/-- A trap is due in a held team, in handler state, and without a handler. -/
def trapDue (x : Ctx) (h : Option Nat) : State :=
  { team .c { x with infl := [{ dupInfl with flt := some ⟨0x05, 0, 1, 1⟩ }] } with
    clusters := [(0, { Cluster.init with team := some { fetchTeam with held := h } })] }

theorem witness_unwind : teamHeld (trapDue parcel (some 0x0E)) 0 = true ∧
    (∀ x ∈ [handled parcel, inside, parcel], teamHeld (trapDue x none) 0 = false ∧ x.dueFlt = none ∧ x.dbgFlt = none ∧ x.kmiss = none ∧
      stopsFaults x = false ∧ ((trapDue x none).cluster (clusterOf 0)).team = some fetchTeam) ∧
    isSup 0 = false ∧ inHandler (handled parcel) = false ∧ hasHandler (handled parcel) 0 = true ∧ inHandler inside = true ∧
    hasHandler parcel 0 = false := by decide +kernel

theorem witness_commit : ((dispatched none).ctx 0).infl = { dupInfl with flt := none } :: [] ∧
    ((dispatched (some ⟨0x05, 0, 0, 0⟩)).ctx 0).infl = { dupInfl with flt := some ⟨0x05, 0, 0, 0⟩ } :: [] ∧
    ((laid .till).ctx 0).sigWait = ⟨3, 2, 9, 0, true⟩ :: [] ∧ tokenRoom ((laid .till).ctx 0) 3 2 = true ∧
    (toLift ((laid .subsoil).ctx 0)).length = 1 ∧
    (getSlotsNow 0 1 (Kind.single .int32).slots true 64 (leaveDeep (laid .subsoil) 0)).isSome = true ∧
    (match getSlots (leaveDeep (laid .subsoil) 0) 0 1 (Kind.single .int32).slots true with
      | .have_ _ => true
      | _ => false) = true := by decide +kernel

-- R86: the head of C moves with the commit.
theorem test_commit : gives (exec (.cCommit 0) (dispatched none)) (fun t => (t.ctx 0).infl.isEmpty && (t.ctx 0).cl.head == 1) = true := by
  decide +kernel
-- R88: a trap of a dispatched instruction is precise at it, in lane 2.
theorem test_unwind : gives (exec (.trapUnwind 0) (dispatched (some ⟨0x05, 0, 0, 0⟩))) (fun t =>
    (t.ctx 0).frCause.toNat % 65536 == 5 && (t.ctx 0).infl.isEmpty && inHandler (t.ctx 0)) = true := by decide +kernel
-- R80, R71: an entry of the subsoil rises, and is resident at the end of its move.
theorem test_lift : gives (exec (.anticipationLift 0) (laid .subsoil)) (fun t => (t.ctx 0).stack.map (·.res) == [.movingS]) = true ∧
    gives (exec (.stackMoveComplete 0 1) (laid .movingS)) (fun t => (t.ctx 0).stack.map (·.res) == [.till]) = true := by decide +kernel

/-! ## The kiln -/

/-- A start that waits in the kiln's queue. -/
def start (b : Nat) : KStart := ⟨0, BitVec.ofNat 512 b, 0x40, 0, 0, 15, 15, 0⟩
def starting (b : Nat) : State := (team .k parcel).modCluster 0 fun x => { x with starts := [start b] }

theorem witness_kiln_start : ((starting (7 * 2 ^ 64)).cluster 0).run = none ∧ ((starting (7 * 2 ^ 64)).cluster 0).kpush = [] ∧
    ((starting (7 * 2 ^ 64)).cluster 0).starts = start (7 * 2 ^ 64) :: [] ∧ ((starting (7 * 2 ^ 64)).cluster 0).reload = [] ∧ (start (7 * 2 ^ 64)).tw = 15 ∧
    mayStart (starting (7 * 2 ^ 64)) 0 0 = true := by decide +kernel

/-- The kiln of cluster 0 runs a program: g1 names offset 0x1000 of the scratchpad, g2 0x3000, g3 a conversion from FP32 to
INT32, g4 one to MXINT8; its words 0 to 2 are XLOOP 0, XEND, XHALT. -/
def program (cfg : Word) (loops : List (Nat × W32)) : KRun :=
  { kilnInit (start 0) with
    g := #v[0, 0x8000000000001000, 0x8000000000003000, 0xA0, 0x60, 0, 0, 0, 0, 0, 0, 0, 0, 0, 0, 0], cfg := cfg, loops := loops, ts := 4 }
def kiln (r : KRun) : State :=
  let s := (team .k parcel).modCluster 0 fun x => { x with run := some r, imem := [(0, 0x01000000), (1, 0x02000000)] }
  { s with turn := Turn.plain (.kiln 0) }

theorem witness_kiln_load :
    (match loadWords 0 0 1 0x10000 5 ((launching parcel).modCluster 0 fun x => { x with run := some { program 0 [] with loading := true } }) with
      | (_, n, stop) => n == 1 && stop.isNone) = true := by decide +kernel

theorem witness_kiln : XReady (kiln (program 0 [])) 0 (program 0 []) ∧ (program 0 []).loops.length < 4 ∧
    skipLoop ((kiln (program 0 [])).cluster 0) 4094 1 0 = .inl 2 ∧
    (skipLoop (((kiln (program 0 [])).modCluster 0 fun x => { x with imem := [] }).cluster 0) 4094 1 0) = .inr ⟨0x2D, 2, 0, 0⟩ ∧
    4 ≤ (program 0 (List.replicate 4 (1, 1))).loops.length ∧
    XReady (kiln (program 0 [(1, 1)])) 0 (program 0 [(1, 1)]) ∧ XReady (kiln (program 0 [(1, 2)])) 0 (program 0 [(1, 2)]) ∧
    cfgOk (program 0 []).g[3] = true ∧ cfgOk (program 0 []).g[1] = false := by decide +kernel

/-- A read of `n` bytes and a write of `m` bytes of the kiln resolve. -/
def moves (r : KRun) (lg n m : Nat) : Bool :=
  resolves (kiln r) (Acc.load 0 11 lg 0) r.g[1] n fun s _ => resolves s (Acc.store 0 11 lg 0) r.g[2] m fun _ _ => true

theorem witness_kiln_data : moves (program 0 []) 2 4 4 = true ∧ moves (program 0 []) 3 8 8 = true ∧
    moves (program 0 []) 6 4352 4352 = true ∧ moves (program 6 []) 6 4352 4288 = true ∧ (fmtCode 6).isMx = true ∧
    (packTile .mxint8 0 0).isSome = true ∧ moves (program 0 []) 6 4288 4352 = true ∧ xconvOk 0xA0 1 = true ∧
    convStep .fp32 .int32 = 1 ∧ moves (program 0xA0 []) 0 4 4 = true := by decide +kernel

/-- A packed image of MXINT8 (spec/07 R416): the image that XPACK makes of a tile of zeros. -/
def packedImage : Nat := leNat ((packTile .mxint8 0 0).getD [])

theorem witness_unpack : packedFmt packedImage = some .mxint8 ∧ packedOk .mxint8 packedImage = true := by decide +kernel

theorem witness_convert : (convUnit .int32 0 [.rne] 0 [.fin false 0 0]).bad = none ∧
    (unitBytes .int32 (convUnit .int32 0 [.rne] 0 [.fin false 0 0])).length = 4 := by decide +kernel

theorem witness_kiln_tokens : ((kiln (program 0 [])).cluster 0).team = some fetchTeam ∧ fetchTeam.recd = none ∧
    (program 0 []).g[0].toNat < 256 ∧ (program 0 []).g[0].toNat < fetchTeam.size ∧
    ((kiln (program 0 [])).cluster 0).ct[(3 : Fin 32)].bind = none ∧ ((kiln (program 0 [])).cluster 0).kpush = [] ∧
    ((kiln (program 0 [])).ctx 0).retired = false ∧ tokenRoom ((kiln (program 0 [])).ctx 0) 4 1 = true := by decide +kernel

/-- Counter 3 is bound to tq2 of parcel 0. -/
def bound (x : Ctx) : State :=
  (kiln (program 0 [])).setCtx 0 x |>.modCluster 0 fun k => { k with ct := k.ct.set 3 ⟨[], some (0, 2)⟩ }

theorem witness_bound : ((bound tokens).cluster 0).ct[(3 : Fin 32)].bind = some (0, (2 : Fin 16).val) ∧ XReady (bound tokens) 0 (program 0 []) ∧
    ctxOfParcel 0 0 = 0 ∧ ((bound parcel).ctx 0).retired = false ∧ tokenRoom ((bound parcel).ctx 0) 2 5 = true ∧
    ((bound { parcel with retired := true }).ctx 0).retired = true ∧
    (let x := { parcel with tq := parcel.tq.set 2 [0, 0] }
     2 ≤ ((bound x).ctx 0).tq[2].length ∧ earlierInput ((bound x).cluster 0) 0 2 ((bound x).cluster 0).nextCmd = false ∧
      servedFirst ((bound x).ctx 0) 4 2 = false) := by decide +kernel

-- R299: a token of a bound counter stands in the parcel's queue.
theorem test_bound : gives (exec (.xsig 1 3) (bound parcel)) (fun t => (t.ctx 0).tq[2].length == 1) = true := by decide +kernel

theorem witness_xwait : (2 : Nat) ≤ (((kiln (program 0 [])).modCluster 0 fun x => { x with ct := x.ct.set 3 ⟨[7, 8], none⟩ }).cluster 0).ct[(3 : Fin 32)].pushers.length := by
  decide +kernel

-- R294: XADDI adds its sign-extended immediate; XADDR adds a shifted register.
theorem test_xaddi : gives (exec (.xaddi 5 4 0xFFF) (kiln (program 0 []))) (fun t =>
    ((t.cluster 0).run.map fun r => (r.g[5], r.pc)) == some (0x5F, 1)) = true := by decide +kernel
theorem test_xaddr : gives (exec (.xaddr 5 3 4 4) (kiln (program 0 []))) (fun t =>
    ((t.cluster 0).run.map fun r => r.g[5]) == some 0x6A0) = true := by decide +kernel
-- R295: a loop of no pass goes on behind its XEND.
theorem test_xloop : gives (exec (.xloopImm 0) (kiln (program 0 []))) (fun t =>
    ((t.cluster 0).run.map (·.pc)) == some 2) = true := by decide +kernel
-- R301: XHALT pushes the program's token.
theorem test_xhalt : gives (exec .xhalt (kiln (program 0 []))) (fun t =>
    (t.cluster 0).run.isNone && (t.ctx 0).tq[4].length == 1) = true := by decide +kernel
-- R299, R300: XSIG counts up, XWAIT takes.
theorem test_xsig : gives (exec (.xsig 2 3) (kiln (program 0 []))) (fun t => (t.cluster 0).ct[(3 : Fin 32)].pushers.length == 2) = true := by
  decide +kernel
-- R294: XMOVE moves a word.
theorem test_xmove : gives (exec (.xmove 2 1 1) ((kiln (program 0 [])).setCore 0
    { CoreSt.init with scratch := Memory.store [] 0x1000 (leBytes 8 0x1122334455667788) })) (fun t =>
    t.scratchByte 0 0x3000 == 0x88 && t.scratchByte 0 0x3007 == 0x11) = true := by decide +kernel
-- R246: the program begins at the block's entry word.
theorem test_kiln_start : gives (exec (.kilnStart 0) (starting (7 * 2 ^ 64))) (fun t =>
    ((t.cluster 0).run.map (·.pc)) == some 7) = true := by decide +kernel

/-! ## Teams -/

/-- Launch 5 of two teams of one parcel; its second team waits in queue 3 of die 0. -/
def launch5 (preempt : Nat) : Launch :=
  ⟨0x20000, BitVec.ofNat 512 (header + preempt * 2 ^ 10 + (0x30002 : Nat) * 2 ^ 288), 77, 0x1000, 0, 3, 5, 2, [], none, false⟩
def queued (preempt : Nat) : State :=
  let s := launching parcel
  let s := { s with launches := [(5, launch5 preempt)] }
  s.modDie 0 fun x => { x with q := x.q.set 3 { x.q[3] with ents := [⟨5, 4, 1⟩] } }

/-- Every cluster of die 0 runs a team of launch 5 that waits at a device barrier. -/
def crowded (preempt : Nat) : State :=
  let s := queued preempt
  { s with clusters := (List.range 16).map fun k =>
      (k, { Cluster.init with team := some { fetchTeam with launch := 5, seq := k, waiting := some (2, 0) } }) }

theorem witness_place : (1 : Nat) < 64 ∧ 0 < ((queued 0).launch 5).header.team ∧ ((queued 0).launch 5).header.team ≤ 256 := by decide +kernel

/-- A team all of whose parcels have retired. -/
def finished : State := team .k { parcel with retired := true }

theorem witness_team_end : (finished.cluster 0).team = some fetchTeam ∧ teamOver finished 0 fetchTeam = true ∧ leftOver fetchTeam = none ∧
    (let t : Team := { fetchTeam with recd := some ⟨2, 0, 0, 0, [⟨7, 0, 1, 5, 0⟩], [], [], false⟩ }
     (leftOver t).isSome = true ∧ teamOver (finished.modCluster 0 fun x => { x with team := some t }) 0 t = true) := by
  decide +kernel

theorem witness_placement : freeCluster (queued 0) 0 = some 1 ∧ mayPlace (queued 0) 0 = true ∧
    (nextResumed ((queued 0).die 0)).isNone = true ∧ leastQueue ((queued 0).die 0) = some 3 ∧
    (takeFirst (((queued 0).die 0).lq 3)).isSome = true ∧
    ((queued 0).launch 5).header.team * ((queued 0).launch 5).header.region ≤ shareOf ((queued 0).die 0) ∧
    shareOf (((queued 0).modDie 0 fun x => { x with brLen := 0 }).die 0) < ((queued 0).launch 5).header.team * ((queued 0).launch 5).header.region := by
  decide +kernel

/-- A team that waits to be resumed on die 0. -/
def saved : Saved := ⟨fetchTeam, 0, [(0, parcel)], [], Cluster.init, none⟩
def resuming : State := (queued 0).modDie 0 fun x => { x with resumed := [saved] }

theorem witness_resume : freeCluster resuming 0 = some 1 ∧ mayPlace resuming 0 = true ∧ nextResumed (resuming.die 0) = some (saved, []) ∧
    saved.team.recd = none ∧ (saved.ctxs.map (·.1)).Nodup ∧ (∀ e ∈ saved.ctxs, e.1 < 256) ∧ (saved.cores.map (·.1)).Nodup := by
  decide +kernel

/-- Die 0 has no free cluster left to place the team of its queue; die 1 may steal it. -/
theorem witness_steal : freeCluster (crowded 0) 1 = some 16 ∧ maySteal (crowded 0) 1 = true ∧ victimOf (crowded 0) 1 = some (0, 3) ∧
    servedBefore (crowded 0) 1 (0, 3) = false ∧ (takeLast (((crowded 0).die 0).lq 3)).isSome = true ∧
    ((crowded 0).launch 5).header.team * ((crowded 0).launch 5).header.region ≤ shareOf ((crowded 0).die 1) := by decide +kernel

/-- Die 1 may steal it, and has no room for it; its launch belongs to root 5 or 4. -/
def short (root : Nat) : State :=
  { (crowded 0).modDie 1 fun x => { x with brLen := 0 } with launches := [(5, { launch5 0 with root := root })] }

theorem witness_steal_fails : ∀ r ∈ [4, 5], freeCluster (short r) 1 = some 16 ∧ maySteal (short r) 1 = true ∧
    victimOf (short r) 1 = some (0, 3) ∧ servedBefore (short r) 1 (0, 3) = false ∧ (takeLast (((short r).die 0).lq 3)).isSome = true ∧
    shareOf ((short r).die 1) < ((short r).launch 5).header.team * ((short r).launch 5).header.region ∧ ((short r).launch 5).bars = [] ∧
    (((short r).launch 5).root ≠ 5 ↔ r = 4) := by decide +kernel

theorem witness_request : need (crowded 1) 0 true = some 15 ∧ savesWaiting (crowded 1) 0 = false ∧ outstanding (crowded 1) 0 = false ∧
    outstanding ((crowded 1).modDie 0 fun x => { x with request := some (15, 0) }) 0 = true ∧
    need (crowded 0) 0 false = some 15 ∧ isHeld (crowded 0) 15 = false ∧ savesWaiting (crowded 0) 0 = false ∧
    ((crowded 0).die 0).noPre = none ∧ (∀ c ∈ teamCtxs (crowded 0) 15, stopsFaults ((crowded 0).ctx c) = false) ∧
    (let s := { (crowded 0).modDie 0 fun x => { x with noPre := some (15, 0) } with cycle := 2 ^ 24 }
     need s 0 false = some 15 ∧ isHeld s 15 = false ∧ savesWaiting s 0 = false ∧ 0 + 2 ^ 24 ≤ s.cycle) := by decide +kernel

/-- The team of cluster 0 is to be saved at 0x1000000; its save is under way. -/
def go : Word := 1 + 0x1000000
def saving : State := (preemptGo (queued 0) 0 go).2

theorem witness_preempt : bitAt ((queued 0).die 0).preemptCtl 0 = false ∧ go.toNat / 2 ^ 52 = 0 ∧ go.toNat / 256 % 16 = 0 ∧
    go.toNat / 2 % 8 = 0 ∧ bitAt go 0 = true ∧ ((queued 0).cluster 0).team = some fetchTeam ∧
    go.toNat / 4096 % 2 ^ 40 * 4096 + saveSize ((queued 0).launch 0).header ≤ 2 ^ 39 ∧
    (saving.die 0).saving = some 0 ∧ (saving.cluster 0).team.isSome = true ∧ teamQuiet saving 0 = true ∧
    saveDamaged saving 0 fetchTeam = false ∧ saveDamaged (saving.modCluster 0 fun x => { x with cmemBad := [0] }) 0 fetchTeam = false ∧
    saveDamaged (saving.modCtx 0 fun x => { x with stack := [{ entry 1 (intTile 3) (.single .int32) with damaged := true }] }) 0 fetchTeam = true ∧
    (∀ c ∈ teamCtxs saving 0, stopsFaults (saving.ctx c) = false) := by decide +kernel

-- R54: the team goes to the lowest free cluster, its K lane to the header's KOFF, and the queue's PASS moves by its STRIDE.
theorem test_place : gives (exec (.teamPlace 0) (queued 0)) (fun t => (t.cluster 1).team.isSome && (t.ctx 256).resident &&
    (t.ctx 256).k.pc == 0x20040 && (t.ctx 256).larg == 77 && ((t.die 0).lq 3).pass == 0x100000 / 16) = true := by decide +kernel
-- R362: a team that does not fit ends its launch with cause 0x10, and the root with it.
theorem test_steal_fails : gives (exec (.teamSteal 1) (short 4)) (fun t => (t.cluster 16).team.isNone && (t.launch 5).failed == some 0x10 &&
    (t.launch 4).failed == some 0x10 && ((t.die 1).msgs.map fun m => m.cause.toNat % 65536) == [0x10]) = true := by decide +kernel
-- R65, R77: a resumed parcel's overflow part stands in its new cluster's share.
theorem test_resume : gives (exec (.teamPlace 0) resuming) (fun t => (t.cluster 1).team.isSome && (t.ctx 256).resident &&
    (t.ctx 256).ovfBase == BitVec.ofNat 64 (0x4000000000 + shareOf (t.die 0))) = true := by decide +kernel
-- R56: die 1 steals it where die 0 cannot place it.
theorem test_steal : gives (exec (.teamSteal 1) (crowded 0)) (fun t => (t.cluster 16).team.isSome && ((t.die 0).lq 3).ents.isEmpty) = true := by
  decide +kernel
-- R62: the request names the team placed last.
theorem test_request : gives (exec (.preemptRequest 0) (crowded 1)) (fun t =>
    ((t.die 0).msgs.map fun m => m.cause.toNat % 256) == [0x13] && ((t.die 0).request.map (·.1)) == some 15) = true := by decide +kernel
-- R65: the save frees the cluster, and the team waits to be resumed.
theorem test_save : gives (exec (.preemptSaveComplete 0 false) saving) (fun t =>
    (t.cluster 0).team.isNone && (t.die 0).resumed.length == 1 && !bitAt (t.die 0).preemptCtl 0) = true := by decide +kernel

/-! ## Stalls, held teams, the fault ring -/

/-- A team of which every lane has waited for 2^24 cycles for its tokens, or for an escrow counter that has no room. -/
def waitOf (kind obj n : Nat) : LaneSt := { LaneSt.init with pc := 0x10000, wait := some ⟨kind, obj, n, 0, 0, true⟩ }
def stuck : State :=
  { team .k { parcel with k := waitOf 0 3 1, l := waitOf 0 3 1, cl := waitOf 0 3 1, sl := waitOf 0 3 1 } with cycle := 2 ^ 24 }
def overPosted : State :=
  let s := (launching { parcel with k := waitOf 8 2 5 }).modCluster 0 fun x => { x with ec := x.ec.set 2 0xFFFFFFFF }
  { s with cycle := 2 ^ 24 }

theorem witness_stall : (stuck.cluster 0).team = some fetchTeam ∧ fetchTeam.held = none ∧ fetchTeam.saving = none ∧ fetchTeam.waiting = none ∧
    0 < (teamCtxs stuck 0).foldl (fun n c => n + lanesWaiting (stuck.ctx c)) 0 ∧ fetchTeam.lastAct + 2 ^ 24 ≤ stuck.cycle ∧
    (∀ k ∈ teamCtxs stuck 0, ctxStuck stuck.cycle (stuck.ctx k) = true) ∧ ((stuck.cluster 0).cmds.any Cmd.unended) = false ∧
    (stuck.cluster 0).starts = [] ∧ (stuck.cluster 0).run = none := by decide +kernel

theorem witness_escrow_stall : (overPosted.ctx 0).k.wait = some ⟨8, 2, 5, 0, 0, true⟩ ∧
    max 0 (vget (overPosted.cluster (clusterOf 0)).ecAt 2 0) + 2 ^ 24 ≤ overPosted.cycle ∧
    2 ^ 32 ≤ (overPosted.cluster (clusterOf 0)).escrow 2 + 5 ∧
    (match fetchWord overPosted 0 (overPosted.ctx 0).k.pc with
      | .word _ _ => true
      | _ => false) = true := by decide +kernel

/-- A replay in which the lane's queue waits for a recorded event of a higher SEQ. -/
def replay : RecSt := ⟨2, 0, 0, 0, [⟨posOf stuck 0 .k, 1, 0, 5, 1⟩], [], [], false⟩
def replaying : State := stuck.modCluster 0 fun x => { x with team := some { fetchTeam with recd := some replay } }

theorem witness_stall_held : ∀ c ∈ teamCtxs stuck 0, stopsFaults (stuck.ctx c) = false ∧ (stuck.ctx c).retired = false := by decide +kernel

theorem witness_replay : isSup 0 = false ∧ replay.mode = 2 ∧ replay.diverged = false ∧ stopsFaults (replaying.ctx 0) = false ∧
    (((waitsOf replaying 0).findSome? fun w => (heldEvent replay w.2.1 w.2.2 replaying.cycle).map fun e => (w.1, e)).map (·.1)) = some 0 ∧ (recOf replaying (clusterOf 0)).map RecSt.mode = some 2 := by decide +kernel

/-- A message waits for its slot of the ring of 16 at 0x100000, whose next slot is free, or is taken and has been for a second. -/
def message : FltMsg := ⟨5, 1, 2, 3, 4, 6, 7⟩
def ring (s : State) (full : Option Nat) : State :=
  s.modDie 0 fun x => { x with fqBase := 0x100000, fqLen := 16, msgs := [message], fqFull := full }
def fullRing : State := { ring (writePhys State.reset 0 0x100000 (leBytes 8 9)) (some 0) with gt := 1100000000 }

theorem witness_ring : ((ring State.reset none).die 0).msgs = message :: [] ∧ ((ring State.reset none).die 0).inReset = false ∧
    fqFree (ring State.reset none) ((ring State.reset none).die 0) = true ∧ (fullRing.die 0).msgs = message :: [] ∧
    (fullRing.die 0).fqFull = some 0 ∧ (fullRing.die 0).fqLen.toNat % 2 ^ 13 ≠ 0 ∧ fqFree fullRing (fullRing.die 0) = false ∧
    0 + 1100000000 ≤ fullRing.gtOf 0 := by decide +kernel

theorem witness_ring_canonical : (ring State.reset none).Canonical :=
  witness_reset_canonical.modDie 0 _ (fun _ => rfl) fun _ => rfl

/-- A held team. -/
def held : State := (team .k inside).modCluster 0 fun x => { x with team := some { fetchTeam with held := some 0x0E } }

theorem witness_held : (held.cluster 0).team = some { fetchTeam with held := some 0x0E } ∧
    (∀ c ∈ teamCtxs held 0, (held.ctx c).retired = false ∧ allParked (resumeHeld 0x0E (held.ctx c)) = false) ∧
    (∃ c ∈ teamCtxs held 0, ∀ a ∈ fetchTeam.arrivals, a.1 ≠ parcelOf c) ∧
    ({ held with launches := [(0, { launch5 0 with root := 4 })] } : State).launch 0 ≠ (held.launch 0) := by
  refine ⟨by decide +kernel, by decide +kernel, ⟨0, by decide +kernel, by decide +kernel⟩, by decide +kernel⟩

/-- A held team without a handler that runs, for whose parcel an engine fault has been held. -/
def heldOne : State :=
  (team .k { handled parcel with heldFlts := [engFault] }).modCluster 0 fun x => { x with team := some { fetchTeam with held := some 0x0E } }

theorem witness_held_faults : teamCtxs heldOne 0 = [0] ∧ (heldOne.ctx 0).heldFlts = engFault :: [] ∧ engFault.c = 0 ∧ fetchTeam.arrivals = [] ∧
    (heldOne.ctx 0).resident = true ∧ (heldOne.ctx 0).retired = false ∧ allParked (resumeHeld 0x0E (heldOne.ctx 0)) = false ∧
    clusterOf 0 = 0 ∧ isSup 0 = false ∧ TakesFaults heldOne 0 ∧
    (∀ c ∈ teamCtxs held 0, (held.ctx c).heldFlts = [] ∨ inHandler (resumeHeld 0x0E (held.ctx c)) = true) ∧
    ((held.modDie 0 fun x => { x with noPre := some (0, 3) }).die (dieOfCluster 0)).noPre = some (0, 3) := by decide +kernel

-- R351: at the resume of the team its parcel takes the fault.
theorem test_held_fault : gives (exec (.fltResume 0) heldOne) (fun t =>
    inHandler (t.ctx 0) && (t.ctx 0).frPos == 99 && (t.ctx 0).frCause.toNat % 65536 == 0x129) = true := by decide +kernel

theorem witness_resume_write : inHandler inside = true ∧ bitAt inside.frResume[0] 0 = false ∧ bitAt inside.frResume[1] 0 = true ∧
    inHandler parcel = false := by decide +kernel

-- R369: the stalled team is held with cause 0x0E and counts its four lanes.
theorem test_stall : gives (exec (.teamStall 0) stuck) (fun t => isHeld t 0 && (t.ctx 0).frCause.toNat % 65536 == 0x0E &&
    (t.ctx 0).frInfo == 4) = true := by decide +kernel
-- R384: a post that the capacity has held is cause 0x2C.
theorem test_escrow_stall : gives (exec (.escrowStall 0) (overPosted.modCtx 0 handled)) (fun t =>
    (t.ctx 0).frCause.toNat % 65536 == 0x22C) = true := by decide +kernel
-- R360: the cause of a message stands at byte 8 of its slot.
theorem test_message : gives (exec (.faultMessageWrite 0) (ring State.reset none)) (fun t =>
    t.memByte 0x100000 == 1 && t.memByte 0x100008 == 5 && t.memByte 0x100038 == 7 && (t.die 0).msgs.isEmpty) = true := by decide +kernel
-- R361, R362: a held team goes on, or ends.
theorem test_held : gives (exec (.fltResume 0) held) (fun t => !isHeld t 0) = true ∧
    gives (exec (.fltEnd 0) held) (fun t => (t.ctx 0).retired) = true := by decide +kernel

/-! ## Debug, trace, translation caches -/

/-- The debugger has stopped the parcel; it steps two instructions of K; its K lane stands at a breakpoint. -/
def paused : Ctx := { parcel with dbgCtl := 0x02000001, stopped := true, dbgStat := 0x41 }
def stepped : Ctx := { paused with dbgStat := 0x40 }
def breaking : Ctx := { handled parcel with dbgCtl := 1, dbgBp := parcel.dbgBp.set 0 0x8000000000000010, k := { LaneSt.init with pc := 0x10 } }

/-- Two parcels of a team whose stop is that of the team; the first one has met a fault at which its debugger stops. -/
def pairStopped (st : Bool) : State :=
  let x := { parcel with dbgCtl := 0x02010001, stopped := st, stopSc := if st then 1 else 0 }
  { team .k x with
    ctxs := [(0, x), (4, x)]
    clusters := [(0, { Cluster.init with team := some { fetchTeam with size := 2 } })] }
def trapped (sup : Bool) : State := team .k { handled paused with dbgFlt := some (⟨0x28, 1, 0x40, 7⟩, 1, sup) }

theorem witness_debug : ((pairStopped false).ctx 0).stopped = false ∧ 4 ∈ scopeOf (pairStopped false) 0 1 ∧ (4 : Nat) ≠ 0 ∧
    ((pairStopped false).ctx 4).stopped = false ∧ stepping stepped = true ∧
    ((lane .k paused).ctx 0).stopped = true ∧ stopFormed (lane .k paused) 0 = true ∧
    (∀ k ∈ 0 :: scopeOf (pairStopped true) 0 ((pairStopped true).ctx 0).stopSc,
      ((pairStopped true).ctx k).dbgFlt = none ∧ allParked ((pairStopped true).ctx k) = false) ∧
    bits paused.dbgCtl.toNat 24 8 ≠ 0 ∧ stepped.stepLeft = 0 ∧ stepped.kmiss = none ∧ stepped.infl = [] ∧
    breaks (lane .k breaking) 0 .k = true := by
  decide +kernel

theorem witness_debug_fault : ∀ b : Bool, ((trapped b).ctx 0).stopped = true ∧ ((trapped b).ctx 0).stopSc = 0 ∧
    ((trapped b).ctx 0).dbgFlt = some (⟨0x28, 1, 0x40, 7⟩, 1, b) ∧ inHandler ((trapped b).ctx 0) = false ∧
    hasHandler ((trapped b).ctx 0) 0 = true ∧ ((trapped b).cluster (clusterOf 0)).team = some fetchTeam := by decide +kernel

-- R308: HALT gives REASON 1 and FORMING; R309: a breakpoint gives REASON 2 at the instruction.
theorem test_halt : gives (exec (.dbgHalt 0) (lane .k parcel)) (fun t => (t.ctx 0).stopped && (t.ctx 0).dbgStat == 0x41) = true := by
  decide +kernel
theorem test_breakpoint : gives (exec (.breakpointMatch 0 .k) (lane .k breaking)) (fun t =>
    (t.ctx 0).stopped && (t.ctx 0).dbgStat == 0x42 && (t.ctx 0).k.pc == 0x10) = true := by decide +kernel
-- R351: RUN takes a recorded fault to the handler; one of the supervisor level holds the team.
theorem test_run_fault : gives (exec (.dbgRun 0) (trapped false)) (fun t => inHandler (t.ctx 0) && (t.ctx 0).frAddr == 0x40) = true ∧
    gives (exec (.dbgRun 0) (trapped true)) (fun t => isHeld t 0) = true := by decide +kernel
/-- The lane that STEPL names may issue, K or another. -/
def mayStepLane (x : Ctx) (ln : Lane) : Bool :=
  (ln.num == bits x.dbgCtl.toNat 20 2) && x.resident && !x.retired && !(x.lane ln).parked && !(x.lane ln).parking &&
    !halted (lane .k x) 0 && x.dueFlt.isNone && (ln == .k || !inHandler x) && (ln != .k || (x.kmiss.isNone && x.monw.isNone)) &&
    x.infl.isEmpty && (x.yielded != some (lane .k x).cycle)

theorem witness_step_lanes : mayStepLane paused .k = true ∧ mayStepLane { paused with dbgCtl := 0x02100001 } .l = true := by decide +kernel

-- R310: only the lane STEPL runs; a K lane in a MONW shows WAITING at once.
theorem test_step_lane : gives (exec (.dbgStep 0) (lane .k { paused with dbgCtl := 0x02100001 })) (fun t =>
      laneRuns t 0 .l && !laneRuns t 0 .k && !laneRuns t 0 .s) = true ∧
    gives (exec (.dbgStep 0) (lane .k { paused with monw := some ⟨.monw Guard.always 3 1 0 3, 2, 0, 1, 0, 0xFF, none⟩ })) (fun t =>
      bitAt (t.ctx 0).dbgStat 7) = true := by decide +kernel
theorem test_step : gives (exec (.dbgStep 0) (lane .k paused)) (fun t => (t.ctx 0).stepLeft == 2) = true := by decide +kernel

/-- A trigger of GT 100 is on its way to die 0, whose capture a trigger ends and whose context 0 it stops, and one to a peer
over link 2. -/
def triggered (gt : Nat) (acked : Bool) : State :=
  let s := lane .k { parcel with dbgCtl := 1, trigCtl := 10 }
  { s.modDie 0 fun x => { x with sbufCtl := 0x30005, trigIn := [(7, 100, 3)], trigOut := [(2, 9, 100, acked)] } with gt := gt }

theorem witness_triggers : ((triggered 500 false).die 0).inReset = false ∧ ((triggered 500 false).die 0).inService = true ∧
    bitAt ((triggered 500 false).ctx 0).trigCtl 1 = true ∧
    ((triggered 500 false).die 0).trigIn = ((7 : Word), (100 : Word).toNat, (3 : Byte).toNat) :: [] ∧
    (triggered 540 false).gtOf 0 ≤ 100 + 440 ∧ 100 + 440 < (triggered 541 false).gtOf 0 ∧
    bitAt ((triggered 540 false).die 0).sbufCtl 2 = true ∧ dieOf 0 = 0 ∧ ((triggered 540 false).ctx 0).resident = true ∧
    bitAt ((triggered 540 false).ctx 0).trigCtl 3 = true ∧ bitAt ((triggered 540 false).ctx 0).dbgCtl 0 = true ∧
    (∀ b : Bool, ((triggered 4501 b).die 0).trigOut = ((2 : Fin 32).val, 9, 100, b) :: [] ∧
      100 + 4400 < (triggered 4501 b).gtOf 0 ∧ acknowledges (triggered 4501 b) 9 = false) := by decide +kernel

/-- A peer's trigger of GT 100, which leads by up to 32 ticks, is in time up to 2,640 ticks and comes once. -/
def peerSees (gt : Nat) (seen : Bool) : State :=
  { State.reset.modDie 0 fun x => { x with trigSeen := if seen then [(7, 100, 3)] else [] } with gt := gt }

theorem witness_peer_triggers : (∀ gt ∈ [68, 2740], ((7 : Word), 100, 3) ∉ ((peerSees gt false).die 0).trigIn ∧
      100 ≤ (peerSees gt false).gtOf 0 + 32 ∧ (peerSees gt false).gtOf 0 ≤ 100 + 2640 ∧
      ((7 : Word), 100, 3) ∉ ((peerSees gt false).die 0).trigSeen) ∧
    100 + 2640 < (peerSees 2741 false).gtOf 0 ∧ ((7 : Word), 100, 3) ∈ ((peerSees 200 true).die 0).trigSeen ∧
    ((peerSees 200 true).die 0).inReset = false ∧ ((peerSees 200 true).die 0).inService = true := by decide +kernel

/-- Die 0 samples every two cycles; its ring has 1,024 bytes. -/
def sampling : State :=
  { (lane .k parcel).modDie 0 fun x => { x with sbufCtl := 1 + 2 ^ 32, sbufBase := 0x200000, sbufLen := 1024 } with cycle := 2 }

theorem witness_sampling : bits (sampling.die 0).sbufCtl.toNat 32 5 ≠ 0 ∧ bitAt (sampling.die 0).sbufCtl 0 = true ∧
    (sampling.die 0).inReset = false ∧ (sampling.die 0).lastSample + 2 ^ 1 ≤ sampling.cycle ∧ (64 : W32).toNat % 32 = 0 ∧
    (64 : W32).toNat < (sampling.die 0).sbufLen.toNat := by decide +kernel

/-- An imprecise hit of watchpoint 1 at cycle 3, noted by a die that captures. -/
def hitting : State :=
  { sampling.modCluster 0 fun x => { x with hits := [(1, 0x40, 9, 3)] } with cycle := 259 }

theorem witness_hits : (hitting.cluster 0).hits = (1, 0x40, 9, 3) :: [] ∧ hitting.cycle - 3 ≤ 256 ∧
    bitAt (vget (hitting.cluster 0).wpCtl 1 0) 2 = false ∧ bitAt (hitting.die 0).sbufCtl 0 = true ∧ (hitting.die 0).capEnd = none ∧
    (hitting.die 0).sbufWr.toNat + 32 ≤ (hitting.die 0).sbufLen.toNat ∧
    ((hitting.die 0).sbufWr.toNat + (hitting.die 0).sbufLen.toNat - (hitting.die 0).sbufRd.toNat) % (hitting.die 0).sbufLen.toNat + 64 ≤
      (hitting.die 0).sbufLen.toNat ∧ 0x200000 + 32 ≤ hbmEnd := by
  decide +kernel

-- R315: the record of the hit ends with its watchpoint and its skid.
theorem test_hit : gives (exec (.watchHitImprecise 0 256) hitting) (fun t =>
    readPhys t 0 0x200010 8 == leBytes 8 0x40 && readPhys t 0 0x200018 8 == leBytes 8 (1 + 256 * 2 ^ 32)) = true := by decide +kernel
-- R317: a trigger in time is noted, one past its bound is discarded.
theorem test_trigger : gives (exec (.triggerReceive 0 7 100 3) (triggered 500 false)) (fun t => (t.die 0).trigLast == 100 && (t.ctx 0).stopped) = true ∧
    gives (exec (.triggerReceive 0 7 100 3) (triggered 541 false)) (fun t => (t.die 0).trigLast == 0 && (t.die 0).trigIn.isEmpty) = true := by
  decide +kernel

theorem witness_tlb : bitAt (State.reset.die 0).tlbInvCtl 0 = false ∧ (1 : W32).toNat / 8 = 0 ∧ bits (1 : W32).toNat 1 2 ≠ 3 ∧
    bitAt (1 : W32) 0 = true ∧ ((State.reset.modDie 0 fun x => { x with tlbCap := some (0, 0) }).die 0).tlbCap = some (0, 0) := by
  decide +kernel

/-! ## The host -/

theorem witness_recovery : ({ State.reset.svc with boot := 1 } : Svc).boot = 1 ∧ 0 < 4096 ∧ 4096 ≤ imageMax ∧ imageMax < imageMax + 1 ∧
    4096 < 2 ^ 26 ∧ State.reset.flash.wf = true ∧ State.reset.flashBad = false ∧ State.reset.svc.boot ≠ 1 := by
  decide +kernel

/-- A journal record of SEQ 1 that names the header at 0x20000 under the page tables at 0x1000, with its CRC; `extra` sets other
bits of it. -/
def recordBits (extra : Nat) : Nat := 1 + 0x20000 * 2 ^ 64 + 77 * 2 ^ 128 + 0x1000 * 2 ^ 192 + extra
def record (extra : Nat) : BitVec 512 :=
  BitVec.ofNat 512 (recordBits extra + (crc32 (leBytes 60 (recordBits extra))).toNat * 2 ^ 480)

/-- The firmware serves the journal, whose first record the host has written. -/
def journal (r : BitVec 512) : State :=
  let s := writePhys (launching parcel) 0 hostBase (leBytes 64 r.toNat)
  { s with svc := { s.svc with boot := 2, jen := true, nrec := 16, sbase := 0x10000 } }

/-- The record of SEQ NEXT has been written. -/
def written (s : State) (p : BitVec 512 → Bool) : Bool :=
  let r := BitVec.ofNat 512 (leNat (readPhys s 0 (recAddr s.svc s.svc.next.toNat) 64))
  serves s && (toLaunch s).isNone && (toRecover s).isNone && (recSeq r == s.svc.next.toNat) && decide (s.svc.mirror.length < 4096) && p r

/-- The header that a record names is refused, faults, or is read. -/
def headerOf (s : State) (r : BitVec 512) : Nat := match readRecHeader s r with
  | .refused d => 100 + d
  | .flt _ f => f.cause
  | .wait => 0
  | .ok t _ => if t.svc = s.svc then 1000 else 0

theorem witness_has_final : hasFinal (journal (record 0)) 1 = false ∧
    (let s := writePhys (journal (record 0)) 0 (hostBase + 0x10000) (leBytes 8 (1 + 3 * 2 ^ 48))
     hasFinal s 1 = true ∧ serves s = true ∧ toLaunch s = none ∧ toRecover s = none ∧
      recSeq (BitVec.ofNat 512 (leNat (readPhys s 0 (recAddr s.svc 1) 64))) = 1) := by decide +kernel

theorem witness_records : written (journal (record 0)) (fun r => recCrcOk r && !recReserved r) = true ∧
    headerOf (journal (record 0)) (record 0) = 1000 ∧
    written (journal (record (2 ^ 300))) (fun r => recCrcOk r && recReserved r) = true ∧
    written (journal (record 0 + 2)) (fun r => recCrcOk r) = false ∧
    written (journal (record 0 ^^^ (2 ^ 481))) (fun r => !recCrcOk r) = true ∧
    (written (journal (record (2 ^ 71))) fun r => recCrcOk r && !recReserved r) = true ∧
    headerOf (journal (record (2 ^ 71))) (record (2 ^ 71)) = 101 ∧
    (written (journal (record (2 ^ 112))) fun r => recCrcOk r && !recReserved r) = true ∧
    headerOf (journal (record (2 ^ 112))) (record (2 ^ 112)) = 0x21 := by decide +kernel

/-- The record has been accepted, and is launched next; its launch, number 5, has run. -/
def accepted (r : BitVec 512) : State :=
  let s := journal r
  { s with svc := { s.svc with mirror := [⟨1, r, 5, none⟩] } }
def launched (cause : Option Nat) : State :=
  let s := journal (record 0)
  { s with launches := [(5, { launch5 0 with failed := cause })], svc := { s.svc with mirror := [⟨1, record 0, 5, some 5⟩] } }

theorem witness_accepted : serves (accepted (record 0)) = true ∧
    toLaunch (accepted (record 0)) = some ⟨1, record 0, 5, none⟩ ∧ pendingLaunch (accepted (record 0)) svcCtx (recKey 1) = none ∧ recSerial (record 0) = false ∧
    recSerial (record (2 ^ 272)) = true ∧
    (let s := { accepted (record (2 ^ 272)) with svc := { (accepted (record 0)).svc with mirror := [⟨1, record 0, 5, some 4⟩, ⟨2, record (2 ^ 272), 5, none⟩] } }
     streamBusy s 2 (record (2 ^ 272)) = true ∧ serves s = true ∧ toLaunch s = some ⟨2, record (2 ^ 272), 5, none⟩ ∧
      pendingLaunch s svcCtx (recKey 2) = none) ∧
    (∀ n ∈ [0, 64],
      let s := (accepted (record 0)).modDie 0 fun x => { x with q := x.q.set 0 { x.q[0] with ents := List.replicate n ⟨9, 0, 1⟩ } }
      toLaunch s = some ⟨1, record 0, 5, none⟩ ∧ serves s = true ∧
      (match readRecHeader s (record 0) with
        | .ok t h =>
          let l := mkLaunch t h (recHdr (record 0)) (recArg (record 0)) (recRoot (record 0)) 0 (recQueue (record 0)) none
          !shareRefused t l && t.svc.next == 1 &&
            ((pendingLaunch (startLaunch t svcCtx (recKey 1) l) svcCtx (recKey 1)).isSome == (n == 64))
        | _ => false) = true) := by decide +kernel

/-- The flash log holds an open record whose kernel is idempotent, or not. -/
def recovering (idem : Bool) : State :=
  let s := writePhys (journal 0) 0 0x20000 (leBytes 64 (header + if idem then 2 ^ 8 else 0))
  { s with svc := { s.svc with logged := [(record 0, 1)] } }

theorem witness_recovering : ∀ b : Bool, serves (recovering b) = true ∧ toLaunch (recovering b) = none ∧
    toRecover (recovering b) = some (record 0) ∧
    (match readRecHeader (recovering b) (record 0) with
      | .ok t h => t.svc == (recovering b).svc && (Header.ofBits h.toNat).idem == b
      | _ => false) = true := by decide +kernel

theorem witness_reported_busy :
    let s := { launched none with svc := { (launched none).svc with mirror := [⟨1, record 0, 5, some 4⟩, ⟨2, record 0, 5, some 5⟩] } }
    rootOver s 5 = true ∧ (s.svc.mirror.find? fun e => e.launch == some 5) = some ⟨2, record 0, 5, some 5⟩ ∧
      streamBusy s 2 (record 0) = true := by decide +kernel

theorem witness_reported : (launched none).holdUp = false ∧ (launched none).svc.boot ≠ 3 ∧ ((launched none).launch 5).root = 5 ∧ ((launched none).launch 5).reported = false ∧ rootOver (launched none) 5 = true ∧
    ((launched none).svc.mirror.find? fun e => e.launch == some 5).isSome = true ∧ streamBusy (launched none) 1 (record 0) = false ∧
    rootOver (launched (some 0x0E)) 5 = true ∧ ((launched (some 0x0E)).launch 5).failed = some 0x0E := by decide +kernel

theorem witness_unreported : (((launched none).modDie 0 fun x => { x with inReset := true }).die 0).inReset = true ∧
    ((launched none).die 0).inReset = false ∧ rootOver ((launched none).modDie 0 fun x => { x with inReset := true }) 5 = true ∧
    ((launched none).modDie 0 fun x => { x with inReset := true }).svc.boot ≠ 3 := by decide +kernel

-- R335: the record is accepted with STATE 5, then launched.
theorem test_accept : gives (exec .journalRecord (journal (record 0))) (fun t =>
    leNat (readPhys t 0 (hostBase + 0x10000) 8) == 1 + 5 * 2 ^ 48 && t.svc.mirror.length == 1) = true := by decide +kernel
theorem test_launch_record : gives (exec .journalRecord (accepted (record 0))) (fun t =>
    t.svc.next == 2 && ((t.die 0).lq 0).ents.length == 1) = true := by decide +kernel
-- R334: COMPLETED is STATE 3, FAILED is 4 with the cause as REASON.
theorem test_reported : gives (exec (.rootLaunchComplete 5) (launched none)) (fun t =>
      leNat (readPhys t 0 (hostBase + 0x10000) 8) == 1 + 3 * 2 ^ 48) = true ∧
    gives (exec (.rootLaunchComplete 5) (launched (some 0x0E))) (fun t =>
      leNat (readPhys t 0 (hostBase + 0x10000) 8) == 1 + 4 * 2 ^ 48 + 0x0E * 2 ^ 56) = true := by decide +kernel
-- The CRC-32 of spec/15 R332 of the ASCII digits 1 to 9, as it is published for that polynomial.
theorem test_crc : crc32 [0x31, 0x32, 0x33, 0x34, 0x35, 0x36, 0x37, 0x38, 0x39] = 0xCBF43926 := by decide +kernel

/-- The firmware runs with IDE enabled, and the power fails with a record still to be written to the log. -/
def secured : State := { State.reset with svc := { State.reset.svc with boot := 2, ide := true, image := some (5, 3) } }
def failing : State :=
  { State.reset with
    holdUp := true
    svc := { State.reset.svc with boot := 2, commit := [⟨1, record 0, 5, none⟩, ⟨2, record 0, 1, none⟩], commitAt := 1 } }

theorem witness_keys : secured.svc.boot = 2 ∧ secured.svc.ide = true ∧ (3 : Fin 64) ≠ 0 ∧ State.reset.svc.ide = false ∧
    secured.svc.image = some (5, 3) ∧ State.reset.life ≠ .decommissioned ∧
    ({ State.reset with life := .decommissioned } : State).life = .decommissioned ∧
    (accepted (record 0)).holdUp = false ∧ (accepted (record 0)).svc.boot ≠ 3 ∧ (accepted (record 0)).svc.logged = [] ∧
    (openRecords (accepted (record 0)))[0]? = some ⟨1, record 0, 5, none⟩ ∧ failing.holdUp = true ∧ failing.svc.boot ≠ 3 ∧
    failing.flash.wf = true ∧ failing.svc.commit = ⟨1, record 0, 5, none⟩ :: [⟨2, record 0, 1, none⟩] := by
  decide +kernel

-- R411: the second entry of the log stands 128 bytes behind its start, the record first.
theorem test_commit_entry : gives (exec .holdUp failing) (fun t =>
    flashRead t (journalBase + 128) 64 == leBytes 64 (record 0).toNat && flashRead t (journalBase + 192) 1 == [5] &&
      t.svc.commit.length == 1) = true := by decide +kernel

/-- Key slot 1 is loaded, and link 2 reaches a peer. -/
def reachable : State :=
  { State.reset with
    keys := State.reset.keys.set 1 ⟨some 1⟩
    links := State.reset.links.set 2 ⟨true, 9, 0⟩
    svc := { State.reset.svc with boot := 2 } }

theorem witness_outside : (8 : Fin 9) ≠ 0 ∧ 0x5000 + (8 : Fin 9).val ≤ hbmEnd ∧ inPool reachable 0x5000 8 = false ∧
    reachable.keys[(1 : Fin 64)].loaded = true ∧ stackState reachable 0x5000 = 0 ∧ marked reachable.poisoned 64 0x5000 8 = false ∧
    reachable.svc.boot ≠ 3 ∧ reachable.svc.ide = false ∧ ({ reachable.svc with jen := true } : Svc).jen = true ∧ reachable.links[(2 : Fin 32)].trained = true := by decide +kernel

-- R328: a peer's write and read of HBM under the key slot that it names.
theorem test_peer : gives (exec (.peerAccess ⟨.write 0x1122, false, 0x5000, 2, 1, false⟩) reachable) (fun t =>
    readPhys t 1 0x5000 2 == [0x22, 0x11]) = true := by decide +kernel

/-! ## Faults of the device -/

/-- Die 2 is in reset since GT 5. -/
def resetting : State :=
  { State.reset.modDie 2 fun x => { x with inReset := true, resetAt := 5 } with gt := 1100000005, svc := { State.reset.svc with boot := 2 } }

/-- Die 2 comes back and has lost team 6 of launch 5, whose root is 5 or 4; `idem` and `preempt` are the kernel's, and the team
has been saved, or not. -/
def losing (root : Nat) (idem preempt savedOnce : Bool) : State :=
  let hdr := header + (if idem then 2 ^ 8 else 0) + (if preempt then 2 ^ 10 else 0)
  let l : Launch := ⟨0x20000, BitVec.ofNat 512 hdr, 77, 0x1000, 0, 3, root, 8, [], none, false⟩
  let s := resetting.modDie 2 fun x => { x with
    lost := [(5, 6)]
    lastSaves := if savedOnce then [⟨{ fetchTeam with launch := 5, t := 6 }, 0, [], [], Cluster.init, none⟩] else [] }
  { s with launches := [(4, { l with root := 4 }), (5, l)] }

theorem witness_dies : State.reset.dies[(2 : Fin 4)].inReset = false ∧ State.reset.svc.boot ≠ 3 ∧
    heir State.reset 2 = some (3 : Fin 4).val ∧
    heir ([0, 1, 3].foldl (fun s d => s.modDie d fun x => { x with inService := false }) State.reset) 2 = none ∧
    resetting.dies[(2 : Fin 4)].inReset = true ∧ resetting.dies[(2 : Fin 4)].lost = [] ∧ resetting.svc.boot ≠ 3 ∧
    resetting.dies[(2 : Fin 4)].resetAt + 1100000000 ≤ resetting.gt := by decide +kernel

theorem witness_lost : (∀ r ∈ [4, 5], ∀ i p v : Bool,
      (losing r i p v).dies[(2 : Fin 4)].inReset = true ∧ (losing r i p v).svc.boot ≠ 3 ∧ (losing r i p v).dies[(2 : Fin 4)].lost = [(5, 6)] ∧
      ((losing r i p v).launch ((losing r i p v).launch 5).root).failed ≠ some replayMark ∧
      ((losing r i p v).launch ((losing r i p v).launch 5).root).header.idem = i ∧
      ((losing r i p v).launch ((losing r i p v).launch 5).root).header.preempt = p ∧ 5 ∈ ofRoot (losing r i p v) r ∧ (lastSave (losing r i p v) 5 6).isSome = v ∧
      ((losing r i p v).launch 5).queue = (3 : Fin 16).val) := by decide +kernel

-- R408: the team of a pre-emptible kernel starts again, that of no such kernel ends FAILED with 0x40.
theorem test_lost : gives (exec (.dieReturn 2) (losing 5 false true false)) (fun t => ((t.die 2).lq 3).ents == [⟨5, 6, 1⟩]) = true ∧
    gives (exec (.dieReturn 2) (losing 4 false false false)) (fun t =>
      (t.launch 5).failed == some 0x40 && (t.launch 4).failed == some 0x40) = true := by decide +kernel
-- R406: the die's contexts are gone, the other dies' stay; its queues are empty.
theorem test_die_reset : gives (exec (.dieWatchdogExpiry 0) { lane .k parcel with svc := { State.reset.svc with boot := 2 } }) (fun t =>
    !(t.ctx 0).resident && (t.die 0).inReset && !(t.die 1).inReset) = true := by decide +kernel
-- R414: code 0x83 after a second in reset.
theorem test_die_timeout : gives (exec (.dieResetTimeout 2) resetting) (fun t => t.svc.boot == 3 && t.svc.berr == 0x83) = true := by
  decide +kernel

/-- Stack 3 retrains; no link reaches peer 9, which has been out of reach since GT 0. -/
def retraining : State :=
  { State.reset with hbmStacks := State.reset.hbmStacks.set 3 .retraining, gt := 1100000, unreached := [(9, 0)] }

/-- A load of an HBM byte on stack 3 waits for it. -/
def pendingThere : State :=
  { launching { parcel with k := { LaneSt.init with pc := 3 * 2 ^ 36 } } with hbmStacks := State.reset.hbmStacks.set 3 .retraining }

theorem witness_stacks : State.reset.hbmStacks[(3 : Fin 8)] = .up ∧ retraining.hbmStacks[(3 : Fin 8)] = .retraining ∧
    launchesPending { retraining with hbmStacks := retraining.hbmStacks.set 3 .out } = [] ∧ reachable.links[(2 : Fin 32)].trained = true ∧
    (∀ e ∈ reachable.unreached, e.1 ≠ 9) ∧
    reaches { reachable with links := reachable.links.set 2 { reachable.links[2] with trained := false, since := 0 } } 9 = false ∧
    (let two := { reachable with links := reachable.links.set 3 ⟨true, 9, 0⟩ }
     two.links[(2 : Fin 32)].trained = true ∧
      reaches { two with links := two.links.set 2 { two.links[2] with trained := false, since := 0 } } 9 = true) ∧
    (7 : Nat) < 4096 ∧ (8 : Nat) < 4096 ∧ (7 : Nat) ≠ 8 ∧ reaches retraining 9 = false ∧
    (retraining.unreached.find? fun e => e.1 == 9) = some (9, 0) ∧ 0 + 1100000 ≤ retraining.gt ∧
    State.reset.gt < 0 + 1100000 ∧ (∀ e ∈ retraining.unreached, e.1 ≠ 8) ∧ reaches retraining 8 = false := by decide +kernel

theorem witness_memory_errors : (∃ b, 64 * b < hbmEnd ∧ inFirmware b = false) ∧ ∃ b, inFirmware b = true := by
  have hh : hbmEnd = 549755813888 := by decide
  have hm : imageMax = 33554432 := by decide
  refine ⟨?_, Config.firmwareBase / 64, by simp [inFirmware]; omega⟩
  by_cases h : 64 ≤ Config.firmwareBase
  · exact ⟨0, by omega, by simp [inFirmware]; omega⟩
  · exact ⟨1000000, by omega, by simp [inFirmware]; omega⟩

theorem witness_register_error : isSup 0 = false ∧ ((team .k parcel).ctx 0).resident = true ∧ ((team .k parcel).ctx 0).retired = false ∧
    stopsFaults ((team .k parcel).ctx 0) = false ∧ ((team .k parcel).cluster (clusterOf 0)).team = some fetchTeam ∧
    isSup 16384 = true ∧ dieOf 16384 = 0 ∧ isSup 16388 = true ∧ dieOf 16388 ≠ 0 ∧ (State.reset.die (dieOf 16388)).inReset = false := by
  decide +kernel

-- R409: a stack that has retrained tells its die with cause 0x41, DETAIL 1.
theorem test_retrained : gives (exec (.stackRetrained 3) retraining) (fun t =>
    ((t.die 1).msgs.map fun m => m.cause.toNat % 65536) == [0x141]) = true := by decide +kernel
-- R393: a register's error holds the team with cause 0x2F.
theorem test_register_error : gives (exec (.memoryError (.reg true 0 0)) (team .k parcel)) (fun t =>
    isHeld t 0 && (t.ctx 0).frCause.toNat % 256 == 0x2F) = true := by decide +kernel
-- R394: an error that cannot be corrected marks its 8-byte word.
theorem test_scratch_error : gives (exec (.memoryError (.scratch true 0 0x48)) State.reset) (fun t => (t.core 0).scratchBad == [9]) = true := by
  decide +kernel

/-! ## The step -/

/-- Where the next turn finds the word. -/
def turned (s : State) : State := beginTurn s

theorem witness_step_lane :
    let s := State.reset.withFetchWord 32 0x242146FF
    s.agenda = Turn.plain (.lane 0 .k) :: [] ∧ laneRuns (turned s) 0 .k = true ∧ breaks (turned s) 0 .k = false ∧
    (match fetchWord (turned s) 0 (((turned s).ctx 0).lane .k).pc with
      | .word _ w => w == 0x242146FF && !hasLiteral w && (decode (.lane .k) w 0).isSome
      | _ => false) = true := by decide +kernel

theorem witness_step_literal :
    let s := State.reset.withFetchWord 64 0x123456782B01C000
    laneRuns (turned s) 0 .k = true ∧ breaks (turned s) 0 .k = false ∧
    (match fetchWord (turned s) 0 (((turned s).ctx 0).lane .k).pc with
      | .word s1 w => hasLiteral w && (match fetchWord s1 0 ((((turned s).ctx 0).lane .k).pc + 4) with
        | .word _ lit => decode (.lane .k) w lit == some (.li Guard.always 7 0x12345678)
        | _ => false)
      | _ => false) = true := by decide +kernel

theorem witness_step_kiln :
    let s := State.reset.withFetchWord 32 0x04120FFF
    s.agenda = Turn.plain (.kiln 0) :: [] ∧ kilnRuns (turned s) 0 = true ∧
    (match kilnFetch ((turned s).cluster 0) 0 with
      | .word w => (decode .kiln w 0).isSome
      | .flt _ => false) = true := by decide +kernel

theorem witness_step_event : ({ State.reset with agenda := [Turn.plain (.event .ideEnable)] } : State).agenda =
    Turn.plain (.event .ideEnable) :: [] := rfl

theorem witness_step_canonical : State.reset.Canonical ∧ (match step State.reset with
    | .next _ => true
    | .fault _ | .refused _ => false) = true := ⟨witness_reset_canonical, by decide +kernel⟩

-- A step runs the word that stands at the PC: ADD.W x1, x2, x3 and LI x7.
theorem test_step_add : gives (step (State.reset.withFetchWord 32 0x1000420D)) (fun t => (t.ctx 0).k.pc == 0x10004) = true := by
  decide +kernel
theorem test_step_li : gives (step (State.reset.withFetchWord 64 0x123456782B01C000)) (fun t =>
    (t.ctx 0).rx 7 == 0x12345678 && (t.ctx 0).k.pc == 0x10008) = true := by decide +kernel

/-! ## Searches of loops -/

/-- A lane that runs in core space, whose bytes are zero. -/
def inScratch : State := (team .l parcel).modCtx 0 fun x => { x with l := { x.l with pc := 0x8000000000000000 } }

theorem fetch_scratch (n : Nat) (h : n < 100000) :
    fetchWord inScratch 0 (BitVec.ofNat 64 (0x8000000000000000 + n * 4)) = .word inScratch 0 := by
  have hv : (BitVec.ofNat 64 (0x8000000000000000 + n * 4)).toNat = 0x8000000000000000 + n * 4 := by
    simp only [BitVec.toNat_ofNat]; omega
  have hs : localSize inScratch 0 true = 524288 := by decide +kernel
  have h1 : bits (0x8000000000000000 + n * 4) 62 2 = 2 := by simp only [bits]; omega
  have h2 : bits (0x8000000000000000 + n * 4) 19 43 = 0 := by simp only [bits]; omega
  have h3 : bits (0x8000000000000000 + n * 4) 0 19 = n * 4 := by simp only [bits]; omega
  have h4 : (0x8000000000000000 + n * 4) % 2 ^ 2 = 0 := by omega
  have ha : addrFault inScratch (Acc.fetch 0) (BitVec.ofNat 64 (0x8000000000000000 + n * 4)) 4 = none := by
    simp [addrFault, spaceFault, alignFault, rangeFault, addrBits, hv, h1, h2, h3, h4, hs, Acc.fetch]
    omega
  have hr : resolve inScratch (Acc.fetch 0) (BitVec.ofNat 64 (0x8000000000000000 + n * 4)) 4 =
      .ok inScratch [(.co 0 (n * 4), 4)] := by
    simp only [resolve, resolveBy, ha, hv, h1, h3]
    rfl
  simp only [fetchWord, hr]
  rfl

theorem search_scratch (m n : Nat) (h : n + m < 100000) :
    findEnd 0 .l m (BitVec.ofNat 64 (0x8000000000000000 + n * 4)) 0 false inScratch = .none_ inScratch := by
  induction m generalizing n with
  | zero => rfl
  | succ m ih =>
    have hn : BitVec.ofNat 64 (0x8000000000000000 + n * 4) + 4 = BitVec.ofNat 64 (0x8000000000000000 + (n + 1) * 4) := by
      apply BitVec.eq_of_toNat_eq
      simp only [BitVec.toNat_add, BitVec.toNat_ofNat, show (4 : Word).toNat = 4 from rfl]
      omega
    simp only [findEnd, fetch_scratch n (by omega)]
    show findEnd 0 .l m (BitVec.ofNat 64 (0x8000000000000000 + n * 4) + 4) 0 false inScratch = _
    rw [hn]
    exact ih (n + 1) (by omega)

/-- No ENDDO follows in 65,536 words. -/
theorem witness_loop_unmatched : findEnd 0 .l 65536 (((inScratch.ctx 0).lane .l).pc + 4) 0 false inScratch = .none_ inScratch :=
  search_scratch 65536 1 (by decide)

/-! ## Loops, signals and barriers -/

/-- A lane whose fetch faults, since its page tables have no entry, and one whose fetch waits for a stack. -/
theorem witness_loop_fetch : (match findEnd 0 .l 65536 4 0 false (lane .l parcel) with
      | .flt .. => true
      | _ => false) = true ∧
    (match findEnd 0 .l 65536 0x10004 0 false { skipping with hbmStacks := State.reset.hbmStacks.set 0 .retraining } with
      | .wait => true
      | _ => false) = true ∧
    (match fetchWord (lane .l parcel) 0 4 with
      | .flt .. => true
      | _ => false) = true ∧
    (match fetchWord skipping 0 0x10004 with
      | .word _ w => w / 2 ^ 24 % 256 == 2
      | _ => false) = true := by decide +kernel

/-- A SIG that would pass 63, and one whose lane has a store under way. -/
theorem witness_sig_waits : LaneReady (lane .s tokens) 0 .s (.sig Guard.always 3 62) Guard.always ∧
    laneDone tokens .s = true ∧ 63 < tokens.tq[3].length + heldTokens tokens 3 + (62 : BitVec 6).toNat ∧
    laneDone (streamed { armedStrm with storing := [(true, none, 5)] }) .s = false ∧
    LaneReady (lane .s (streamed { armedStrm with storing := [(true, none, 5)] })) 0 .s (.sig Guard.always 3 1) Guard.always := by
  decide +kernel

/-- Two parcels of team 0 of launch 5, of which the second has arrived at a barrier with levels `arr`; the launch has the barriers
`bars`, and its team 4, of the same home die, runs on cluster 1 and has arrived, or not. -/
def atBarrier (arr : List (Nat × Nat)) (bars : List Bar) (other : Bool) : State :=
  let y := if arr.isEmpty then parcel else { parcel with bar := some ⟨0, false, 0, 0, false, none⟩ }
  { lane .k parcel with
    ctxs := [(0, parcel), (4, y), (256, { parcel with bar := some ⟨1, false, 0, 0, false, none⟩ })]
    launches := [(5, ⟨0x20000, BitVec.ofNat 512 header, 77, 0x1000, 0, 3, 5, 8, bars, none, false⟩)]
    clusters := [(0, { Cluster.init with team := some { fetchTeam with launch := 5, size := 2, arrivals := arr } }),
      (1, { Cluster.init with team := some { fetchTeam with launch := 5, t := 4, waiting := if other then some (1, 0) else none } })]
    cycle := 9 }

def bar1 (arrived : List Nat) (level : Nat) : Bar := ⟨level, arrived, 0, false, [], 3, 4⟩

def barriers : List (List (Nat × Nat) × List Bar) := [([], []), ([(1, 0)], []), ([(1, 1)], []), ([(1, 1)], [bar1 [4] 1]),
  ([(1, 1)], [bar1 [] 1]), ([(1, 1)], [bar1 [4] 2]), ([(1, 2)], [])]

theorem witness_barriers : (barriers.all fun e =>
    let s := atBarrier e.1 e.2 true
    ([0, 1, 2].all fun l => decide (KReady s 0 (.bar Guard.always l) Guard.always [])) && s.ctx 0 == parcel && teamCtxs s 0 == [0, 4] &&
      (recOf s 0).isNone && ((s.cluster 0).team.map fun t => (t.held, t.arrivals, t.barOrd, t.home)) == some (none, e.1, 0, 0) &&
      (s.launch 5).bars == e.2 && homeDies (s.launch 5) == [0, 1, 2, 3] && (recOf s 1).isNone &&
      ((s.cluster 1).team.map fun t => (t.launch, t.home, t.waiting)) == some (5, 0, some (1, 0))) = true := by decide +kernel

theorem witness_barrier_parcels : isSup 0 = false ∧ parcel.bar = none ∧ parcel.resident = true ∧ parcel.retired = false ∧
    inHandler parcel = false ∧ parcel.dbgFlt = none ∧ stopsFaults parcel = false ∧ parcelOf 4 = 1 ∧ ctxOfParcel 0 1 = 4 ∧
    ctxOfParcel 0 0 = 0 ∧ parcelOf 0 = 0 ∧ (3 : Nat) ≠ (atBarrier [] [] true).cycle ∧
    (((atBarrier [(1, 0)] [] true).ctx 4).bar.map BarSt.released) = some false ∧
    ((atBarrier [(1, 0)] [] true).ctx 4).dbgFlt = none ∧ stopsFaults ((atBarrier [(1, 0)] [] true).ctx 4) = false := by decide +kernel

theorem witness_barrier_opens :
    homeArrived (atBarrier [(1, 1)] [bar1 [4] 1] true) 5 0 { bar1 [4] 1 with arrived := [4, 0] } = true ∧
    homeArrived (atBarrier [(1, 1)] [bar1 [] 1] true) 5 0 { bar1 [] 1 with arrived := [0] } = false := by decide +kernel

-- R60: the last arrival releases both K lanes of a team barrier; the last team those of a die barrier.
theorem test_bar_team : gives (exec (.bar Guard.always 0) (atBarrier [(1, 0)] [] true)) (fun t =>
    [0, 4].all fun c => (t.ctx c).bar.isNone && (t.ctx c).k.pc == 4) = true := by decide +kernel
theorem test_bar_die : gives (exec (.bar Guard.always 1) (atBarrier [(1, 1)] [bar1 [4] 1] true)) (fun t =>
    [0, 4, 256].all fun c => (t.ctx c).bar.isNone && (t.ctx c).k.pc == 4) = true := by decide +kernel

/-! ## Registers, accesses and replies -/

/-- A context that no debugger asks to stop at faults, in its handler. -/
theorem witness_double_fault_held : stopsFaults inside = false ∧ inHandler inside = true ∧ AtBoundary (team .k inside) 0 ∧ 0 < 16384 ∧
    ((team .k inside).cluster (clusterOf 0)).team = some fetchTeam := by decide +kernel

/-- Registers that a CSRW stores: a value that each takes and one that it refuses. -/
theorem witness_csr_takes : csrTakes 0x010 0xAA = some true ∧ csrTakes 0x010 0x800 = some false ∧ csrAccess 0x010 = .rw ∧
    (∀ c ∈ [0, 16384], csrBusy (laneAt c (withX [0x800])) c 0x010 = false ∧
      KReady (laneAt c (withX [0x800])) c (.csrw Guard.always 1 0x010) Guard.always [1]) ∧
    csrTakes 0x400 0x1000 = some true ∧
    (let s := (laneAt 16384 (withX [0x1000])).modDie 0 fun x => { x with tlbInvCtl := 1 }
     csrBusy s 16384 0x400 = true ∧ isSup 16384 = true ∧ KReady s 16384 (.csrw Guard.always 1 0x400) Guard.always [1]) ∧
    csrTakes 0x720 0x0B = some true ∧ csrTakes 0x720 0x0C = some false := by decide +kernel

/-- Values that DBG_CTL, FLT_CTL, SBUF_RD and TRIG_CTL refuse. -/
theorem witness_csr_refusals :
    (∀ n ∈ ([0x700, 0x612, 0x744, 0x730] : List (BitVec 12)),
      KReady (laneAt 16384 (withX [0xFFFFFFFF])) 16384 (.csrw Guard.always 1 n) Guard.always [1]) ∧ isSup 16384 = true ∧
    bits (0xFFFFFFFF : Word).toNat 22 2 ≠ 0 ∧ bits (0xFFFFFFFF : Word).toNat 8 24 ≠ 0 ∧
    ((0xFFFFFFFF : Word).extractLsb' 0 32).toNat % 32 ≠ 0 ∧ bits (0xFFFFFFFF : Word).toNat 12 20 ≠ 0 ∧
    ((laneAt 16384 parcel).ctx (csrTarget (laneAt 16384 parcel) 16384 0x700)).stopped = false := by decide +kernel

-- R142, R212: CVT_CTL reads back what a CSRW has written; a reserved field is cause 0x02, DETAIL 2.
theorem test_csrw_cvt : gives (exec (.csrw Guard.always 1 0x010) (lane .k (withX [0x1AA]))) (fun t => csrRead t 0 0x010 == 0x1AA) = true ∧
    gives (exec (.csrw Guard.always 1 0x010) (lane .k (handled (withX [0x800])))) (fun t =>
      (t.ctx 0).frCause.toNat % 65536 == 0x202 && (t.ctx 0).cvtCtl == 0xAA) = true := by decide +kernel

/-- A load that a held store comes before, and one of another class and place that goes on. -/
theorem witness_loads_order : storesFirst (behind.ctx 0) 0 false [(.co 0 0x40, 8)] = true ∧
    resolve behind (Acc.load 0 0 3 0) 0x8000000000000040 8 = .ok behind [(.co 0 0x40, 8)] ∧ behind.turn.miss = false ∧
    KReady behind 0 (.ld Guard.always 5 1 0 3) Guard.always [5, 1] ∧
    storesFirst (behind.ctx 0) 0x10 false [(.co 0 0x80, 8)] = false ∧
    ∀ rel : Bool, storesFirst ((scratched .k).ctx 0) 0 rel [(.co 0 0x40, 8)] = false := by
  refine ⟨by decide, rfl, ?_, ?_, ?_, ?_⟩ <;> decide +kernel

/-- Each access of K that replies, once it has missed, and one that its supervisor has ended. -/
theorem witness_replies : ∀ i ∈ [Instr.lds Guard.always 5 1 0 3, .lda Guard.always 5 1 0 3 2, .ldaSys Guard.always 5 1 0 3,
      .monw Guard.always 3 1 0 3, .aadd Guard.always 5 1 2 0 3 0 0, .aand Guard.always 5 1 2 0 3 0 0, .aor Guard.always 5 1 2 0 3 0 0,
      .axor Guard.always 5 1 2 0 3 0 0, .amin Guard.always 5 1 2 0 3 0 0, .amax Guard.always 5 1 2 0 3 0 0,
      .aminu Guard.always 5 1 2 0 3 0 0, .amaxu Guard.always 5 1 2 0 3 0 0, .aswap Guard.always 5 1 2 0 3 0 0,
      .cas Guard.always 5 1 2 3 0 3 0 0], ∀ b : Bool,
    (((scratched .k).modCtx 0 fun x => { x with kmiss := some i, retired := b }).ctx 0).kmiss = some i ∧
      (((scratched .k).modCtx 0 fun x => { x with kmiss := some i, retired := b }).ctx 0).stores = [] ∧
      (((scratched .k).modCtx 0 fun x => { x with kmiss := some i, retired := b }).ctx 0).dueFlt = none ∧
      (((scratched .k).modCtx 0 fun x => { x with kmiss := some i, retired := b }).ctx 0).retired = b ∧
      halted ((scratched .k).modCtx 0 fun x => { x with kmiss := some i, retired := b }) 0 = false ∧
      (b = false → KReady missed 0 i Guard.always [5, 1]) := by decide +kernel

-- R377: the reply of a missed atomic performs it.
theorem test_atomic_reply : gives (exec (.scalarAccessReply 0)
    ((scratched .k).modCtx 0 fun x => { x with kmiss := some (.aadd Guard.always 5 1 3 0 2 0 0) })) (fun t =>
      (t.ctx 0).rx 5 == 0x55667788 && t.scratchByte 0 0x40 == 0x87 && (t.ctx 0).kmiss.isNone && (t.ctx 0).k.pc == 8) = true := by
  decide +kernel

/-- A held store of 9 to an unmapped page, after which K has gone on to 0x100 and written x5. -/
def lateStore : State :=
  let x := handled (withX [0x10000, 9])
  let e : HeldStore := ⟨0x10000, 3, 0, leBytes 8 9, 33, 44, false, [], some ⟨x.x, x.p, x.k⟩⟩
  team .k { x.wx 5 77 with k := { x.k with pc := 0x100 }, stores := [e] }

theorem witness_late_store : ((lateStore.ctx 0).stores.map fun e => (e.undo.isSome, e.addr, e.lg, e.info, e.data.length)) =
      [(true, 0x10000, 3, 0, 8)] ∧ (lateStore.ctx 0).kmiss = none ∧ (lateStore.ctx 0).dueFlt = none ∧
    (match resolve lateStore (Acc.store 0 1 3 0) 0x10000 8 with
      | .flt .. => true
      | _ => false) = true ∧ (lateStore.ctx 0).retired = false ∧ stopsFaults (lateStore.ctx 0) = false ∧
    inHandler (lateStore.ctx 0) = false ∧ hasHandler (lateStore.ctx 0) 0 = true ∧ (lateStore.ctx 0).infl = [] ∧
    (lateStore.ctx 0).dbgFlt = none ∧ (lateStore.ctx 0).stack = [] ∧
    ((lateStore.ctx 0).stores.all fun e => e.undo.all fun u => !u.k.parking) = true ∧
    waitsStores (lateStore.ctx 0) (.send Guard.always 2 7 1) = true ∧ lateStore.turn.who = .lane 0 .k ∧
    (Instr.send Guard.always 2 7 1).wf = true := by decide +kernel

-- R377: a late fault of a store is precise at it: what K has done since is taken back.
theorem test_late_store : gives (exec (.scalarAccessReply 0) lateStore) (fun t => inHandler (t.ctx 0) && (t.ctx 0).rx 5 == 0 &&
    (t.ctx 0).frPos == 33 && (t.ctx 0).frResume[0] == 0 && bitAt (t.ctx 0).frCause 16) = true := by decide +kernel

/-- An entry of a group of 16 whose group holds a damaged block, beside the entry's own. -/
def grouped : State := { mapped 0 0x9F with poisoned := [0x3040 / 64] }

theorem witness_group : leNat (readPhys grouped 0 0x3000 8) = 0x9F ∧ 0x9F % 4 = 3 ∧ 0x9F / 2 ^ 7 % 2 = 1 ∧
    (match checkPhys grouped (Acc.load 0 0 3 0).table 0 0x3000 8 0 with
      | .go => true
      | _ => false) = true ∧
    (match checkPhys grouped (Acc.load 0 0 3 0).table 0 (0x3000 / 128 * 128) 128 0 with
      | .flt _ => true
      | _ => false) = true := by decide +kernel

/-! ## Faults, handlers and the host -/

/-- A fault of a retired parcel behind one that a debugger stop keeps. -/
def keptFault : State := faulted { parcel with retired := true, dbgFlt := some (⟨0x28, 1, 0x40, 7⟩, 1, true) }

theorem witness_kept_fault : (keptFault.cluster 0).flts = engFault :: [] ∧ (keptFault.ctx engFault.c).retired = true ∧
    (keptFault.ctx engFault.c).dbgFlt = some (⟨0x28, 1, 0x40, 7⟩, 1, true) := by decide +kernel

-- R351: it waits behind that one, whose record stays.
theorem test_kept_fault : gives (exec (.engineFault 0) keptFault) (fun t =>
    ((t.ctx 0).dbgNext.map fun f => f.flt) == [engFault.flt] && (t.ctx 0).frCause == 0 && !isHeld t 0) = true := by decide +kernel

theorem witness_unwind_settled : ∀ x ∈ [handled parcel, inside, parcel], (∀ e ∈ ((trapDue x none).ctx 0).stores, e.undo = none) ∧
    ParkSettled (trapDue x none) 0 := by decide +kernel

theorem witness_lift : teamSaving (laid .subsoil) 0 = false ∧ halted (laid .subsoil) 0 = false ∧
    teamSaving (saving.modCtx 0 fun x => x) 0 = true := by decide +kernel

/-- A suspended relocation of a parcel that has retired. -/
def endingTeam : State := (relocating.modCluster 0 fun x => { x with cmds := x.cmds.map fun k => { k with phase := .suspended } }).modCtx 0
  fun x => { x with retired := true }

theorem witness_ending_relocation : (endingTeam.cluster 0).team = some fetchTeam ∧ (endingReloc endingTeam 0 fetchTeam).isSome = true ∧
    endingReloc finished 0 fetchTeam = none ∧
    (let t : Team := { fetchTeam with recd := some ⟨2, 0, 0, 0, [⟨7, 0, 1, 5, 0⟩], [], [], false⟩ }
     endingReloc (finished.modCluster 0 fun x => { x with team := some t }) 0 t = none) := by decide +kernel

-- R390: it ends with its team, and ACTIVE clears.
theorem test_ending_relocation : bitAt (endingTeam.cluster 0).fwdStat 63 = true ∧
    gives (exec (.teamEnd 0) endingTeam) (fun t => !bitAt (t.cluster 0).fwdStat 63 && (t.cluster 0).team.isSome) = true := by decide +kernel

/-- A saved team whose K lane waits at a barrier that has released meanwhile, or has not. -/
def savedAt (b : Bool) : Saved := { saved with ctxs := [(0, { parcel with bar := some ⟨1, b, 0, 0, false, none⟩ })] }
def resumingAt (b : Bool) : State := (queued 0).modDie 0 fun x => { x with resumed := [savedAt b] }

theorem witness_resume_barrier : ∀ b : Bool, freeCluster (resumingAt b) 0 = some 1 ∧ mayPlace (resumingAt b) 0 = true ∧
    nextResumed ((resumingAt b).die 0) = some (savedAt b, []) ∧ (savedAt b).team.recd = none ∧ ((savedAt b).ctxs.map (·.1)).Nodup ∧
    (∀ e ∈ (savedAt b).ctxs, e.1 < 256 ∧ (e.2.bar.map (·.released)) = some b ∧ e.2.resident = true ∧ inHandler e.2 = false) := by
  decide +kernel

-- R65: the released K lane goes past its BAR.
theorem test_resume_barrier : gives (exec (.teamPlace 0) (resumingAt true)) (fun t => (t.ctx 256).bar.isNone && (t.ctx 256).k.pc == 4) = true := by
  decide +kernel

theorem witness_debug_next : (∀ b : Bool, ((trapped b).ctx 0).dbgNext = [] ∧ ParkSettled (trapped b) 0) ∧
    (∀ k ∈ [0, 4], ((pairStopped true).ctx k).dbgNext = []) := by decide +kernel

theorem witness_not_debugged : (∀ c ∈ teamCtxs (crowded 0) 15, ((crowded 0).ctx c).dbgFlt = none) ∧
    (∀ c ∈ teamCtxs saving 0, (saving.ctx c).dbgFlt = none) ∧ (∀ c ∈ teamCtxs stuck 0, (stuck.ctx c).dbgFlt = none) ∧
    (replaying.ctx 0).dbgFlt = none ∧ ((team .k parcel).ctx 0).dbgFlt = none := by decide +kernel

/-- The same die comes back, but the launches have failed already. -/
def lostFailed (r : Nat) : State :=
  { losing r true false false with launches := (losing r true false false).launches.map fun (n, l) => (n, { l with failed := some 0x41 }) }

theorem witness_lost_failed : ∀ r ∈ [4, 5], (lostFailed r).dies[(2 : Fin 4)].inReset = true ∧ (lostFailed r).dies[(2 : Fin 4)].lost = [(5, 6)] ∧
    (lostFailed r).svc.boot ≠ 3 ∧ ((lostFailed r).launch ((lostFailed r).launch 5).root).failed = some 0x41 ∧
    ((losing r true false false).launch ((losing r true false false).launch 5).root).failed = none ∧
    ((losing r true false false).launch 5).bars = [] := by decide +kernel

-- R336: a root that has failed is not replayed.
theorem test_lost_failed : gives (exec (.dieReturn 2) (lostFailed 4)) (fun t => (t.launch 4).failed == some 0x41) = true := by decide +kernel

/-- The mailbox: requests that stand in it, and one byte to write there. -/
theorem witness_mailbox : reachable.svc.boot ≠ 3 ∧ reachable.svc.ide = false ∧ reachable.svc.req.wf = true ∧ 0x200 ≤ 0x208 ∧
    0x208 + (8 : Fin 9).val ≤ 0x400 ∧ (0x030 : Nat) % 8 = 0 ∧
    (0x030 : Nat) ∉ [0x000, 0x008, 0x010, 0x018, 0x020, 0x028, 0x100, 0x108] ∧ reachable.svc.boot ≠ 1 := by decide +kernel

/-- The host's atomics, and those of a peer under key slot 1. -/
theorem witness_outside_atomics : (∀ n ∈ ([4, 8] : List (Fin 9)), 0x5000 + n.val ≤ hbmEnd ∧ inPool reachable 0x5000 n.val = false ∧
      0x5000 % n.val = 0 ∧ marked reachable.poisoned 64 0x5000 n.val = false ∧ 0x5001 % n.val ≠ 0 ∧
      inPool reachable 0x5001 n.val = false) ∧ reachable.keys[(1 : Fin 64)].loaded = true ∧ stackState reachable 0x5000 = 0 ∧
    stackState reachable 0x5001 = 0 ∧ (∃ l : Fin 32, reachable.links[l].trained = true) := by
  refine ⟨by decide +kernel, by decide +kernel, by decide +kernel, by decide +kernel, ⟨2, by decide +kernel⟩⟩

-- R331: BOOT and JEN, and bytes that no field holds.
theorem test_mailbox : mbRead reachable.svc 0 8 = 2 ∧ mbRead reachable.svc 0x30 8 = 0 ∧
    gives (exec (.hostAccess ⟨.write 0x1234, true, 0x208, 2, 0, false⟩) reachable) (fun t => mbRead t.svc 0x208 2 == 0x1234) = true := by
  decide +kernel
-- R330: the host's add answers with the old value.
theorem test_host_atomic : gives (exec (.hostAccess ⟨.atomic 0 5, false, 0x5000, 4, 0, false⟩) (writePhys reachable 1 0x5000 (leBytes 4 7)))
    (fun t => t.svc.reply == some 7 && readPhys t 1 0x5000 4 == leBytes 4 12) = true := by decide +kernel

/-! ## Attention and selection -/

/-- A slab of two pages of 4,608 bytes at 0x40000, of which `n` are in use, and a gather list of page 0 at 0x50000; `i` has issued with
block `b`, whose map entry is that slab. -/
def attending (i : Instr) (b : BitVec 512) (n : Nat) : State :=
  let s := writePhys (commanding (b + 0x30000)) 0 0x30000 (leBytes 16 (0x40000 + 2 ^ 64 + n * 2 ^ 72 + 0x1200 * 2 ^ 96))
  after (exec i (writePhys s 0 0x50000 (leBytes 8 1)))

/-- Something holds of the command of `attending`, its block and its slab. -/
def slabbed (s : State) (p : State → Cmd → KvBlk → Slab → Bool) : Bool := ofCmd s (firstCmd s) fun x =>
  match readSlab s x (kvBlk x.blk.toNat) with
  | .ok t m => p t x (kvBlk x.blk.toNat) m
  | _ => false

/-- A read of an engine succeeds. -/
def gets {α : Type} (r : Got α) (p : State → α → Bool) : Bool := match r with
  | .ok s a => p s a
  | _ => false

def kvapp1 : Instr := .kvapp Guard.always 1 15 2 9
def kvsel1 : Instr := .kvsel Guard.always 1 15 2 9
def kvatt1 : Instr := .kvatt Guard.always 1 15 2 9
def kvpre1 : Instr := .kvpre Guard.always 1 15 2 9

theorem witness_append : slabbed (attending kvapp1 appBlock 2) (fun s x k m =>
    let key := fun bs => numsOf (fmtCode k.kf) k.d bs
    k.kf == 1 && m.logp == 1 && bits x.blk.toNat 256 7 == 1 && bits x.blk.toNat 224 32 == 0 &&
    gets (engRead s x.c 6 (inSpace k.sspace (bits x.blk.toNat 64 52)) k.row) fun t kb =>
      gets (engRead t x.c 6 (inSpace k.sspace (bits x.blk.toNat 64 52 + k.row)) k.row) fun _ vb =>
        (key kb ++ key vb).all Machine.Num.isFin &&
          match appendFrom x.c k m (bits x.blk.toNat 64 52) 1 0 1 0 s ⟨none, [], [], []⟩ with
          | .ok .. => true
          | _ => false) = true := by decide +kernel

/-- A KVAPP and a KVPRE that have written everything, with PAGES to raise or not. -/
def appended (i : Instr) (n : Nat) : State := (attending i (appBlock + if i = kvpre1 then BitVec.ofNat 512 (3 * 2 ^ 261) else 0) n).modCluster 0 fun x =>
  { x with cmds := x.cmds.map fun k => { k with phase := .running, ready := true, mapped := true } }

theorem witness_pages : ∀ n ∈ [0, 2], (ofCmd (appended kvapp1 n) (firstCmd (appended kvapp1 n)) fun k => k.op == .kvapp && k.phase == .running &&
    k.ready && k.mapped && k.bad.isNone && k.outs.isEmpty &&
      resolves (appended kvapp1 n) ⟨k.c, 7, 2, true, true, false, 0⟩ 0x30008 4 fun s ps => (atomicRefused true 0x30008 0 ps).isNone &&
        bits (leNat (readPieces s ps)) 8 17 == n && bits k.blk.toNat 0 52 + 8 == 0x30008) = true := by decide +kernel

theorem witness_select : slabbed (attending kvsel1 selBlock 2) (fun s x k m => bits x.blk.toNat 224 17 == 0 && bits x.blk.toNat 256 17 == 1 &&
      m.pages == 2 && gets (readQuery s x.c k (bits x.blk.toNat 64 52) 1) fun t _ => gets (readSummary t x.c k.d (m.page 0)) fun _ _ => true) = true ∧
    slabbed (attending kvsel1 selBlock 0) (fun _ _ _ m => m.pages == 0) = true := by decide +kernel

theorem witness_page_read : slabbed (attending kvatt1 attBlock 2) (fun s x k m =>
    (gets (engRead s x.c 6 (BitVec.ofNat 64 (m.page 0)) 2) fun t b => !(bf16.decode (leNat b)).isNan &&
      gets (engRead t x.c 6 (BitVec.ofNat 64 (m.page 0 + 0x200)) k.row) fun t kb =>
        gets (engRead t x.c 6 (BitVec.ofNat 64 (m.page 0 + 0x200 + 64 * k.row)) k.row) fun _ vb =>
          (numsOf (fmtCode k.kf) k.d kb ++ numsOf (fmtCode k.kf) k.d vb).all Machine.Num.isFin) &&
    gets (engRead (writePhys s 0 0x41200 (leBytes 2 0x7FC0)) x.c 6 (BitVec.ofNat 64 (m.page 1)) 2) fun _ b =>
      (bf16.decode (leNat b)).isNan) = true := by decide +kernel

/-- A KVATT over the list of one page, whose first token counts. -/
def listBlock : BitVec 512 := kvBlock (2 ^ 352 + 0x50000 * 2 ^ 128 + 2 ^ 224)

theorem witness_attend : slabbed (attending kvatt1 listBlock 2) (fun s x k m =>
    gets (readQuery s x.c k (bits x.blk.toNat 64 52) 1) fun t q => q.length == 1 &&
      gets (engRead t x.c 6 (inSpace k.dspace 0x50000) 4) fun t cb =>
        match readList x.c 0x50000 m.pages k.dspace (min (leNat cb) (m.pages + 1)) 0 0 t [] with
        | .inl (u, ps) => ps == [0] && gets (readPage u x.c k m 0 1) fun _ r => match r with
          | .rows l => l.length == 1
          | .quar _ => false
        | .inr _ => false) = true := by decide +kernel

/-- A KVPRE whose tokens, of one element, follow the first page. -/
def preBlock : BitVec 512 := BitVec.ofNat 512 (0x30000 + 2 ^ 192 + 2 ^ 200 + 64 * 2 ^ 224)
def prefilling : State := (attending kvpre1 (kvBlock 0) 2).modCluster 0 fun x => { x with cmds := x.cmds.map fun k => { k with blk := preBlock } }

theorem witness_prefill : slabbed prefilling (fun s x k m =>
    match appendFrom x.c k m (bits x.blk.toNat 128 52) 64 64 64 0 s ⟨none, [], [], []⟩ with
    | .ok t a => a.rows.length == 64 && (a.rows.all fun e => (e.1 ++ e.2).all Machine.Num.isFin) &&
      gets (readQuery t x.c k (bits x.blk.toNat 64 52) 64) fun u q => q.length == 64 && gets (readPage u x.c k m 0 64) fun _ r => match r with
        | .rows l => l.length == 64
        | .quar _ => false
    | _ => false) = true := by decide +kernel

/-- The 64 rows of the mask of a SELACT can be read. -/
def masked (s : State) (x : Cmd) : Nat → Nat → Bool
  | 0, _ => true
  | n + 1, i => gets (engRead s x.c 6 (inSpace (bits x.blk.toNat 216 2) (bits x.blk.toNat 0 52 + 64 * i)) 64) fun t _ => masked t x n (i + 1)

theorem witness_mask : (ofCmd selecting (firstCmd selecting) fun x => masked selecting x 64 0) = true := by decide +kernel

-- R274: the first token's key is both halves of its page's summary; R276: the one page is kept; R247: element 0 is set.
theorem test_kvapp_summary : slabbed (attending kvapp1 appBlock 2) (fun s x _ _ => match prepKvapp (writePhys s 0 2 (leBytes 2 0x3F80)) x with
    | .ok _ k => (k.outs.map fun o => (o.addr.toNat, o.bytes.take 4)) == [(0x40200, [0, 0, 0x80, 0x3F]), (0x40200 + 64 * 32, [0, 0, 0, 0]),
      (0x40000, [0, 0, 0x80, 0x3F]), (0x40100, [0, 0, 0x80, 0x3F])]
    | .wait => false) = true := by decide +kernel

/-! ## Sinks, seeds, products and conversions -/

/-- A band all of whose bits are set: every element is poisoned. -/
def allPoison : BitVec 2048 := BitVec.allOnes 2048

/-- Streams of TSINK: armed and plain or packed, showing poison (BF16), or not armed; a stream of rows at its last row. -/
theorem witness_sinks : armedStrm.armed = true ∧ Strm.init.armed = false ∧ armedStrm.comp = false ∧ packing.comp = true ∧
    (let t := { armedStrm with blk := BitVec.ofNat 512 ((strmBlk 2).toNat - 8 * 2 ^ 64) }
     t.fmt = .bf16 ∧ poisonAt allPoison.toNat 0 0 = true ∧ poisonAt 0 0 0 = false) := by decide +kernel

theorem witness_seed_rows : (let t := vget ((working []).ctx 0).strm 3 Strm.init
      t.row = true ∧ t.rowc < 63 ∧ t.arr.length = 1 ∧ t.armed = true) ∧ ({ armedStrm with rowc := 63, arr := [⟨0, .retry⟩] } : Strm).rowc = 63 ∧
    armedStrm.row = false ∧ ({ armedStrm with rowc := 5 } : Strm).rowc ≠ 0 := by decide +kernel

/-- A format of each family of the vector pipes and an element of it; NaN of BF16 in a TSPLAT. -/
theorem witness_formats : Fmt.int64.isInt = true ∧ Fmt.fp16.isFp = true ∧ Fmt.int8.isMx = false ∧ Fmt.mxint4.isMx = true ∧
    (63 : Nat) < Fmt.int8.perRow ∧ (7 : Nat) < Fmt.int64.perRow ∧ (31 : Nat) < Fmt.fp16.perRow ∧ (0 : Nat) < granules .mxint4 ∧
    ((fpOf .bf16).decode 0x7FC0).isNan = true := by decide +kernel

/-- A seed entry of each mintable format, as the second operand of TMMA of its pair. -/
theorem witness_seeded : (∃ q γ, seedFmt (1 * 2 ^ 72) = Fmt.bf16.code ∧ minted false (1 * 2 ^ 72) = .single .bf16 q γ) ∧
    (∃ q γ, seedFmt (3 * 2 ^ 72) = Fmt.e4m3.code ∧ minted false (3 * 2 ^ 72) = .single .e4m3 q γ) ∧
    ∃ q γ, seedFmt (6 * 2 ^ 72) = Fmt.mxint8.code ∧ minted false (6 * 2 ^ 72) = .single .mxint8 q γ :=
  ⟨⟨_, _, by decide, rfl⟩, ⟨_, _, by decide, rfl⟩, ⟨_, _, by decide, rfl⟩⟩

/-- Conversions that take two tiles, one, and make four. -/
theorem witness_conversions : Fmt.bf16.perRow = 2 * Fmt.fp32.perRow ∧ Fmt.bf16.perRow ∈ [Fmt.fp32.perRow, 2 * Fmt.fp32.perRow, 4 * Fmt.fp32.perRow] ∧
    Fmt.e4m3.perRow ∈ [Fmt.fp32.perRow, 2 * Fmt.fp32.perRow, 4 * Fmt.fp32.perRow] ∧ Fmt.mxint8.isMx = true ∧ Fmt.bf16.isMx = false ∧
    rndOf { parcel with cvtCtl := 0x4AA } = 4 := by decide +kernel

/-! ## Recording -/

/-- A team of one parcel is recorded, or replayed, in a region of `len` bytes at 0x200000, or one that is full. -/
def recorded (mode seq : Nat) (events : List SyncRec) (len : W32) (full : Bool) : State :=
  let s := (team .k parcel).modCluster 0 fun x => { x with team := some { fetchTeam with recd := some ⟨mode, seq, 0, 0, events, [(0, 5)], [], false⟩ } }
  s.modDie 0 fun x => { x with recBase := 0x200000, recLen := len, recFull := full }

/-- The place of K in that team's parcel, and a recorded event of its queue. -/
def recPos : Word := posOf (team .k parcel) 0 .k
def event (kind seq : Nat) : SyncRec := ⟨recPos, noPos, kind, seq, 77⟩

theorem witness_recording : (∀ seq ∈ [3, 2 ^ 20 - 1], recOf (recorded 1 seq [] 4096 false) 0 = some ⟨1, seq, 0, 0, [], [(0, 5)], [], false⟩ ∧
      ((recorded 1 seq [] 4096 false).die 0).recFull = false ∧ (recorded 1 seq [] 4096 false).mem.wf = true ∧
      ((recorded 1 seq [] 4096 false).die 0).recWr.toNat + 96 ≤ ((recorded 1 seq [] 4096 false).die 0).recLen.toNat ∧
      0x200000 + 96 ≤ hbmEnd ∧ ((recorded 1 seq [] 64 false).die 0).recLen.toNat < ((recorded 1 seq [] 64 false).die 0).recWr.toNat + 96 ∧
      ((recorded 1 seq [] 4096 true).die 0).recFull = true) ∧ ((recorded 1 3 [] 32 false).die 0).recLen.toNat < 64 ∧
    stopsFaults ((recorded 1 3 [] 32 false).ctx 0) = false ∧ ((recorded 1 3 [] 32 false).ctx 0).dbgFlt = none := by decide +kernel

theorem witness_replay_events : (∀ k ∈ [4, 5, 6], [event k 3].find? (fun e => sameQueue e.pos recPos) = some (event k 3)) ∧
    (event 4 3).value ≠ 78 ∧ (event 6 3).kind ≠ 4 ∧ (event 6 3).kind ≠ 5 ∧ (0, (5 : Word)) ∈ [((0 : Nat), (5 : Word))] := by decide +kernel

theorem witness_recorded_csrr : (∀ s ∈ [recorded 1 3 [] 4096 false, recorded 2 3 [] 4096 false, recorded 2 3 [event 1 3] 4096 false,
      recorded 2 3 [event 6 3] 4096 false, recorded 2 3 [event 6 5] 4096 false],
      KReady s 0 (.csrr Guard.always 4 0x012) Guard.always [4] ∧ (recOf s 0).map RecSt.undone = some [] ∧ (recOf s 0).map RecSt.diverged = some false) ∧
    ((0x012 : BitVec 12).toNat ∈ [0x002, 0x011, 0x012]) ∧ (event 1 3).kind ≠ 6 ∧ posKey (event 6 3).pos = posKey recPos ∧
    (let e : SyncRec := { event 6 3 with pos := recPos + 2 }
     sameQueue e.pos recPos = true ∧ posKey e.pos ≠ posKey recPos) := by decide +kernel

-- R321, R323: a CSRR of CVT_STAT is event 3, of kind 6; R398: in replay it returns the recorded value, or parts from the record.
theorem test_recorded_csrr : gives (exec (.csrr Guard.always 4 0x012) (recorded 1 3 [] 4096 false)) (fun t =>
      leNat (readPhys t 0 0x200028 8) == 3 && leNat (readPhys t 0 0x200018 8) == 6 * 2 ^ 24 && (t.die 0).recWr == 64) = true ∧
    gives (exec (.csrr Guard.always 4 0x012) (recorded 2 3 [event 6 3] 4096 false)) (fun t => (t.ctx 0).rx 4 == 77) = true := by
  decide +kernel
theorem test_replay_parts : gives (exec (.csrr Guard.always 4 0x012) (recorded 2 3 [event 1 3] 4096 false)) (fun t =>
      isHeld t 0 && (t.ctx 0).frCause.toNat % 65536 == 0x143 && (t.ctx 0).k.pc == 0) = true ∧
    gives (exec (.csrr Guard.always 4 0x012) (recorded 1 3 [] 32 false)) (fun t =>
      isHeld t 0 && (t.ctx 0).frCause.toNat % 65536 == 0x44 && (t.die 0).recFull) = true := by decide +kernel

end Sys2Proof.Tests
end

section
/-! What reset leaves: each part of the module's state right after reset, read through the model's accessors. -/

namespace Sys2Proof.Machine

/-! ## The parts of the reset state -/

@[simp] theorem State.reset_ctx (c : Nat) : State.reset.ctx c = Ctx.init := rfl
@[simp] theorem State.reset_core (n : Nat) : State.reset.core n = CoreSt.init := rfl
@[simp] theorem State.reset_cluster (n : Nat) : State.reset.cluster n = Cluster.init := rfl

@[simp] theorem State.reset_dies_get (d : Fin 4) : State.reset.dies[d] = Die.init := by
  simp [State.reset]

@[simp] theorem State.reset_keys_get (k : Fin 64) : State.reset.keys[k] = ⟨none⟩ := by
  simp [State.reset, keysInit]

@[simp] theorem State.reset_hbmStacks_get (k : Fin 8) : State.reset.hbmStacks[k] = .up := by
  simp [State.reset]

@[simp] theorem State.reset_links_get (l : Fin 32) : State.reset.links[l] = ⟨false, 4096, 0⟩ := by
  simp [State.reset]

/-- A launch queue at reset: LQ_CFG 16, whose low 11 bits are TICKETS (spec/03 R53), and no team waiting. -/
@[simp] theorem Die.init_q_get (q : Fin 16) : Die.init.q[q] = ⟨16, 0, []⟩ := by
  simp [Die.init]

/-! ## The memories at reset -/

/-- No memory of the module lists a byte and no team has been saved, so every memory is in its canonical form. -/
theorem State.reset_canonical : State.reset.Canonical := by
  refine ⟨Memory.wf_nil, Memory.wf_nil, Memory.wf_nil, fun k => ?_, fun k => ?_, fun d v hv => ?_⟩
  · rw [reset_cluster]; exact Memory.wf_nil
  · rw [reset_core]; exact Memory.wf_nil
  · have hnone : Die.init.resumed ++ Die.init.lastSaves = [] := rfl
    rw [reset_dies_get, hnone] at hv
    cases hv

/-- A die right after reset is out of its reset, has no message, backing region or fault ring, and each of its launch queues is
empty and holds the reset TICKETS. -/
theorem Die.init_values : Die.init.inReset = false ∧ Die.init.msgs = [] ∧ Die.init.brLen = 0 ∧ Die.init.fqLen = 0 ∧
    ∀ q : Fin 16, Die.init.q[q].ents = [] ∧ bits Die.init.q[q].cfg.toNat 0 11 = 16 := by
  refine ⟨rfl, rfl, rfl, rfl, fun q => ?_⟩
  rw [init_q_get]
  exact ⟨rfl, by decide⟩

end Sys2Proof.Machine

namespace Sys2Proof

open Machine

/-- Settles O60: `State.reset` is read off part by part, each table through the lemma about its entries; the values the manual
does not give, and slot 0 not being loaded, are the model's (logs 5, 6). -/
theorem resetState : Obligations.ResetState := by
  have hkeys : ∀ k : Fin 64, State.reset.keys[k].loaded = false := fun k => by
    rw [State.reset_keys_get]; rfl
  have hdies : ∀ d : Fin 4, State.reset.dies[d].inReset = false ∧ State.reset.dies[d].msgs = [] ∧
      State.reset.dies[d].brLen = 0 ∧ State.reset.dies[d].fqLen = 0 ∧
      ∀ q : Fin 16, State.reset.dies[d].q[q].ents = [] ∧ bits State.reset.dies[d].q[q].cfg.toNat 0 11 = 16 := fun d => by
    rw [State.reset_dies_get]; exact Die.init_values
  have hlinks : ∀ l : Fin 32, State.reset.links[l].trained = false := fun l => by
    rw [State.reset_links_get]
  exact ⟨State.reset_canonical, rfl, rfl, fun _ => ⟨rfl, rfl⟩, rfl, State.reset_ctx, rfl, rfl, rfl, rfl, rfl, rfl, rfl, rfl,
    hkeys, hdies, State.reset_hbmStacks_get, hlinks⟩

end Sys2Proof
end

section
/-! The dispatch of the compute lane (spec/04 R83-R85): what claiming the operands changes, what the claims make, and what a form's
early checks come to. -/

namespace Sys2Proof.Machine

/-! ## The instructions that have a dispatch form -/

/-- An instruction that has a dispatch form is dispatched by it. -/
theorem exec_of_cformOf {i : Instr} {s : State} {f : CForm} (h : cformOf i s = some f) :
    exec i s = dispatch f s ∧ f.i = i := by
  cases i <;> cases h <;> exact ⟨rfl, rfl⟩

/-! ## The faults found before any wait -/

theorem underflow_eq_none_iff (x : Ctx) (f : CForm) :
    underflow x f = none ↔ ∀ d ∈ depthsOf f, d < x.stack.length := by
  simp [underflow]

/-- The first depth that does not exist is an underflow, before any misuse (spec/20 R365). -/
theorem earlyFault_of_underflow {x : Ctx} {f : CForm} {d : Nat}
    (h : (depthsOf f).find? (fun d => decide (x.stack.length ≤ d)) = some d) :
    earlyFault x f = some ⟨0x05, 0, wd d, wd x.stack.length⟩ := by
  simp [earlyFault, underflow, h]

/-- Where every depth exists and every stream may be used, what is left is the form's own check. -/
theorem earlyFault_of_check {x : Ctx} {f : CForm} (hdepths : ∀ d ∈ depthsOf f, d < x.stack.length)
    (hstreams : firstSome (streamMisuse x f.seedRow) f.srcs = none) :
    earlyFault x f = f.check x (f.srcs.map (kindOf x)) ((topEntry x f).map (·.kind)) := by
  simp [earlyFault, (underflow_eq_none_iff x f).2 hdepths, hstreams]

theorem underflow_eq_none_of_earlyFault {x : Ctx} {f : CForm} (h : earlyFault x f = none) : underflow x f = none := by
  cases hu : underflow x f with
  | none => rfl
  | some e => simp [earlyFault, hu] at h

/-- The entry that an instruction updates in place exists where the instruction has no underflow. -/
theorem topDepth_lt_of_earlyFault {x : Ctx} {f : CForm} (h : earlyFault x f = none) (htop : f.top = .inPlace) :
    topDepth f < x.stack.length :=
  (underflow_eq_none_iff x f).1 (underflow_eq_none_of_earlyFault h) _ (by simp [depthsOf, htop])

theorem topEntry_isSome {x : Ctx} {f : CForm} (htop : f.top = .inPlace) (h : topDepth f < x.stack.length) :
    (topEntry x f).isSome = true := by
  simp [topEntry, htop, entryAt, h]

/-! ## What claiming the operands changes -/

@[simp] theorem length_onEntry (id : Nat) (g : Entry → Entry) (l : List Entry) : (onEntry id g l).length = l.length := by
  simp [onEntry, replaceWhere]

/-- A change of one entry that keeps its id keeps every id. -/
theorem map_id_onEntry {id : Nat} {g : Entry → Entry} (hg : ∀ e, (g e).id = e.id) (l : List Entry) :
    (onEntry id g l).map (·.id) = l.map (·.id) := by
  simp only [onEntry, replaceWhere, List.map_map]
  refine List.map_congr_left fun e _ => ?_
  simp only [Function.comp_apply]
  split
  · exact hg e
  · rfl

/-- `t` is `s` but for where the entries of context `c` stand and which of them are claimed: no entry is lost, and no other part of
the context and no cluster is touched. -/
def ClaimedFrom (c : Nat) (s t : State) : Prop :=
  t.clusters = s.clusters ∧ ∃ stack ovfPtr claiming copied, stack.length = (s.ctx c).stack.length ∧
    t.ctx c = { s.ctx c with stack := stack, ovfPtr := ovfPtr, claiming := claiming, copied := copied }

theorem ClaimedFrom.refl (c : Nat) (s : State) : ClaimedFrom c s s := ⟨rfl, _, _, _, _, rfl, rfl⟩

theorem ClaimedFrom.trans {c : Nat} {s t u : State} (h : ClaimedFrom c s t) (h' : ClaimedFrom c t u) : ClaimedFrom c s u := by
  obtain ⟨hcl, st, ov, cg, cp, hlen, hctx⟩ := h
  obtain ⟨hcl', st', ov', cg', cp', hlen', hctx'⟩ := h'
  rw [hctx] at hlen' hctx'
  exact ⟨hcl'.trans hcl, st', ov', cg', cp', hlen'.trans hlen, hctx'⟩

theorem ClaimedFrom.modCtx_copyOut (c : Nat) (s : State) (id : Nat) : ClaimedFrom c s (s.modCtx c (copyOut id)) :=
  ⟨rfl, _, _, _, _, rfl, by rw [State.modCtx_eq, State.ctx_setCtx_self]; rfl⟩

theorem ClaimedFrom.modCtx_popOut (c : Nat) (s : State) (id : Nat) : ClaimedFrom c s (s.modCtx c (popOut id)) :=
  ⟨rfl, _, _, _, _, length_onEntry id _ _, by rw [State.modCtx_eq, State.ctx_setCtx_self]; rfl⟩

/-- Claiming a single or seed either leaves it where it stands or copies it, and pops it where its instruction pops it. -/
theorem claimOne_ready {s t : State} {c : Nat} {e : Entry} {pop : Bool} (h : claimOne s c e pop = .ready t) :
    t = s ∨ t = s.modCtx c (if pop then popOut e.id else copyOut e.id) := by
  unfold claimOne at h
  cases hres : e.res <;> grind

theorem ClaimedFrom.of_claimOne {s t : State} {c : Nat} {e : Entry} {pop : Bool} (h : claimOne s c e pop = .ready t) :
    ClaimedFrom c s t := by
  rcases claimOne_ready h with rfl | rfl
  · exact .refl c _
  · cases pop
    · exact .modCtx_copyOut c s e.id
    · exact .modCtx_popOut c s e.id

/-- A quad that is claimed needs nothing done. -/
theorem claimQuad_ready {s t : State} {c : Nat} {e : Entry} (h : claimQuad s c e = .ready t) : t = s := by
  unfold claimQuad at h
  cases hres : e.res <;> grind

theorem claimAll_ready {c : Nat} {pops ds : List Nat} {s t : State} (h : claimAll c pops ds s = .ready t) :
    ClaimedFrom c s t := by
  induction ds generalizing s with
  | nil => cases h; exact .refl c t
  | cons d ds ih =>
    unfold claimAll at h
    split at h
    · exact ih h
    · next e _ =>
      split at h
      · next u hu =>
        refine ClaimedFrom.trans ?_ (ih h)
        split at hu
        · exact claimQuad_ready hu ▸ .refl c _
        · exact .of_claimOne hu
      · next o hne => exact absurd h (hne t)

/-! ## What the sample ring changes -/

/-- `t` is `s` but for what a record of the sample ring changes: device physical memory and the dies (spec/14 R314). -/
def OnlyRing (s t : State) : Prop := t = { s with mem := t.mem, tags := t.tags, poisoned := t.poisoned, dies := t.dies }

theorem OnlyRing.refl (s : State) : OnlyRing s s := rfl

theorem OnlyRing.trans {s t u : State} (h : OnlyRing s t) (h' : OnlyRing t u) : OnlyRing s u := by
  unfold OnlyRing at h h' ⊢
  rw [h'] ; rw [h]

theorem OnlyRing.writePhys (s : State) (key a : Nat) (bs : List Byte) : OnlyRing s (writePhys s key a bs) := by
  unfold Machine.writePhys
  split
  · exact rfl
  · exact rfl

theorem OnlyRing.setDie (s : State) (d : Nat) (x : Die) : OnlyRing s (s.setDie d x) := rfl

theorem OnlyRing.ite {s t u : State} {p : Prop} [Decidable p] (ht : OnlyRing s t) (hu : OnlyRing s u) :
    OnlyRing s (if p then t else u) := by
  split
  · exact ht
  · exact hu

theorem OnlyRing.ringWrite (s : State) (d units typ : Nat) (body : List Byte) :
    OnlyRing s (ringWrite s d units typ body) := by
  unfold Machine.ringWrite
  refine .ite (.refl s) (.ite (.setDie ..) (.trans ?_ (.setDie ..)))
  exact .trans (.ite (.refl s) (.writePhys ..)) (.writePhys ..)

theorem OnlyRing.logWait (s : State) (d : Nat) (waiter setter : Word) (o : Option Wait) (value : Word) (done : Bool) :
    OnlyRing s (logWait s d waiter setter o value done) := by
  cases o with
  | none => exact .refl s
  | some w => exact .ite (.ringWrite ..) (.refl s)

theorem OnlyRing.ctx {s t : State} (h : OnlyRing s t) (c : Nat) : t.ctx c = s.ctx c := by rw [h]; rfl

/-- The lane whose wait ends waits no more; beside that only the sample ring may differ (spec/14 R311). -/
theorem endWait_eq_modCtx (s : State) (c : Nat) (ln : Lane) (setter value : Word) :
    ∃ t, OnlyRing s t ∧
      endWait s c ln setter value = t.modCtx c fun x => x.setLane ln { x.lane ln with wait := none, tokWait := none } :=
  ⟨_, .trans (.logWait ..) (.logWait ..), rfl⟩

theorem endWait_ctx_self (s : State) (c : Nat) (ln : Lane) (setter value : Word) :
    (endWait s c ln setter value).ctx c =
      (s.ctx c).setLane ln { (s.ctx c).lane ln with wait := none, tokWait := none } := by
  obtain ⟨t, hring, heq⟩ := endWait_eq_modCtx s c ln setter value
  rw [heq, State.modCtx_eq, State.ctx_setCtx_self, hring.ctx c]

@[simp] theorem endWait_clusters (s : State) (c : Nat) (ln : Lane) (setter value : Word) :
    (endWait s c ln setter value).clusters = s.clusters := by
  obtain ⟨t, hring, heq⟩ := endWait_eq_modCtx s c ln setter value
  rw [heq, State.modCtx_eq, State.setCtx_clusters, hring]

@[simp] theorem endWait_nextId (s : State) (c : Nat) (ln : Lane) (setter value : Word) :
    (endWait s c ln setter value).nextId = s.nextId := by
  obtain ⟨t, hring, heq⟩ := endWait_eq_modCtx s c ln setter value
  rw [heq, State.modCtx_eq, State.setCtx_nextId, hring]

theorem recOf_congr {s t : State} (h : t.clusters = s.clusters) (cl : Nat) : recOf t cl = recOf s cl := by
  simp only [recOf, State.cluster, h]

/-! ## What a dispatch takes from the streams -/

theorem takeTiles_fst (srcs : List Src) (x : Ctx) : ∃ strm, (takeTiles srcs x).1 = { x with strm := strm } := by
  induction srcs generalizing x with
  | nil => exact ⟨x.strm, rfl⟩
  | cons src srcs ih =>
    unfold takeTiles
    split
    · next hnil => cases hnil
    · next k r hcons =>
      obtain ⟨-, rfl⟩ := List.cons.inj hcons
      dsimp only
      split
      · exact ih _
      · next e rest harr => exact ih _
    · next hcons =>
      obtain ⟨-, rfl⟩ := List.cons.inj hcons
      exact ih _

theorem takeRow_fst (srcs : List Src) (x : Ctx) : ∃ strm, (takeRow srcs x).1 = { x with strm := strm } := by
  unfold takeRow
  split
  · dsimp only
    split
    · exact takeTiles_fst _ x
    · exact ⟨_, rfl⟩
  · exact ⟨x.strm, rfl⟩

/-- Whatever an instruction takes of its streams, tiles or a row, only the streams of its context change. -/
theorem taken_ctx {f : CForm} {x y : Ctx} {took : List (Nat × ArrEnt × Nat)} {cursor : List (Nat × Nat)}
    (h : (if f.seedRow then takeRow f.srcs x else ((takeTiles f.srcs x).1, (takeTiles f.srcs x).2, [])) = (y, took, cursor)) :
    ∃ strm, y = { x with strm := strm } := by
  split at h
  · have hfst := takeRow_fst f.srcs x
    rwa [h] at hfst
  · obtain ⟨rfl, -⟩ := Prod.mk.inj h
    exact takeTiles_fst f.srcs x

/-! ## The stack that a dispatch leaves -/

/-- A list of entries whose values and places are changed and whose ids are kept drops the same ids at the same depths. -/
theorem map_id_dropDepths_congr (pops : List Nat) {l l' : List Entry} (h : l.map (·.id) = l'.map (·.id)) (d : Nat) :
    (dropDepths pops d l).map (·.id) = (dropDepths pops d l').map (·.id) := by
  induction l generalizing l' d with
  | nil =>
    cases l' with
    | nil => rfl
    | cons e' l' => cases h
  | cons e l ih =>
    cases l' with
    | nil => cases h
    | cons e' l' =>
      have hid : e.id = e'.id := (List.cons.inj h).1
      have htail : l.map (·.id) = l'.map (·.id) := (List.cons.inj h).2
      simp only [dropDepths]
      split
      · exact ih htail (d + 1)
      · rw [List.map_cons, List.map_cons, hid, ih htail (d + 1)]

/-- Pin the entries that an instruction keeps in the till until it commits (spec/04 R84). -/
def pinKept (keep : List Nat) (e : Entry) : Entry := if keep.contains e.id then { e with pinned := true } else e

/-- The entries that stay on the stack of a context when an instruction of form `f` is dispatched, of which it pins `keep`. -/
def stayingEntries (f : CForm) (x : Ctx) (keep : List Nat) : List Entry :=
  let stack := dropDepths (allPops f) 0 (x.stack.map (pinKept keep))
  match f.top, (topEntry x f).map (·.id) with
  | .inPlace, some t => onEntry t pendTop stack
  | _, _ => stack

theorem pendTop_id (e : Entry) : (pendTop e).id = e.id := by
  unfold pendTop
  split <;> rfl

theorem pinKept_id (keep : List Nat) (e : Entry) : (pinKept keep e).id = e.id := by
  unfold pinKept
  split <;> rfl

/-- The entries that stay are those that the instruction does not pop (spec/04 R84). -/
theorem map_id_stayingEntries (f : CForm) (x : Ctx) (keep : List Nat) :
    (stayingEntries f x keep).map (·.id) = (dropDepths (allPops f) 0 x.stack).map (·.id) := by
  have hpin : (x.stack.map (pinKept keep)).map (·.id) = x.stack.map (·.id) := by
    rw [List.map_map]
    exact List.map_congr_left fun e _ => pinKept_id keep e
  unfold stayingEntries
  split
  · exact (map_id_onEntry pendTop_id _).trans (map_id_dropDepths_congr _ hpin 0)
  · exact map_id_dropDepths_congr _ hpin 0

/-! ## What a dispatch makes -/

theorem map_snd_numbered (id : Nat) (vals : List Val) : (numbered id vals).map (·.2) = vals := by
  induction vals generalizing id with
  | nil => rfl
  | cons v vals ih => exact congrArg (v :: ·) (ih (id + 1))

/-- A dispatched instruction will commit what its form `f` has made of its operands (spec/04 R86). -/
def CarriesMade (f : CForm) (made : Made) (j : Infl) : Prop :=
  j.results.map (·.2) = made.outs ++ (if f.top = .inPlace then made.top.toList else []) ∧ j.flt = made.flt ∧
    j.am = made.am ∧ j.stat = BitVec.ofNat 32 made.stat ∧ j.sr = made.sr ∧ j.dep = made.dep ∧ j.landing = made.landing

/-- A dispatched instruction keeps what its context was just before it (spec/04 R88). -/
def DispatchedAt (x : Ctx) (i : Instr) (j : Infl) : Prop :=
  j.i = i ∧ j.word = wordOf i ∧ j.pc = x.cl.pc ∧ j.loops = x.cl.loops

/-- The context after the claims of an instruction of form `f`: the instruction joins those dispatched, its pending results stand on
what stays of the stack, and the lane goes on (spec/04 R83-R85). -/
theorem claimed_spec (s : State) (c : Nat) (f : CForm) (ps : List Word) (vals : List Val) (topVal : Option Val)
    {x : Ctx} (hx : x = unpinWaiting (s.ctx c)) (htop : f.top = .inPlace → (topEntry x f).isSome = true) :
    ∃ nextId strm lat ovfPtr dropped keep j,
      claimed s c f ps vals topVal = State.setCtx { s with nextId := nextId } c { x with
        infl := x.infl.map (keepSlots dropped) ++ [j]
        stack := (pendings s.nextId (f.outs (f.srcs.map (kindOf x)))).reverse ++ f.perm (stayingEntries f x keep)
        strm := strm, lat := lat, ovfPtr := ovfPtr, copied := [], claiming := []
        cl := { x.cl with pc := x.cl.pc + 4, wait := none, tokWait := none, passBp := false, passBk := false } } ∧
      CarriesMade f (f.make x vals topVal) j ∧ DispatchedAt x f.i j := by
  subst hx
  unfold claimed
  extract_lets x pops made kinds id topId
  split
  rename_i pins keep hpins
  split
  rename_i y took cursor htaken
  obtain ⟨strm, rfl⟩ := taken_ctx htaken
  refine ⟨_, _, _, _, _, keep, _, rfl, ⟨?_, rfl, rfl, rfl, rfl, rfl, rfl⟩, rfl, rfl, rfl, rfl⟩
  rw [List.map_append, map_snd_numbered]
  congr 1
  cases hf : f.top
  case unused => rfl
  case popped => rfl
  case inPlace =>
    obtain ⟨e, he⟩ := Option.isSome_iff_exists.1 (htop hf)
    cases hm : made.top <;> simp [topId, x, he]

@[simp] theorem claimed_clusters (s : State) (c : Nat) (f : CForm) (ps : List Word) (vals : List Val) (topVal : Option Val) :
    (claimed s c f ps vals topVal).clusters = s.clusters := rfl

/-! ## The last steps of a dispatch -/

/-- Tokens that are there and that no other waiter comes before are taken, where no recording orders the takes (spec/09 R203). -/
theorem takeAt_ready {s : State} {c : Nat} {ln : Lane} {q n : Nat} (hthere : n ≤ (vget (s.ctx c).tq q []).length)
    (hturn : turnToTake s c ln.num q = true) (hrec : recOf s (clusterOf c) = none) (f : List Word → State → State)
    (hclusters : ∀ ps u, (f ps u).clusters = u.clusters) :
    ∃ ps tq taker u, takeAt s c ln q n (fun ps s => .next (f ps s)) = .next (f ps u) ∧ u.nextId = s.nextId ∧
      u.ctx c = { (s.ctx c).setLane ln { (s.ctx c).lane ln with wait := none, tokWait := none } with
        tq := tq, taker := taker } := by
  let l := vget (s.ctx c).tq q []
  let t := endWait s c ln (setterOf (l.take n)) 0
  let tq := vput (s.ctx c).tq q (l.drop n)
  let taker := vput (s.ctx c).taker q (posNext s c ln)
  refine ⟨l.take n, tq, taker, t.setCtx c { t.ctx c with tq := tq, taker := taker }, ?_, endWait_nextId .., ?_⟩
  · simp only [takeAt, takeTokens, if_pos hthere, hturn, gated_none hrec, Bool.not_true, Bool.false_eq_true, if_false]
    refine noted_none hrec ((recOf_congr ?_ _).trans hrec) ..
    rw [hclusters]
    exact endWait_clusters ..
  · rw [State.ctx_setCtx_self, endWait_ctx_self]

/-- Where the token and every claim is there, a dispatch ends in its claims, made of the context as it then stands. -/
theorem claimAndGo_ready {s s1 : State} {c : Nat} {f : CForm} (l : List Val)
    (hclaim : claimAll c (allPops f) (claims (s.ctx c) f) s = .ready s1) (htoken : tokenThere s c f = true)
    (hrec : recOf s (clusterOf c) = none) :
    ∃ ps tq taker u, claimAndGo s c f l = .next
        (claimed u c f ps (valuesOf (s1.ctx c) f.srcs l) ((topEntry (s1.ctx c) f).bind (·.val))) ∧
      u.nextId = s1.nextId ∧
      u.ctx c = { s1.ctx c with cl := { (s1.ctx c).cl with wait := none, tokWait := none }, tq := tq, taker := taker } := by
  obtain ⟨hclusters, _, _, _, _, -, hctx⟩ := claimAll_ready hclaim
  have hrec1 : recOf s1 (clusterOf c) = none := (recOf_congr hclusters _).trans hrec
  cases hq : queueOf f.toks.tw with
  | none =>
    simp only [claimAndGo, hclaim, hq]
    exact ⟨[], _, _, _, rfl, endWait_nextId .., endWait_ctx_self ..⟩
  | some q =>
    simp only [tokenThere, hq, Bool.and_eq_true, decide_eq_true_eq] at htoken
    obtain ⟨hthere, hturn⟩ := htoken
    have htq : (s1.ctx c).tq = (s.ctx c).tq := by rw [hctx]
    have hserved : servedFirst (s1.ctx c) Lane.c.num q = servedFirst (s.ctx c) Lane.c.num q := by rw [hctx]; rfl
    have hturn1 : turnToTake s1 c Lane.c.num q = true := by
      rwa [turnToTake, replays, recOf_congr hclusters, hserved]
    simp only [claimAndGo, hclaim, hq]
    exact takeAt_ready (htq ▸ hthere) hturn1 hrec1 _ fun _ _ => claimed_clusters ..

/-! ## The quad that the waiting instruction has pinned -/

/-- An entry, pinned or not. -/
def Entry.unpin (e : Entry) : Entry := { e with pinned := false }

theorem unpinWaiting_eq (x : Ctx) : unpinWaiting x = { x with stack := (unpinWaiting x).stack } := rfl

theorem map_unpin_unpinWaiting (x : Ctx) : (unpinWaiting x).stack.map Entry.unpin = x.stack.map Entry.unpin := by
  simp only [unpinWaiting, replaceWhere, List.map_map]
  refine List.map_congr_left fun e _ => ?_
  simp only [Function.comp_apply]
  split <;> rfl

theorem map_unpinWaiting {α : Type} {g : Entry → α} (hg : ∀ e, g e.unpin = g e) (x : Ctx) :
    (unpinWaiting x).stack.map g = x.stack.map g := by
  have h := congrArg (List.map g) (map_unpin_unpinWaiting x)
  simpa only [List.map_map, Function.comp_def, hg] using h

theorem length_unpinWaiting (x : Ctx) : (unpinWaiting x).stack.length = x.stack.length := by
  simpa using congrArg List.length (map_unpin_unpinWaiting x)

theorem kindOf_unpinWaiting (x : Ctx) : kindOf (unpinWaiting x) = kindOf x := by
  have hkind := map_unpinWaiting (g := (·.kind)) (fun _ => rfl) x
  funext src
  cases src with
  | strm k take => rfl
  | depth n pop => simp only [kindOf, entryAt, ← List.getElem?_map, hkind]

/-- The form sees the context as it stands at dispatch: only its waits, its queues and what its quads pin differ. -/
theorem unpinWaiting_of_eq {x x1 : Ctx} {cl : LaneSt} {tq : Vector (List Word) 16} {taker : Vector Word 16}
    (h : x = { x1 with cl := cl, tq := tq, taker := taker }) :
    unpinWaiting x = { x1 with
      stack := (unpinWaiting x).stack, cl := (unpinWaiting x).cl, tq := (unpinWaiting x).tq
      taker := (unpinWaiting x).taker } ∧
    (unpinWaiting x).stack.map Entry.unpin = x1.stack.map Entry.unpin ∧ kindOf (unpinWaiting x) = kindOf x1 := by
  have hstack : x.stack = x1.stack := by rw [h]
  have hkind : kindOf x = kindOf x1 := by rw [h]; rfl
  exact ⟨by subst h; rfl, (map_unpin_unpinWaiting x).trans (by rw [hstack]), (kindOf_unpinWaiting x).trans hkind⟩

/-- The registers outside the compute lane, and where that lane stands, are those of `x`. -/
def SameRegisters (x y : Ctx) : Prop :=
  y.cl.pc = x.cl.pc ∧ y.cl.loops = x.cl.loops ∧ y.x = x.x ∧ y.p = x.p ∧ y.k = x.k ∧ y.l = x.l ∧ y.sl = x.sl

end Sys2Proof.Machine

namespace Sys2Proof

open Machine

/-- Settles O32: `dispatch` reaches its claims by `dispatch_ready`, `claimAndGo_ready` says in which context they are made and
`claimed_spec` what they make; an instruction that may not run ends in `dispatch_early`. -/
theorem computeDispatch : Obligations.ComputeDispatch := by
  refine ⟨?_, ?_⟩
  · intro i s s1 c f l x hform hready htoken hearly htiles hpending hroom hhold hlate hclaim hrec x1 bare kinds top
    obtain ⟨hexec, rfl⟩ := exec_of_cformOf hform
    obtain ⟨hclusters, stack, ovfPtr, claiming, copied, hlength, hctx⟩ := claimAll_ready hclaim
    obtain ⟨ps, tq, taker, u, hgo, hnextId, hu⟩ := claimAndGo_ready l hclaim htoken hrec
    have hnext := hexec.trans ((dispatch_ready hready.1 hready.2 htoken hearly htiles hpending hroom hhold hlate).trans hgo)
    obtain ⟨hsees, hbare, hkind⟩ := unpinWaiting_of_eq hu
    obtain ⟨hpc, hloops, hregs⟩ : SameRegisters (s.ctx c) (unpinWaiting (u.ctx c)) := by
      show SameRegisters (s.ctx c) (u.ctx c)
      rw [hu, hctx]
      exact ⟨rfl, rfl, rfl, rfl, rfl, rfl, rfl⟩
    have htop : f.top = .inPlace → (topEntry (unpinWaiting (u.ctx c)) f).isSome = true := fun h => by
      refine topEntry_isSome h ?_
      rw [length_unpinWaiting, hu, hctx]
      exact hlength ▸ topDepth_lt_of_earlyFault hearly h
    obtain ⟨nextId, strm, lat, ovfPtr', dropped, keep, j, hclaimed, hmade, hi, hword, hjpc, hjloops⟩ :=
      claimed_spec u c f ps (valuesOf (s1.ctx c) f.srcs l) ((topEntry (s1.ctx c) f).bind (·.val)) rfl htop
    have ht := congrArg (State.ctx · c) hclaimed
    simp only [State.ctx_setCtx_self] at ht
    refine ⟨_, x1.infl.map (keepSlots dropped), j, unpinWaiting (u.ctx c), stayingEntries f (unpinWaiting (u.ctx c)) keep,
      hnext, ?_, ?_, ⟨hsees, hbare⟩, hmade, ⟨?_, ?_⟩, hi, hword, hjpc.trans hpc, hjloops.trans hloops, ?_⟩
    · rw [ht, show x1.infl = (u.ctx c).infl from (congrArg Ctx.infl hu).symm]
      rfl
    · rw [List.map_map]
      rfl
    · rw [ht, hnextId, hkind]
    · refine (map_id_stayingEntries ..).trans (map_id_dropDepths_congr _ ?_ 0)
      rw [map_unpinWaiting (fun _ => rfl), hu]
    · rw [ht]
      exact ⟨congrArg (· + 4) hpc, hloops, hregs⟩
  · intro i s c f hform hready htoken
    obtain ⟨hexec, rfl⟩ := exec_of_cformOf hform
    rw [hexec]
    refine ⟨fun d hd => ?_, fun hdepths hstreams e he => ?_⟩
    · exact dispatch_early hready.1 hready.2 htoken (earlyFault_of_underflow hd)
    · exact dispatch_early hready.1 hready.2 htoken ((earlyFault_of_check hdepths hstreams).trans he)

end Sys2Proof
end

section
/-! The unwinding of a recorded team (spec/04 R88): the recording notes the events that the cancelled instructions had made, so the
team that is then held differs from the one before in more than the cause that holds it. -/

namespace Sys2Proof.Machine

/-! ## A recorded team that a poisoned departure stops -/

/-- TSINK of the tile at the head of stream 2, which stays there, to stream 1, behind a token of queue 1. -/
def waitingSink : Instr := .tsink ⟨true, 2, true⟩ ⟨true, 1, false⟩ ⟨1, 0⟩

/-- That TSINK dispatched: it has taken its token, reserved its departure and found the tile's first element poisoned (spec/20
R368). -/
def poisonedSink : Infl :=
  { inflOf Ctx.init waitingSink (wordOf waitingSink) with
    toks := [(1, [noPos])], dep := some (1, .single .bf16 0 1), flt := some ⟨0x08, 0, 0, 0⟩ }

/-- A team of one parcel that is being recorded (spec/14 R320). -/
def recordedTeam : Team := { fetchTeam with recd := some ⟨1, 0, 0, 0, [], [], [], false⟩ }

/-- That team on cluster 0, its parcel in context 0, whose kernel names no trap vector: the poisoned TSINK is to be cancelled. -/
def recordedSink : State :=
  { State.reset with
    ctxs := [(0, { Ctx.init with resident := true, infl := [poisonedSink] })]
    clusters := [(0, { Cluster.init with team := some recordedTeam })] }

/-- The events of cancelled instructions that the recording of the team on cluster 0 keeps in the state answered. -/
def undoneAt0 : Out3 → Option (List Word)
  | .next t => (recOf t 0).map (·.undone)
  | .fault _ | .refused _ => none

/-- The take of the token counts once though its TSINK will take it again: the recording keeps it (spec/14 R325; log 61). -/
theorem undoneAt0_trapUnwind_recordedSink :
    undoneAt0 (exec (.trapUnwind 0) recordedSink) = some [posOf recordedSink 0 .c] := by
  decide +kernel

end Sys2Proof.Machine

namespace Sys2Proof

open Machine

/-- Refutes O36: the clause of TRAP_UNWIND for a fault that goes to the supervisor says that nothing of the team differs but the
cause that holds it. Cancelling an instruction of a recorded team that has taken a token also notes that event in the team's
recording (`keepMade`), as for `recordedSink`, which meets every hypothesis of the clause. -/
theorem not_commitsAndStack : ¬ Obligations.CommitsAndStack := by
  rintro ⟨-, -, hunwind, -⟩
  obtain ⟨-, hraised⟩ := hunwind recordedSink 0 poisonedSink [] ⟨0x08, 0, 0, 0⟩ rfl rfl
  obtain ⟨t, hexec, -, -, -, -, -, -, hteam⟩ := hraised rfl rfl rfl rfl (by decide) (.inl rfl) rfl (by decide)
  have hheld : (t.cluster 0).team = some { recordedTeam with held := some 0x08 } :=
    hteam (by decide) (.inr rfl) recordedTeam rfl
  have hundone := undoneAt0_trapUnwind_recordedSink
  simp [hexec, undoneAt0, recOf, hheld, recordedTeam] at hundone

end Sys2Proof
end
